-- ==== Sys2Proof/Word.lean ====
section
/-!
DEFINITION. The words of the motion ring: bytes, two-byte fields, and the plain readings of them.
-/

namespace Sys2Proof

/-- One byte of a frame (spec 01, 1.2). -/
abbrev Byte := BitVec 8

/-- A two-byte field of a frame, high byte first (spec 01, 1.2). -/
abbrev Half := BitVec 16

/-- The two bytes of a field, high byte first (R3, 1.2 'Multi-byte fields are sent high byte first'). -/
def Half.bytes (h : Half) : List Byte := [h.extractLsb' 8 8, h.extractLsb' 0 8]

/-- The two-byte field whose high byte is `hi` and low byte `lo`. -/
def halfOf (hi lo : Byte) : Half := hi ++ lo

/-- The byte that holds the number `n`, modulo 256. -/
def byte (n : Nat) : Byte := BitVec.ofNat 8 n

end Sys2Proof
end

