-- ==== Sys2Proof/Syntax.lean ====
section
/-!
DEFINITION. The commands of the M4: one constructor for each row of spec/opcode_table.json.
A frame row carries the header and the payload fields of the frame as they stand on the wire, so that ill-formed
frames are commands too; what the block makes of them is the machine's matter (R8).
-/

namespace Sys2Proof

/-- The five axes (spec 00, 0.4). -/
inductive Axis
  | hoist | drag | swing | walkLeft | walkRight
  deriving DecidableEq, Repr

/-- The four brake channels (spec 00, 0.4; R46). -/
inductive Chan
  | hoist | drag | swing | walk
  deriving DecidableEq, Repr

/-- The header fields a sender chooses for a frame of a given kind (R3): bytes 0, 1 and 3 and the life. -/
structure Header where
  dst : Byte
  src : Byte
  life : BitVec 4
  seq : Byte
  deriving DecidableEq, Repr

/-- The nine bytes of a Reference payload as fields (R4). -/
structure RefWire where
  axis : Byte
  brake : Byte
  lever : Half
  speed : Half
  torque : Half
  cause : Byte
  deriving DecidableEq, Repr

/-- The ten bytes of a Drive Status payload as fields (R5). -/
structure StatusWire where
  axis : Byte
  status : Byte
  speed : Half
  position : Half
  turns : Half
  current : Half
  deriving DecidableEq, Repr

/-- The commands. Each constructor is the row of the table with the same name. The two rows that run the steps of R201
carry the frames, byte by byte as received, that are taken at IN before steps 3 to 5, none unless they are given
(log 32). -/
inductive Instr
  | powerOnReset (straps : BitVec 6) (early : List (List Byte) := [])
  | restartTakesEffect (early : List (List Byte) := [])
  | frameTakenAtIn (bytes : List Byte)
  | reference (h : Header) (r : RefWire)
  | driveStatus (h : Header) (d : StatusWire)
  | sensorReport (h : Header) (pairs : List (Byte × Half))
  | modeRequest (h : Header) (target : Byte)
  | ack (h : Header) (point : Byte)
  | shelve (h : Header) (point : Byte) (minutes : Half)
  | unshelve (h : Header) (point : Byte)
  | resetLatched (h : Header)
  | resetTrip (h : Header)
  | testStart (h : Header)
  | testAbort (h : Header)
  | identify (h : Header) (tag : Half)
  | readStatus (h : Header) (tag : Half) (part : Byte)
  | readTable (h : Header) (tag : Half) (copy table entry : Byte)
  | writeTable (h : Header) (tag : Half) (table entry : Byte) (mask : List Byte) (mode : Byte) (values : List Byte)
  | copyActiveToStaging (h : Header) (tag : Half)
  | activate (h : Header) (tag : Half)
  | commit (h : Header) (tag : Half)
  | saveAttributes (h : Header) (tag : Half)
  | readAttributes (h : Header) (tag : Half) (part : Byte)
  | renewAttribute (h : Header) (tag : Half) (id : Byte)
  | readActiveList (h : Header) (tag : Half) (position : Byte)
  | readTrip (h : Header) (tag : Half) (position part : Byte)
  | consumeTrips (h : Header) (tag : Half) (count : Byte)
  | readTestLog (h : Header) (tag : Half) (age : Byte)
  | startBrakeTest (h : Header) (tag : Half)
  | abortBrakeTest (h : Header) (tag : Half)
  | readStation (h : Header) (tag : Half) (entry : Byte)
  | readCounters (h : Header) (tag : Half) (part clear : Byte)
  | restart (h : Header) (tag : Half)
  | unknownRequest (h : Header) (payload : List Byte)
  | sendingComplete
  | statusNotice
  | alarmNotice
  | initToParked
  | parkingComplete
  | homeWaitEnd
  | segmentBegin
  | secondFinalReference
  | autosave
  | commitCompletion (readBack : List Byte)
  | saveCompletion (readBack : List Byte)
  | freshnessTimerExpiry (entry : Fin 16)
  | ringSilenceExpiry
  | dwellExpiry
  | parkTimerExpiry
  | releaseDueExpiry (c : Chan)
  | proveTimerExpiry (c : Chan)
  | releaseConfirmExpiry (c : Chan)
  | releaseDwellExpiry (c : Chan)
  | setConfirmExpiry (c : Chan)
  | autosetExpiry (c : Chan)
  | onsetExpiry
  | confirmTimerExpiry
  | prepTimeoutExpiry
  | onDelayExpiry (p : Fin 48)
  | shelfExpiry (p : Fin 48)
  | conversionCompletion (ch : Fin 4) (input reference : Int)
  | rampTimeout
  | holdExpiry
  | testPeriodExpiry
  | resumeExpiry
  | suspendLimitExpiry
  | minuteTimerExpiry
  deriving DecidableEq, Repr

end Sys2Proof
end

