-- ==== Sys2Proof/Decode.lean ====
section
/-!
DEFINITION. The command that a table word spells. No row of spec/opcode_table.json gives bits ("fields": [] and no
"fixed" in every row), so no word spells a command (log 36).
-/

namespace Sys2Proof

/-- The command a word of the opcode table spells: none, since no row of the table has bits. -/
def decodeTableWord (_nbits _w : Nat) : Option Instr := none

end Sys2Proof
end

