-- ==== Sys2Proof/Config.lean ====
section
/-!
DEFINITION. The fixed times and sizes of the part, and the free values: what the spec leaves open, with no body, so
that nothing can be proved about their value.
-/

namespace Sys2Proof.Config

/-- A byte the spec leaves open, by the index of its use: the code or tag byte echoed for a Management Request whose
payload is too short to hold one (R7, R191; log 11). Free value. -/
opaque freeByte : Nat → Byte

/-- The place, by the index of its use, that a timer's expiry takes among those that fall due in one millisecond:
'either may be taken first' (R46, R131 and others; log 2). Free value. -/
opaque tieOrder : Nat → Nat

/-- The quotient of a dividend by 0: R1 defines div for no divisor 0, and a tables region that the load takes unchecked
may hold a life, a slip limit or a segment list of 0 (log 50). Free value, a function of the dividend. -/
opaque divByZero : Nat → Nat

/-- Whether the trip of a TRIP-class point whose entry holds no trip action de-energises BRAKE too, by the point: R127 bars
such an entry at ACTIVATE, and the load of a tables region makes no such test (log 51). Free value. -/
opaque bothLines : Nat → Bool

/-- Forward queue capacity (R15). -/
def forwardCap : Nat := 8
/-- Insert queue capacity (R16). -/
def insertCap : Nat := 16
/-- Free count at which a Management Request is admitted (R11). -/
def requestRoom : Nat := 2
/-- Free count at which a notice is built (R18). -/
def noticeRoom : Nat := 4
/-- Greatest length of the results of a Management Response (R191). -/
def resultBytes : Nat := 44
/-- Ring silence timer, ms (R24). -/
def silenceMs : Nat := 50
/-- Conversions of a settling channel (R149). -/
def settleConversions : Nat := 50
/-- Internal reference, microvolts: 2.5 V (R145, spec 00, 0.6). -/
def internalReference : Int := 2500000
/-- Trip record queue capacity (R163). -/
def tripCap : Nat := 32
/-- Ramp timeout, ms (R180). -/
def rampMs : Nat := 2000
/-- Resume delay, ms (R180). -/
def resumeMs : Nat := 2000
/-- Suspend limit, ms (R180). -/
def suspendMs : Nat := 60000
/-- Test period, ms (R180). -/
def periodMs : Nat := 50
/-- Minute timer, ms (R178). -/
def minuteMs : Nat := 60000

end Sys2Proof.Config
end

