-- ==== Sys2Proof/Machine/Types.lean ====
section
/-!
DEFINITION. The named values of the manual (modes, states, causes), families of like things indexed by axis and by
brake channel, and the frames the queues hold.
-/

namespace Sys2Proof.Machine

/-- A value for each brake channel. -/
structure PerChan (α : Type) where
  hoist : α
  drag : α
  swing : α
  walk : α
  deriving DecidableEq, Repr

/-- A value for each axis. -/
structure PerAxis (α : Type) where
  hoist : α
  drag : α
  swing : α
  walkLeft : α
  walkRight : α
  deriving DecidableEq, Repr

/-- A value for each axis of a channel: `first` for the one axis of HOIST, DRAG and SWING and for WALK_LEFT,
`second` for WALK_RIGHT (R46 'one per axis of the channel'). -/
structure Pair (α : Type) where
  first : α
  second : α
  deriving DecidableEq, Repr

/-- The seven modes, in the order of R29. -/
inductive Mode
  | init | parked | dig | walkPrep | walking | testing | tripped
  deriving DecidableEq, Repr

/-- The INIT reasons, in the order of R29. -/
inductive InitReason
  | none | badStation | noTables | holdRecords | waiting
  deriving DecidableEq, Repr

/-- Targets of the pending slot, in the order of R37. -/
inductive Target
  | dig | walk | park
  deriving DecidableEq, Repr

/-- What the pending slot waits for (R37); a DWELL wait holds the time it ends. -/
inductive Wait
  | dwell (endsAt : Nat)
  | brakes
  | homePhase
  deriving DecidableEq, Repr

/-- The contents of the pending slot (R37). -/
structure Slot where
  target : Target
  wait : Wait
  deriving DecidableEq, Repr

/-- The parking hold (R28, R29). -/
inductive Hold
  | none | digChannels | walkChannel
  deriving DecidableEq, Repr

/-- The refusal causes, codes 0 to 13 of R36. -/
inductive Refused
  | none | illegalTransition | tripActive | stationNotFresh | analogSettling | attrPrefail | testRunning
  | noTables | walkPrepTimeout | holdRecords | brakesNotSet | latchedActive | shelveTripClass | directLimit
  deriving DecidableEq, Repr

/-- The channel states, in the order of R46 and 3.1. -/
inductive ChanState
  | set | releasePending | releasing | released | setPending | setting | fault
  deriving DecidableEq, Repr

/-- Standing requests (R46, R49); the brake fields 0, 1 and 2 of R4. -/
inductive BrakeReq
  | hold | release | releaseAutoset
  deriving DecidableEq, Repr

/-- The brake state a drive reports (R5). -/
inductive DriveBrake
  | set | released | transit | fault
  deriving DecidableEq, Repr

/-- The limit causes, codes 0 to 13 of R70. -/
inductive Cause
  | none | init | mode | stale | envelope | tightline | zone | walkPhase | skewTrim | walkDirection | brake | trip
  | test | parking
  deriving DecidableEq, Repr

/-- Freshness of a station entry (R21). -/
inductive Fresh
  | fresh | stale | lost
  deriving DecidableEq, Repr

/-- Station roles, in the order of R21. -/
inductive Role
  | console | drive | sensor | manager
  deriving DecidableEq, Repr

/-- Walk phases, in the order of R103. -/
inductive Phase
  | home | lower | lift | stride | setdown | raise
  deriving DecidableEq, Repr

/-- Alarm point states, in the order of 7.3. -/
inductive PState
  | normal | delaying | activeUnack | activeAck | returnedUnack | shelved | disarmed
  deriving DecidableEq, Repr

/-- Alarm classes, in the order of R126. -/
inductive PClass
  | trip | warning | advisory
  deriving DecidableEq, Repr

/-- Directions of a comparison, in the order of R126 and R146. -/
inductive Dir
  | above | below
  deriving DecidableEq, Repr

/-- Trip actions, in the order of R126 and R155. -/
inductive TripAction
  | field | both
  deriving DecidableEq, Repr

/-- Trip causes with their indices (9.1, R155). -/
inductive TripCause
  | point (p : Fin 48)
  | direct (ch : Fin 4)
  | brakeFault (c : Chan)
  | skew
  | stationLost (e : Fin 16)
  deriving DecidableEq, Repr

/-- The state of a trip line (R160). -/
inductive Line
  | energised | deEnergised
  deriving DecidableEq, Repr

/-- Brake test status, in the order of R181. -/
inductive TestStatus
  | neverRun | inProgress | suspended | passed | failedSlip | failedNoTorque | failedStale | abortedOperator
  | abortedTrip
  deriving DecidableEq, Repr

/-- Segment phases (R181). -/
inductive SegPhase
  | ramp | hold | waiting
  deriving DecidableEq, Repr

/-- Segment results, in the order of R190. -/
inductive SegOutcome
  | pass | fail | noTorque | notFinished
  deriving DecidableEq, Repr

/-- One segment result (R190). -/
structure SegResult where
  chan : Chan
  slip : Option Nat
  outcome : SegOutcome
  deriving DecidableEq, Repr

/-- Store states (R198). -/
inductive StoreState
  | idle | committing | saving
  deriving DecidableEq, Repr

/-- The last store result (R198). -/
inductive StoreResult
  | none | ok | storeFailed
  deriving DecidableEq, Repr

/-- Response statuses, in the order of R7. -/
inductive Status
  | ok | badRequest | badIndex | wrongMode | busy | notAuthorised | checkFailed | storeFailed
  deriving DecidableEq, Repr

/-- The ring statistics counters, in the order of R25. -/
inductive Counter
  | taken | forwarded | rewritten | forPart | removedCheck | removedLife | returnedOwn | removedDuplicate
  | removedRefusedRef | removedForwardFull | removedSuperseded | removedMisaddressed | removedUnauthorised
  | requestsNotTaken | inserted | seqGaps
  deriving DecidableEq, Repr

/-- A ring frame less its check bytes, which are always worked out from it (R2, R3). The payload length field is the
length of the payload. -/
structure Frame where
  dst : Byte
  src : Byte
  kind : BitVec 4
  life : BitVec 4
  seq : Byte
  payload : List Byte
  deriving DecidableEq, Repr

/-- A frame of the forward queue, with its payload as taken at IN (R12, R15). -/
structure FwdEntry where
  frame : Frame
  taken : List Byte
  deriving DecidableEq, Repr

/-- The classes of the insert queue, in order (R16). A response that answers RESTART is marked (R202); an Alarm Notice
names its point (R18). -/
inductive InsClass
  | testRef
  | response (answersRestart : Bool)
  | status
  | alarm (p : Fin 48)
  deriving DecidableEq, Repr

/-- A frame of the insert queue: it has no sequence until OUT takes it (R20). -/
structure InsEntry where
  cls : InsClass
  dst : Byte
  src : Byte
  kind : BitVec 4
  life : BitVec 4
  payload : List Byte
  deriving DecidableEq, Repr

/-- What OUT is sending (R15, R19): the head of the forward queue, which stays in the queue, or an inserted frame,
which has left it. -/
inductive Sending
  | forward
  | inserted (cls : InsClass) (frame : Frame)
  deriving DecidableEq, Repr

variable {α : Type}

/-- The value for a channel. -/
def PerChan.get (p : PerChan α) : Chan → α
  | .hoist => p.hoist
  | .drag => p.drag
  | .swing => p.swing
  | .walk => p.walk

/-- The family with the value for one channel replaced. -/
def PerChan.set (p : PerChan α) (c : Chan) (a : α) : PerChan α :=
  match c with
  | .hoist => { p with hoist := a }
  | .drag => { p with drag := a }
  | .swing => { p with swing := a }
  | .walk => { p with walk := a }

/-- The value for an axis. -/
def PerAxis.get (p : PerAxis α) : Axis → α
  | .hoist => p.hoist
  | .drag => p.drag
  | .swing => p.swing
  | .walkLeft => p.walkLeft
  | .walkRight => p.walkRight

/-- The family with the value for one axis replaced. -/
def PerAxis.set (p : PerAxis α) (x : Axis) (a : α) : PerAxis α :=
  match x with
  | .hoist => { p with hoist := a }
  | .drag => { p with drag := a }
  | .swing => { p with swing := a }
  | .walkLeft => { p with walkLeft := a }
  | .walkRight => { p with walkRight := a }

/-- The value for an axis of a channel. -/
def Pair.get (p : Pair α) : Axis → α
  | .walkRight => p.second
  | _ => p.first

/-- The pair with the value for one axis replaced. -/
def Pair.set (p : Pair α) (x : Axis) (a : α) : Pair α :=
  match x with
  | .walkRight => { p with second := a }
  | _ => { p with first := a }

/-- Whether the marks of all axes of a channel are set: the one mark, or both walk marks (R53). -/
def Pair.all (p : Pair Bool) : Chan → Bool
  | .walk => p.first && p.second
  | _ => p.first

/-- The channel of an axis (R46). -/
def chanOf : Axis → Chan
  | .hoist => .hoist
  | .drag => .drag
  | .swing => .swing
  | .walkLeft => .walk
  | .walkRight => .walk

/-- The axes of a channel (R46). -/
def axesOf : Chan → List Axis
  | .hoist => [.hoist]
  | .drag => [.drag]
  | .swing => [.swing]
  | .walk => [.walkLeft, .walkRight]

/-- The channels, in the order of R46. -/
def allChans : List Chan := [.hoist, .drag, .swing, .walk]

/-- The axes, in the order of 0.4. -/
def allAxes : List Axis := [.hoist, .drag, .swing, .walkLeft, .walkRight]

/-- The other walk axis. -/
def otherCam : Axis → Axis
  | .walkLeft => .walkRight
  | _ => .walkLeft

/-- Whether an axis is a walk axis. -/
def isCam : Axis → Bool
  | .walkLeft => true
  | .walkRight => true
  | _ => false

/-- Whether an entry to this point state puts the point in the active list (7.3, R139). -/
def PState.listed : PState → Bool
  | .activeUnack => true
  | .activeAck => true
  | .returnedUnack => true
  | _ => false

/-- Whether a point in this state counts as unacknowledged (R140). -/
def PState.unack : PState → Bool
  | .activeUnack => true
  | .returnedUnack => true
  | _ => false

/-- Whether a point in this state is active (R35, R168). -/
def PState.active : PState → Bool
  | .activeUnack => true
  | .activeAck => true
  | _ => false

end Sys2Proof.Machine
end

