-- ==== Sys2Proof/Machine/Tables.lean ====
section
/-!
DEFINITION. The eleven tables of the table set (R193) as typed records. A staging copy may hold values outside their
ranges (R195), so numeric fields are plain numbers.
-/

namespace Sys2Proof.Machine

/-- A station-table entry (R21); number 0 marks it unused. -/
structure StationCfg where
  number : Nat
  role : Role
  axis : Option Axis
  timeout : Nat
  deriving DecidableEq, Repr

/-- The mode table (R30). -/
structure ModeCfg where
  parkedDwell : Nat
  digDwell : Nat
  walkingDwell : Nat
  cap : PerAxis Nat
  parkCode : Nat
  deriving DecidableEq, Repr

/-- The brake parameters of one channel (R47). -/
structure BrakeCfg where
  minSet : Nat
  minRelease : Nat
  prove : Nat
  releaseConfirm : Nat
  setConfirm : Nat
  proving : Nat
  band : Nat
  autoset : Nat
  deriving DecidableEq, Repr

/-- One row of the envelope table (R81). -/
structure EnvRow where
  dragStart : Nat
  hoistMin : Nat
  hoistMax : Nat
  band : Nat
  slow : Nat
  deriving DecidableEq, Repr

/-- The drag globals of the envelope table (R81). -/
structure DragCfg where
  rows : Nat
  dragMin : Nat
  dragMax : Nat
  band : Nat
  slow : Nat
  deriving DecidableEq, Repr

/-- Kinds of swing zone (R90). -/
inductive ZoneKind
  | unused | noEntry | slow
  deriving DecidableEq, Repr

/-- A swing zone (R90). -/
structure ZoneCfg where
  kind : ZoneKind
  start : Nat
  stop : Nat
  slow : Nat
  band : Nat
  deriving DecidableEq, Repr

/-- The walk parameters (R103, entry 0). -/
structure WalkCfg where
  sectors : Nat
  trimLimit : Nat
  trimPercent : Nat
  tripLimit : Nat
  reversal : Nat
  stride : Nat
  heading : Nat
  headingTol : Nat
  grounded : Nat
  slack : Nat
  boomChannel : Nat
  boomMin : Int
  boomMax : Int
  inclChannel : Nat
  inclLimit : Nat
  prepConfirm : Nat
  prepTimeout : Nat
  deriving DecidableEq, Repr

/-- A cam sector (R103, entries 1..8). -/
structure SectorCfg where
  start : Nat
  phase : Phase
  cap : Nat
  deriving DecidableEq, Repr

/-- An alarm point entry (R126); bit n of the mask is the mode at position n of R29. -/
structure PointCfg where
  enabled : Bool
  source : Nat
  dir : Dir
  setThr : Int
  clearThr : Int
  onDelay : Nat
  cls : PClass
  latching : Bool
  mask : BitVec 7
  action : Option TripAction
  deriving DecidableEq, Repr

/-- Reference selects of an analog channel (R145). -/
inductive RefSel
  | internal | external
  deriving DecidableEq, Repr

/-- Fatigue roles (R146). -/
inductive FatRole
  | none | boom
  deriving DecidableEq, Repr

/-- An analog channel entry (R146). -/
structure AnalogCfg where
  ref : RefSel
  gain : Int
  offset : Int
  limitOn : Bool
  dir : Dir
  rawLimit : Nat
  persistence : Nat
  action : TripAction
  role : FatRole
  fatigue : Int
  reset : Int
  deriving DecidableEq, Repr

/-- Classes of a wear or level record (R172). -/
inductive AttrClass
  | prefail | advisory
  deriving DecidableEq, Repr

/-- An entry of the table of wear and level records (R172). -/
structure AttrCfg where
  life : Nat
  threshold : Nat
  cls : AttrClass
  deriving DecidableEq, Repr

/-- Interrupt policies (R180). -/
inductive Policy
  | abort | suspend
  deriving DecidableEq, Repr

/-- The test table (R180). -/
structure TestCfg where
  segments : List Chan
  torque : Nat
  hold : Nat
  slip : PerChan Nat
  policy : Policy
  deriving DecidableEq, Repr

/-- The options table (R193, R85). -/
structure OptionsCfg where
  tripHold : Bool
  generalCall : Bool
  life : Nat
  tightLevel : Nat
  onset : Nat
  tightTorque : Nat
  deriving DecidableEq, Repr

/-- One copy of the table set (R193). A matrix entry is a delay, or `none` for BARRED (R48); the entries (i, i) stand
for no pair and are never read. -/
structure TableSet where
  stations : Vector StationCfg 16
  mode : ModeCfg
  brake : PerChan BrakeCfg
  matrix : PerChan (PerChan (Option Nat))
  drag : DragCfg
  rows : Vector EnvRow 32
  zones : Vector ZoneCfg 8
  walk : WalkCfg
  sectors : Vector SectorCfg 8
  points : Vector PointCfg 48
  analog : Vector AnalogCfg 4
  attrs : Vector AttrCfg 13
  test : TestCfg
  options : OptionsCfg
  deriving DecidableEq, Repr

/-- An unused station entry, other fields least (R193). -/
def emptyStation : StationCfg := { number := 0, role := .console, axis := none, timeout := 10 }

/-- The least values of the brake parameters (R193, R47). -/
def emptyBrake : BrakeCfg :=
  { minSet := 0, minRelease := 0, prove := 100, releaseConfirm := 50, setConfirm := 50, proving := 0, band := 0,
    autoset := 0 }

/-- A matrix row of BARRED entries (R193). -/
def barredRow : PerChan (Option Nat) := { hoist := none, drag := none, swing := none, walk := none }

/-- A point that is not enabled, other fields least (R193). -/
def emptyPoint : PointCfg :=
  { enabled := false, source := 1, dir := .above, setThr := -2147483648, clearThr := -2147483648, onDelay := 0,
    cls := .trip, latching := false, mask := 0#7, action := none }

/-- The empty entry of R146; the fields R146 does not name stand at their least values (R193). -/
def emptyAnalog : AnalogCfg :=
  { ref := .internal, gain := 4096, offset := 0, limitOn := false, dir := .above, rawLimit := 0, persistence := 1,
    action := .field, role := .none, fatigue := -65536, reset := -65536 }

/-- The entry every wear and level record reads as while the tables are not valid (R172). -/
def emptyAttr : AttrCfg := { life := 281474976710655, threshold := 0, cls := .advisory }

/-- The empty tables (R193): no station in use, zones UNUSED, no sectors, points not enabled, analog and wear entries
as R146 and R172 give, option flags clear and life 1, every matrix entry BARRED, every other field at the least value
of its range (log 8). -/
def emptyTables : TableSet where
  stations := Vector.replicate 16 emptyStation
  mode := { parkedDwell := 0, digDwell := 0, walkingDwell := 0,
            cap := { hoist := 0, drag := 0, swing := 0, walkLeft := 0, walkRight := 0 }, parkCode := 0 }
  brake := { hoist := emptyBrake, drag := emptyBrake, swing := emptyBrake, walk := emptyBrake }
  matrix := { hoist := barredRow, drag := barredRow, swing := barredRow, walk := barredRow }
  drag := { rows := 1, dragMin := 0, dragMax := 0, band := 0, slow := 0 }
  rows := Vector.replicate 32 { dragStart := 0, hoistMin := 0, hoistMax := 0, band := 0, slow := 0 }
  zones := Vector.replicate 8 { kind := .unused, start := 0, stop := 0, slow := 0, band := 0 }
  walk := { sectors := 0, trimLimit := 1, trimPercent := 0, tripLimit := 2, reversal := 0, stride := 1, heading := 0,
            headingTol := 0, grounded := 0, slack := 0, boomChannel := 0, boomMin := -32768, boomMax := -32768,
            inclChannel := 0, inclLimit := 0, prepConfirm := 0, prepTimeout := 1000 }
  sectors := Vector.replicate 8 { start := 0, phase := .home, cap := 0 }
  points := Vector.replicate 48 emptyPoint
  analog := Vector.replicate 4 emptyAnalog
  attrs := Vector.replicate 13 emptyAttr
  test := { segments := [.hoist], torque := 10, hold := 500, slip := { hoist := 1, drag := 1, swing := 1, walk := 1 },
            policy := .abort }
  options := { tripHold := false, generalCall := false, life := 1, tightLevel := 1, onset := 0, tightTorque := 0 }

end Sys2Proof.Machine
end

