-- ==== Sys2Proof/Machine/State.lean ====
section
/-!
DEFINITION. The state of the M4 as plain data, block by block (spec 00, 0.3), the reasons a command can stop, and the
state right after reset. Times and timers are counts of milliseconds since the last reset (log 1); a timer that runs
holds the time of its expiry.
-/

namespace Sys2Proof.Machine

/-- Why the machine could stop with a fault. The spec stops the block nowhere: a bad frame is removed and counted (R8),
a refused action is recorded (R36), a bad request is answered (R191) and a trip is an effect on the state (R157). The
type therefore has no member; nobody raises a fault, which is neither safe nor unsafe. -/
inductive Fault
  deriving DecidableEq, Repr

/-- Why a command could be refused by the model. -/
inductive Refusal
  /-- Raised by an arm of `exec` for a row that has no meaning yet; safe, since the machine only stops. No arm is of
  this kind. -/
  | notModelled (mnemonic : String)
  deriving DecidableEq, Repr

/-- The pins of the block that are read: the station straps and the analog levels as last sampled, in microvolts
(spec 00, 0.6; R145; log 5). -/
structure Pins where
  straps : BitVec 6
  ain : Vector Int 4
  extRef : Int
  deriving DecidableEq, Repr

/-- The ring interface's own number, queues, OUT, counters and silence timer (chapter 1). -/
structure Ring where
  own : BitVec 6
  fwd : List FwdEntry
  ins : List InsEntry
  reserved : Nat
  sending : Option Sending
  consec : Nat
  insSeq : Byte
  counters : Vector (BitVec 32) 16
  snapshot : Vector (BitVec 32) 16
  silence : Option Nat
  deriving DecidableEq, Repr

/-- The running state of a station-table entry in use (R21). -/
structure StationRun where
  fresh : Fresh
  expiries : Nat
  timer : Option Nat
  lastSeq : Option Byte
  gaps : Nat
  lastArrival : Option Nat
  deriving DecidableEq, Repr

/-- An axis feedback record (R13). -/
structure Feedback where
  brake : DriveBrake
  ready : Bool
  speed : Int
  position : Nat
  previous : Option Nat
  turns : Nat
  current : Int
  updated : Bool
  deriving DecidableEq, Repr

/-- A ring sensor value (R14). -/
structure Sensor where
  value : Int
  writer : Option (Fin 16)
  valid : Bool
  deriving DecidableEq, Repr

/-- The mode record (R29). -/
structure ModeCtl where
  mode : Mode
  entryTime : Nat
  reason : InitReason
  slot : Option Slot
  hold : Hold
  refusal : Refused
  parkTimer : Option Nat
  deriving DecidableEq, Repr

/-- A brake channel record (R46) with the timers of 3.1.1. -/
structure Channel where
  state : ChanState
  setTime : Nat
  releasedTime : Option Nat
  standing : BrakeReq
  armed : Bool
  proveFailed : Bool
  releaseTimeout : Bool
  due : Option Nat
  proved : Bool
  confirm : Pair Bool
  hardSet : Bool
  lastSpeed : Pair Int
  tDue : Option Nat
  tProve : Option Nat
  tRelease : Option Nat
  tDwell : Option Nat
  tSet : Option Nat
  tAutoset : Option Nat
  deriving DecidableEq, Repr

/-- The tightline check (R85); an episode runs while `start` is present. -/
structure Tight where
  start : Option Nat
  onset : Option Nat
  reduction : Bool
  duration : Nat
  handed : Nat
  deriving DecidableEq, Repr

/-- The walk sequencer record (R106). The leading cam is the cam that does not lag; the cam-reversal flag is worked
out from the marks. -/
structure Walk where
  left : Option Nat
  right : Option Nat
  lagging : Option Axis
  skew : Option Nat
  phase : Option Phase
  tubRaised : Bool
  reversal : Pair Bool
  stepMark : Option Nat
  steps : Nat
  distance : Nat
  tConfirm : Option Nat
  tTimeout : Option Nat
  deriving DecidableEq, Repr

/-- A source record (R123). -/
structure Source where
  value : Int
  valid : Bool
  deriving DecidableEq, Repr

/-- The running record of an alarm point (R129). -/
structure PointRun where
  state : PState
  mark : Bool
  tDelay : Option Nat
  tShelf : Option Nat
  since : Option Nat
  chValue : Int
  chValid : Bool
  chTime : Nat
  deriving DecidableEq, Repr

/-- The alarm unit's sources 1..79 (at index code - 1), points 1..48 (at index id - 1) and active list (chapter 7). -/
structure Alarm where
  sources : Vector Source 79
  points : Vector PointRun 48
  list : List (Fin 48)
  deriving DecidableEq, Repr

/-- An analog channel record (R148); `ready` is READY, else SETTLING; `high` is the fatigue state HIGH, else LOW. -/
structure AinRun where
  ready : Bool
  settle : Nat
  lastRaw : Option Nat
  lastScaled : Option Int
  beyond : Nat
  limitMark : Bool
  high : Bool
  deriving DecidableEq, Repr

/-- A trip as it is handed to the trip unit (R155). -/
structure TripIn where
  cause : TripCause
  action : TripAction
  frame : Option (List Byte)
  deriving DecidableEq, Repr

/-- A source update as it is handed to the alarm unit: the source's code, its value and validity, and the Drive Status
it was handed within (R123, R138). -/
structure Update where
  code : Nat
  value : Int
  valid : Bool
  trig : Option (List Byte)
  deriving DecidableEq, Repr

/-- An axis snapshot of a trip record (R162). -/
structure Snapshot where
  speed : Int
  position : Nat
  current : Int
  chan : ChanState
  stale : Bool
  deriving DecidableEq, Repr

/-- A trip record (R161). `phase` is present when the mode at the trip was WALK_PREP or WALKING; inside it, `none` is
UNKNOWN. -/
structure TripRecord where
  number : Nat
  time : Nat
  minutes : Nat
  cause : TripCause
  action : TripAction
  firstOut : Bool
  mode : Mode
  phase : Option (Option Phase)
  tubRaised : Option Bool
  snapshots : PerAxis Snapshot
  frame : Option (List Byte)
  coActive : List (Fin 48)
  deriving DecidableEq, Repr

/-- The trip unit (R156). -/
structure Trip where
  field : Line
  brake : Line
  queue : List TripRecord
  next : Nat
  notStored : Nat
  deriving DecidableEq, Repr

/-- A wear or level record (R171). -/
structure AttrRun where
  raw : Nat
  norm : Nat
  worst : Nat
  never : Bool
  deriving DecidableEq, Repr

/-- The thirteen wear and level records (at index id - 1), the service minutes and the minute timer (R171, R178). -/
structure Attrs where
  recs : Vector AttrRun 13
  minutes : Nat
  tMinute : Option Nat
  deriving DecidableEq, Repr

/-- A test log descriptor (R190). -/
structure Descriptor where
  number : Nat
  status : TestStatus
  minutes : Nat
  failing : Option Chan
  results : List SegResult
  deriving DecidableEq, Repr

/-- The brake tester (R181), the second final Reference still to be built (R185) and the test log (R190). The current
segment counts from 0 into the segment list. -/
structure Tester where
  status : TestStatus
  nextNumber : Nat
  number : Option Nat
  segment : Option Nat
  phase : Option SegPhase
  completed : Nat
  count : Nat
  results : List SegResult
  reached : Pair Bool
  start : Option (Pair Nat)
  levers : PerAxis Int
  walkTurn : Axis
  secondFinal : Option Axis
  tRamp : Option Nat
  tHold : Option Nat
  tPeriod : Option Nat
  tResume : Option Nat
  tSuspend : Option Nat
  log : Vector (Option Descriptor) 12
  pointer : Nat
  deriving DecidableEq, Repr

/-- The table set (R193). -/
structure Tables where
  active : TableSet
  staging : TableSet
  valid : Bool
  committed : Bool
  deriving DecidableEq, Repr

/-- A region of the non-volatile store (R198): bytes, or a write that a reset ended unfinished, which fails its check
(R200; log 38). -/
inductive Region
  | unfinished
  | bytes (b : List Byte)
  deriving DecidableEq, Repr

/-- The request an answer goes to: its source, code and tag (R7, R191). -/
structure Requester where
  dst : Byte
  code : Byte
  tagHi : Byte
  tagLo : Byte
  deriving DecidableEq, Repr

/-- The store controller and the store (R198 to R202). -/
structure Store where
  state : StoreState
  held : Bool
  last : StoreResult
  attrsLost : Bool
  image : List Byte
  answer : Option Requester
  restartPending : Bool
  tablesRegion : Region
  attrsRegion : Region
  deriving DecidableEq, Repr

/-- The state of the M4, with the queue of commands that wait. `heldTrips` are the trips handed while a trip event or a
mode change is carried out (R31, R159); `updates` are the source updates handed while the alarm unit evaluates one, and
absent while it evaluates none (R123; log 39). Both are empty between commands. -/
structure State where
  now : Nat
  freeIdx : Nat
  pins : Pins
  ring : Ring
  stations : Vector (Option StationRun) 16
  feedback : PerAxis Feedback
  sensors : Vector Sensor 16
  ctl : ModeCtl
  brakes : PerChan Channel
  tight : Tight
  walk : Walk
  alarm : Alarm
  owed : Vector Bool 48
  statusOwed : Bool
  analog : Vector AinRun 4
  trip : Trip
  heldTrips : List TripIn
  updates : Option (List Update)
  attrs : Attrs
  tester : Tester
  tables : Tables
  store : Store
  pending : List Instr
  deriving DecidableEq, Repr

/-- An empty feedback record (R13). -/
def emptyFeedback : Feedback :=
  { brake := .set, ready := false, speed := 0, position := 0, previous := none, turns := 0, current := 0,
    updated := false }

/-- A channel record at reset (R46). -/
def resetChannel : Channel :=
  { state := .set, setTime := 0, releasedTime := none, standing := .hold, armed := false, proveFailed := false,
    releaseTimeout := false, due := none, proved := false, confirm := ⟨false, false⟩, hardSet := false,
    lastSpeed := ⟨0, 0⟩, tDue := none, tProve := none, tRelease := none, tDwell := none, tSet := none,
    tAutoset := none }

/-- The tightline check with no episode (R85). -/
def resetTight : Tight := { start := none, onset := none, reduction := false, duration := 0, handed := 0 }

/-- The walk sequencer record at reset (R106). -/
def resetWalk : Walk :=
  { left := none, right := none, lagging := none, skew := none, phase := none, tubRaised := false,
    reversal := ⟨false, false⟩, stepMark := none, steps := 0, distance := 0, tConfirm := none, tTimeout := none }

/-- A point record at reset (R143). -/
def resetPoint : PointRun :=
  { state := .disarmed, mark := false, tDelay := none, tShelf := none, since := none, chValue := 0, chValid := false,
    chTime := 0 }

/-- An analog channel record at reset (R148): settling begins. -/
def resetAin : AinRun :=
  { ready := false, settle := 0, lastRaw := none, lastScaled := none, beyond := 0, limitMark := false, high := false }

/-- A wear or level record after a load that fails its check (R179). -/
def lostAttr : AttrRun := { raw := 0, norm := 100, worst := 100, never := true }

/-- The brake tester after a power-on reset (R181, R190). -/
def resetTester : Tester :=
  { status := .neverRun, nextNumber := 1, number := none, segment := none, phase := none, completed := 0, count := 0,
    results := [], reached := ⟨false, false⟩, start := none, levers := ⟨0, 0, 0, 0, 0⟩, walkTurn := .walkLeft,
    secondFinal := none, tRamp := none, tHold := none, tPeriod := none, tResume := none, tSuspend := none,
    log := Vector.replicate 12 none, pointer := 0 }

/-- The mode record at reset, before the INIT reason is worked out (R29). -/
def resetCtl : ModeCtl :=
  { mode := .init, entryTime := 0, reason := .none, slot := none, hold := .none, refusal := .none,
    parkTimer := none }

/-- An INVALID source with value 0 (R123, R143). -/
def invalidSource : Source := { value := 0, valid := false }

/-- The ring interface at reset (R26), with the own station number read from the straps (R201). -/
def resetRing (straps : BitVec 6) : Ring :=
  { own := straps, fwd := [], ins := [], reserved := 0, sending := none, consec := 0, insSeq := 0#8,
    counters := Vector.replicate 16 0#32, snapshot := Vector.replicate 16 0#32, silence := some 50 }

/-- All volatile state as step 1 of R201 leaves it at a power-on reset, before the store is loaded: the straps are
those of log 4, the pins those of log 5 and the store is blank (log 7). -/
def State.blank : State where
  now := 0
  freeIdx := 0
  pins := { straps := 7#6, ain := Vector.replicate 4 0, extRef := 0 }
  ring := resetRing 7#6
  stations := Vector.replicate 16 none
  feedback := ⟨emptyFeedback, emptyFeedback, emptyFeedback, emptyFeedback, emptyFeedback⟩
  sensors := Vector.replicate 16 { value := 0, writer := none, valid := false }
  ctl := resetCtl
  brakes := ⟨resetChannel, resetChannel, resetChannel, resetChannel⟩
  tight := resetTight
  walk := resetWalk
  alarm := { sources := Vector.replicate 79 invalidSource, points := Vector.replicate 48 resetPoint, list := [] }
  owed := Vector.replicate 48 false
  statusOwed := false
  analog := Vector.replicate 4 resetAin
  trip := { field := .deEnergised, brake := .deEnergised, queue := [], next := 1, notStored := 0 }
  heldTrips := []
  updates := none
  attrs := { recs := Vector.replicate 13 lostAttr, minutes := 0, tMinute := none }
  tester := resetTester
  tables := { active := emptyTables, staging := emptyTables, valid := false, committed := false }
  store := { state := .idle, held := false, last := .none, attrsLost := true, image := [], answer := none,
             restartPending := false, tablesRegion := .bytes [], attrsRegion := .bytes [] }
  pending := []

/-- The sources after the first updates of R123 with nothing in the store: station freshness INVALID (no entry in
use), 54 and 55 at 0, 56..68 at 100, 69..77 at 0, 78 INVALID, 79 at 0. -/
def firstSources : Vector Source 79 :=
  Vector.replicate 53 invalidSource ++ Vector.replicate 2 (Source.mk 0 true) ++
    Vector.replicate 13 (Source.mk 100 true) ++ Vector.replicate 9 (Source.mk 0 true) ++
    #v[invalidSource, Source.mk 0 true]

/-- The Status Notice that the end of start-up owes (R201 step 5, R204), as OUT sends it right after reset: mode INIT,
reason NO_TABLES, nothing pending, no refusal, four channels SET, both lines DE_ENERGISED, empty trip queue and active
list, test status NEVER_RUN with 100 percent remaining, store IDLE, wear values lost. -/
def resetNotice : Frame :=
  { dst := 63#8, src := 7#8, kind := 8#4, life := 1#4, seq := 0#8,
    payload := [0#8, 2#8, 0#8, 0#8, 0#8, 0#8, 0#8, 0#8, 1#8, 1#8, 0#8, 0#8, 0#8, 0#8, 0#8, 0#8, 100#8, 0#8, 0#8, 0#8,
      1#8] }

/-- The machine right after a power-on reset with a blank store, its start-up ended (R201): mode INIT with reason
NO_TABLES, the first sources handed over, the minute timer running, and the Status Notice that became owed at the end
of start-up built and taken by OUT. -/
def State.reset : State :=
  { State.blank with
    ring := { State.blank.ring with sending := some (.inserted .status resetNotice), insSeq := 1#8 }
    ctl := { State.blank.ctl with reason := .noTables }
    alarm := { State.blank.alarm with sources := firstSources }
    attrs := { State.blank.attrs with tMinute := some 60000 } }

end Sys2Proof.Machine
end

