-- ==== Sys2Proof/Machine/Codes.lean ====
section
/-!
DEFINITION. The numbers by which named values stand in frames and in the store: the position of the value in the list
its owning rule gives, the first being 0, unless a rule gives codes (R191); and big-endian bytes of numbers.
-/

namespace Sys2Proof.Machine

/-- The `n` low bytes of a number, high byte first (R191). -/
def encNat : Nat → Nat → List Byte
  | 0, _ => []
  | n + 1, v => byte (v / 256 ^ n) :: encNat n v

/-- The `n` low bytes of a signed number in two's complement, high byte first (R191). -/
def encInt (n : Nat) (v : Int) : List Byte := encNat n (v % (256 ^ n : Nat)).toNat

/-- The number whose bytes are given, high byte first (R191). -/
def decNat (bs : List Byte) : Nat := bs.foldl (fun a b => a * 256 + b.toNat) 0

/-- The signed number whose bytes are given, high byte first, in two's complement (R191). -/
def decInt (bs : List Byte) : Int :=
  let v := decNat bs
  if 2 * v < 256 ^ bs.length then (v : Int) else (v : Int) - ((256 ^ bs.length : Nat) : Int)

/-- A flag or mark: 0 clear, 1 set (R191). -/
def flagByte (b : Bool) : Byte := if b then 1#8 else 0#8

/-- An optional field: a presence mark, and the bytes when it is present (R191). -/
def optBytes : Option (List Byte) → List Byte
  | none => [0#8]
  | some bs => 1#8 :: bs

/-- A list of varying length: its count, then its entries (R191). -/
def listBytes (l : List (List Byte)) : List Byte := byte l.length :: l.flatten

/-- Position of a mode in the list of R29. -/
def Mode.code : Mode → Nat
  | .init => 0 | .parked => 1 | .dig => 2 | .walkPrep => 3 | .walking => 4 | .testing => 5 | .tripped => 6

/-- Position of an INIT reason in the list of R29. -/
def InitReason.code : InitReason → Nat
  | .none => 0 | .badStation => 1 | .noTables => 2 | .holdRecords => 3 | .waiting => 4

/-- Position of a pending target in the list of R37. -/
def Target.code : Target → Nat
  | .dig => 0 | .walk => 1 | .park => 2

/-- Position of a wait in the list of R37. -/
def Wait.code : Wait → Nat
  | .dwell _ => 0 | .brakes => 1 | .homePhase => 2

/-- The code of a refusal cause (R36). -/
def Refused.code : Refused → Nat
  | .none => 0 | .illegalTransition => 1 | .tripActive => 2 | .stationNotFresh => 3 | .analogSettling => 4
  | .attrPrefail => 5 | .testRunning => 6 | .noTables => 7 | .walkPrepTimeout => 8 | .holdRecords => 9
  | .brakesNotSet => 10 | .latchedActive => 11 | .shelveTripClass => 12 | .directLimit => 13

/-- Position of a channel state in the list of 3.1 (R46). -/
def ChanState.code : ChanState → Nat
  | .set => 0 | .releasePending => 1 | .releasing => 2 | .released => 3 | .setPending => 4 | .setting => 5
  | .fault => 6

/-- The limit cause codes (R70). -/
def Cause.code : Cause → Nat
  | .none => 0 | .init => 1 | .mode => 2 | .stale => 3 | .envelope => 4 | .tightline => 5 | .zone => 6
  | .walkPhase => 7 | .skewTrim => 8 | .walkDirection => 9 | .brake => 10 | .trip => 11 | .test => 12
  | .parking => 13

/-- Freshness as the value of its source and as a field (R23, R124, R21). -/
def Fresh.code : Fresh → Nat
  | .fresh => 0 | .stale => 1 | .lost => 2

/-- Position of a role in the list of R21. -/
def Role.code : Role → Nat
  | .console => 0 | .drive => 1 | .sensor => 2 | .manager => 3

/-- Position of an axis in the list of R21 (log 12). -/
def axisPos : Axis → Nat
  | .hoist => 0 | .drag => 1 | .swing => 2 | .walkLeft => 3 | .walkRight => 4

/-- The axis code of a Reference and of a Drive Status (R4, R5). -/
def axisCode (x : Axis) : Nat := axisPos x + 1

/-- Position of a channel in the list of 0.4 and R190 (log 12). -/
def chanPos : Chan → Nat
  | .hoist => 0 | .drag => 1 | .swing => 2 | .walk => 3

/-- Position of a walk phase in the list of R161, UNKNOWN last. -/
def phaseCode : Option Phase → Nat
  | some .home => 0 | some .lower => 1 | some .lift => 2 | some .stride => 3 | some .setdown => 4
  | some .raise => 5 | none => 6

/-- Position of a phase in the order of R103 and R104. -/
def Phase.code (p : Phase) : Nat := phaseCode (some p)

/-- Position of a point state in the list of 7.3. -/
def PState.code : PState → Nat
  | .normal => 0 | .delaying => 1 | .activeUnack => 2 | .activeAck => 3 | .returnedUnack => 4 | .shelved => 5
  | .disarmed => 6

/-- Position of a class in the list of R126. -/
def PClass.code : PClass → Nat
  | .trip => 0 | .warning => 1 | .advisory => 2

/-- Position of a direction in the list of R126. -/
def Dir.code : Dir → Nat
  | .above => 0 | .below => 1

/-- Position of a trip action in the list of R126. -/
def TripAction.code : TripAction → Nat
  | .field => 0 | .both => 1

/-- Position of a line state in the list of R156. -/
def Line.code : Line → Nat
  | .energised => 0 | .deEnergised => 1

/-- Position of a test status in the list of R181. -/
def TestStatus.code : TestStatus → Nat
  | .neverRun => 0 | .inProgress => 1 | .suspended => 2 | .passed => 3 | .failedSlip => 4 | .failedNoTorque => 5
  | .failedStale => 6 | .abortedOperator => 7 | .abortedTrip => 8

/-- Position of a segment result in the list of R190. -/
def SegOutcome.code : SegOutcome → Nat
  | .pass => 0 | .fail => 1 | .noTorque => 2 | .notFinished => 3

/-- Position of a store state in the list of R198. -/
def StoreState.code : StoreState → Nat
  | .idle => 0 | .committing => 1 | .saving => 2

/-- Position of a store result in the list of R198. -/
def StoreResult.code : StoreResult → Nat
  | .none => 0 | .ok => 1 | .storeFailed => 2

/-- Position of a response status in the list of R7. -/
def Status.code : Status → Nat
  | .ok => 0 | .badRequest => 1 | .badIndex => 2 | .wrongMode => 3 | .busy => 4 | .notAuthorised => 5
  | .checkFailed => 6 | .storeFailed => 7

/-- The kind code of a trip cause (9.1). -/
def TripCause.kind : TripCause → Nat
  | .point _ => 1 | .direct _ => 2 | .brakeFault _ => 3 | .skew => 4 | .stationLost _ => 5

/-- The cause index of a trip (9.1). -/
def TripCause.index : TripCause → Nat
  | .point p => p.val + 1 | .direct ch => ch.val | .brakeFault c => chanPos c + 1 | .skew => 0
  | .stationLost e => e.val + 1

/-- Position of a zone kind in the list of R90. -/
def ZoneKind.code : ZoneKind → Nat
  | .unused => 0 | .noEntry => 1 | .slow => 2

/-- Position of a reference select in the list of R146. -/
def RefSel.code : RefSel → Nat
  | .internal => 0 | .external => 1

/-- Position of a fatigue role in the list of R146. -/
def FatRole.code : FatRole → Nat
  | .none => 0 | .boom => 1

/-- Position of a class in the list of R172. -/
def AttrClass.code : AttrClass → Nat
  | .prefail => 0 | .advisory => 1

/-- Position of an interrupt policy in the list of R180. -/
def Policy.code : Policy → Nat
  | .abort => 0 | .suspend => 1

/-- The counter's place in the list of R25. -/
def Counter.idx : Counter → Fin 16
  | .taken => 0 | .forwarded => 1 | .rewritten => 2 | .forPart => 3 | .removedCheck => 4 | .removedLife => 5
  | .returnedOwn => 6 | .removedDuplicate => 7 | .removedRefusedRef => 8 | .removedForwardFull => 9
  | .removedSuperseded => 10 | .removedMisaddressed => 11 | .removedUnauthorised => 12 | .requestsNotTaken => 13
  | .inserted => 14 | .seqGaps => 15

/-- The member of a list of names at the position a byte gives. -/
def nameAt {α : Type} (names : List α) (b : Byte) : Option α := names[b.toNat]?

/-- The roles in the order of R21. -/
def roleNames : List Role := [.console, .drive, .sensor, .manager]
/-- The phases in the order of R103. -/
def phaseNames : List Phase := [.home, .lower, .lift, .stride, .setdown, .raise]
/-- The zone kinds in the order of R90. -/
def zoneNames : List ZoneKind := [.unused, .noEntry, .slow]
/-- The directions in the order of R126. -/
def dirNames : List Dir := [.above, .below]
/-- The point classes in the order of R126. -/
def classNames : List PClass := [.trip, .warning, .advisory]
/-- The trip actions in the order of R126. -/
def actionNames : List TripAction := [.field, .both]
/-- The reference selects in the order of R146. -/
def refNames : List RefSel := [.internal, .external]
/-- The fatigue roles in the order of R146. -/
def fatNames : List FatRole := [.none, .boom]
/-- The classes of R172. -/
def attrClassNames : List AttrClass := [.prefail, .advisory]
/-- The interrupt policies in the order of R180. -/
def policyNames : List Policy := [.abort, .suspend]

end Sys2Proof.Machine
end

