-- ==== Sys2Proof/Machine/Operands.lean ====
section
/-!
DEFINITION. The operand forms of the commands: the frame check (R2), the frame on the wire (R3), the payloads the M4
reads (R4 to R7, R191), and the frame each typed command row spells.
-/

namespace Sys2Proof.Machine

/-- One bit step of the CRC-16 register with generator x^16 + x^12 + x^5 + 1 (R2). -/
def crc16Bit (c : BitVec 16) : BitVec 16 := if c.msb then (c <<< 1) ^^^ 0x1021#16 else c <<< 1

/-- One byte into the CRC-16 register, most significant bit first (R2). -/
def crc16Byte (c : BitVec 16) (b : Byte) : BitVec 16 :=
  let c := c ^^^ (b ++ 0#8)
  crc16Bit (crc16Bit (crc16Bit (crc16Bit (crc16Bit (crc16Bit (crc16Bit (crc16Bit c)))))))

/-- The frame check of header and payload bytes: preset to all ones, result not inverted (R2). -/
def crc16 (bs : List Byte) : BitVec 16 := bs.foldl crc16Byte 0xFFFF#16

/-- One bit step of the CRC-32 register with the generator of R198. -/
def crc32Bit (c : BitVec 32) : BitVec 32 := if c.msb then (c <<< 1) ^^^ 0x04C11DB7#32 else c <<< 1

/-- One byte into the CRC-32 register, most significant bit first (R198). -/
def crc32Byte (c : BitVec 32) (b : Byte) : BitVec 32 :=
  let c := c ^^^ (b ++ 0#24)
  crc32Bit (crc32Bit (crc32Bit (crc32Bit (crc32Bit (crc32Bit (crc32Bit (crc32Bit c)))))))

/-- The CRC-32 of R198: preset all ones, not reflected, inverted. -/
def crc32 (bs : List Byte) : BitVec 32 := ~~~ (bs.foldl crc32Byte 0xFFFFFFFF#32)

/-- The header bytes of a frame (R3). -/
def headerBytes (f : Frame) : List Byte :=
  [f.dst, f.src, f.kind ++ f.life, f.seq, byte f.payload.length]

/-- Header and payload of a frame, the bytes its check is computed over (R2) and a triggering frame holds (R155). -/
def bodyBytes (f : Frame) : List Byte := headerBytes f ++ f.payload

/-- The frame as it leaves at OUT: header, payload, and the check, high byte first (R2). -/
def wireBytes (f : Frame) : List Byte := bodyBytes f ++ Half.bytes (crc16 (bodyBytes f))

/-- The frame in the received bytes, when the byte count is 7 plus the payload length field, that field is at most 48,
and the check computed over header and payload equals the received check bytes (R2). -/
def parseFrame : List Byte → Option Frame
  | d :: s :: kl :: q :: n :: rest =>
    let len := n.toNat
    if len ≤ 48 ∧ rest.length = len + 2 then
      let payload := rest.take len
      if Half.bytes (crc16 (d :: s :: kl :: q :: n :: payload)) = rest.drop len then
        some { dst := d, src := s, kind := kl.extractLsb' 4 4, life := kl.extractLsb' 0 4, seq := q,
               payload := payload }
      else none
    else none
  | _ => none

/-- The rest of the frame check (R2, R3): destination 1..63 and source 1..62 with bits 7 and 6 zero, and a payload of
at most 48 bytes. -/
def frameOk (f : Frame) : Bool :=
  decide (1 ≤ f.dst.toNat) && decide (f.dst.toNat ≤ 63) && decide (1 ≤ f.src.toNat) && decide (f.src.toNat ≤ 62)
    && decide (f.payload.length ≤ 48)

/-- A Reference as the M4 reads it (R4). -/
structure Ref where
  axis : Axis
  brake : BrakeReq
  lever : Half
  speed : Int
  torque : Nat
  deriving DecidableEq, Repr

/-- A Drive Status as the M4 reads it (R5). -/
structure DriveStat where
  axis : Axis
  brake : DriveBrake
  ready : Bool
  speed : Int
  position : Nat
  turns : Nat
  current : Int
  deriving DecidableEq, Repr

/-- An Operator Action (R6). -/
inductive Action
  | modeRequest (t : Target)
  | ack (point : Nat)
  | shelve (point minutes : Nat)
  | unshelve (point : Nat)
  | resetLatched
  | resetTrip
  | testStart
  | testAbort
  deriving DecidableEq, Repr

/-- The axis with a given code in a Reference or Drive Status (R4, R5). -/
def axisOfCode (b : Byte) : Option Axis :=
  match b.toNat with
  | 1 => some .hoist
  | 2 => some .drag
  | 3 => some .swing
  | 4 => some .walkLeft
  | 5 => some .walkRight
  | _ => none

/-- The brake request of a brake field; PROVE and other values make the Reference ill formed (R4). -/
def brakeOfCode (b : Byte) : Option BrakeReq :=
  match b.toNat with
  | 0 => some .hold
  | 1 => some .release
  | 2 => some .releaseAutoset
  | _ => none

/-- A signed per-mille quantity within −1000..+1000 (0.4). -/
def inMille (v : Int) : Bool := decide (-1000 ≤ v) && decide (v ≤ 1000)

/-- The Reference in a payload, when it is well formed (R4). -/
def parseRef : List Byte → Option Ref
  | [a, b, l1, l0, s1, s0, t1, t0, c] =>
    match axisOfCode a, brakeOfCode b with
    | some ax, some br =>
      let lever := halfOf l1 l0
      let speed := (halfOf s1 s0).toInt
      let torque := (halfOf t1 t0).toNat
      if inMille lever.toInt && inMille speed && decide (torque ≤ 300) && decide (c.toNat ≤ 13) then
        some { axis := ax, brake := br, lever := lever, speed := speed, torque := torque }
      else none
    | _, _ => none
  | _ => none

/-- The brake state in the status byte (R5). -/
def driveBrakeOf (b : Byte) : DriveBrake :=
  match (b.extractLsb' 0 2).toNat with
  | 0 => .set
  | 1 => .released
  | 2 => .transit
  | _ => .fault

/-- The greatest position value of an axis (R5). -/
def positionMax : Axis → Nat
  | .hoist => 3000
  | .drag => 3000
  | _ => 3599

/-- The Drive Status in a payload, when it is well formed (R5). -/
def parseStatus : List Byte → Option DriveStat
  | [a, st, s1, s0, p1, p0, t1, t0, c1, c0] =>
    match axisOfCode a with
    | some ax =>
      let speed := (halfOf s1 s0).toInt
      let pos := (halfOf p1 p0).toNat
      let turns := (halfOf t1 t0).toNat
      let cur := (halfOf c1 c0).toInt
      if decide ((st.extractLsb' 2 5).toNat = 0) && inMille speed && decide (pos ≤ positionMax ax)
          && (isCam ax || decide (turns = 0)) && decide (-300 ≤ cur) && decide (cur ≤ 300) then
        some { axis := ax, brake := driveBrakeOf st, ready := st.getLsbD 7, speed := speed, position := pos,
               turns := turns, current := cur }
      else none
    | none => none
  | _ => none

/-- The pairs in the bytes of a Sensor Report; none when the bytes do not divide into pairs or name a channel beyond
15 (R6). -/
def parsePairs : List Byte → Option (List (Fin 16 × Int))
  | [] => some []
  | ch :: hi :: lo :: rest =>
    if h : ch.toNat < 16 then
      match parsePairs rest with
      | some ps => some ((⟨ch.toNat, h⟩, (halfOf hi lo).toInt) :: ps)
      | none => none
    else none
  | _ => none

/-- The Sensor Report in a payload: 1..8 pairs (R6). -/
def parseReport (bs : List Byte) : Option (List (Fin 16 × Int)) :=
  if 3 ≤ bs.length ∧ bs.length ≤ 24 then parsePairs bs else none

/-- The Operator Action in a payload: action codes in the order of R6 from MODE_REQUEST at 0, arguments encoded as
R191 gives, in the ranges of R6. -/
def parseAction : List Byte → Option Action
  | code :: args =>
    match code.toNat, args with
    | 0, [t] =>
      match t.toNat with
      | 0 => some (.modeRequest .park)
      | 1 => some (.modeRequest .dig)
      | 2 => some (.modeRequest .walk)
      | _ => none
    | 1, [p] => if p.toNat ≤ 48 then some (.ack p.toNat) else none
    | 2, [p, m1, m0] =>
      let m := (halfOf m1 m0).toNat
      if 1 ≤ p.toNat ∧ p.toNat ≤ 48 ∧ 1 ≤ m ∧ m ≤ 480 then some (.shelve p.toNat m) else none
    | 3, [p] => if 1 ≤ p.toNat ∧ p.toNat ≤ 48 then some (.unshelve p.toNat) else none
    | 4, [] => some .resetLatched
    | 5, [] => some .resetTrip
    | 6, [] => some .testStart
    | 7, [] => some .testAbort
    | _, _ => none
  | [] => none

/-- Whether a frame of kind 1 to 4 is well formed; frames of other kinds are not judged (R8, R7). -/
def formOk (f : Frame) : Bool :=
  match f.kind.toNat with
  | 1 => (parseRef f.payload).isSome
  | 2 => (parseStatus f.payload).isSome
  | 3 => (parseReport f.payload).isSome
  | 4 => (parseAction f.payload).isSome
  | _ => true

/-- The frame a typed row spells: the header's fields with the kind of the row and a payload. -/
def frameOf (h : Header) (kind : BitVec 4) (payload : List Byte) : Frame :=
  { dst := h.dst, src := h.src, kind := kind, life := h.life, seq := h.seq, payload := payload }

/-- The payload of a Reference (R4). -/
def refPayload (r : RefWire) : List Byte :=
  r.axis :: r.brake :: (Half.bytes r.lever ++ Half.bytes r.speed ++ Half.bytes r.torque ++ [r.cause])

/-- The frame of a REFERENCE command. -/
def refFrame (h : Header) (r : RefWire) : Frame := frameOf h 1#4 (refPayload r)

/-- The payload of a Drive Status (R5). -/
def statusPayload (d : StatusWire) : List Byte :=
  d.axis :: d.status ::
    (Half.bytes d.speed ++ Half.bytes d.position ++ Half.bytes d.turns ++ Half.bytes d.current)

/-- The frame of a DRIVE_STATUS command. -/
def statusFrame (h : Header) (d : StatusWire) : Frame := frameOf h 2#4 (statusPayload d)

/-- The frame of a SENSOR_REPORT command (R6). -/
def sensorFrame (h : Header) (pairs : List (Byte × Half)) : Frame :=
  frameOf h 3#4 (pairs.flatMap fun p => p.1 :: Half.bytes p.2)

/-- The frame of an Operator Action with a given action code and argument bytes (R6, R191). -/
def actionFrame (h : Header) (code : Byte) (args : List Byte) : Frame := frameOf h 4#4 (code :: args)

/-- The frame of a Management Request with a given code, tag and argument bytes (R7, R191). -/
def requestFrame (h : Header) (code : Byte) (tag : Half) (args : List Byte) : Frame :=
  frameOf h 5#4 (code :: (Half.bytes tag ++ args))

end Sys2Proof.Machine
end

