-- ==== Sys2Proof/Machine/TableCodec.lean ====
section
/-!
DEFINITION. The fields of the table entries as bytes (R191, R194): what READ_TABLE answers, what WRITE_TABLE changes,
and what the tables region of the store holds (R198). Every entry is a list of fields, each with its form and its
bytes, in the order its table gives them.
-/

namespace Sys2Proof.Machine

/-- The form of a table field: a number of n bytes, a name among k, a flag, a set of modes, an optional name among k,
or a list of brake channels (R191, R195). -/
inductive FieldForm
  | num (n : Nat)
  | name (k : Nat)
  | flag
  | modes
  | optName (k : Nat)
  | chans
  deriving DecidableEq, Repr

/-- A field of an entry: its form and its bytes. -/
abbrev FieldBytes := FieldForm × List Byte

/-- Whether a byte names one of k values. -/
def nameOk (k : Nat) (b : Byte) : Bool := decide (b.toNat < k)

/-- The bytes of one field taken off the front of a byte string: none when they are too few or are no value of the
field's form (R191, R195). A list is as long as its count says: one of no channel or of more than four is held, and refused
at ACTIVATE (R180, R195, R196). -/
def FieldForm.split : FieldForm → List Byte → Option (List Byte × List Byte)
  | .num n, bs => if n ≤ bs.length then some (bs.take n, bs.drop n) else none
  | .name k, b :: bs => if nameOk k b then some ([b], bs) else none
  | .flag, b :: bs => if nameOk 2 b then some ([b], bs) else none
  | .modes, b :: bs => if nameOk 128 b then some ([b], bs) else none
  | .optName k, m :: bs =>
    if m = 0#8 then some ([m], bs)
    else if m = 1#8 then
      match bs with
      | b :: bs' => if nameOk k b then some ([m, b], bs') else none
      | [] => none
    else none
  | .chans, n :: bs =>
    if n.toNat ≤ bs.length ∧ (bs.take n.toNat).all (nameOk 4) then
      some (n :: bs.take n.toNat, bs.drop n.toNat)
    else none
  | _, [] => none

/-- A field of n bytes holding a number. -/
def numField (n v : Nat) : FieldBytes := (.num n, encNat n v)
/-- A field of n bytes holding a signed number. -/
def intField (n : Nat) (v : Int) : FieldBytes := (.num n, encInt n v)
/-- A field holding the position of a name among k. -/
def nameField (k v : Nat) : FieldBytes := (.name k, [byte v])
/-- A flag field. -/
def flagField (b : Bool) : FieldBytes := (.flag, [flagByte b])
/-- An optional field holding a name among k. -/
def optField (k : Nat) (v : Option Nat) : FieldBytes := (.optName k, optBytes (v.map fun n => [byte n]))

/-- The number in the bytes of an optional name field. -/
def optValue : List Byte → Option Byte
  | [_, b] => some b
  | _ => none

/-- The truth value of a flag's byte. -/
def flagValue (bs : List Byte) : Bool := bs == [1#8]

/-- The first byte of a field. -/
def head (bs : List Byte) : Byte := bs.headD 0#8

/-- Fields of a station entry (R21). -/
def StationCfg.fields (c : StationCfg) : List FieldBytes :=
  [numField 1 c.number, nameField 4 c.role.code, optField 5 (c.axis.map axisPos), numField 2 c.timeout]

/-- The station entry with given field bytes. -/
def stationOf : List (List Byte) → Option StationCfg
  | [n, r, a, t] => do
    let role ← nameAt roleNames (head r)
    return { number := decNat n, role := role, axis := (optValue a).bind (nameAt allAxes), timeout := decNat t }
  | _ => none

/-- Fields of the mode table (R30). -/
def ModeCfg.fields (c : ModeCfg) : List FieldBytes :=
  [numField 2 c.parkedDwell, numField 2 c.digDwell, numField 2 c.walkingDwell, numField 2 c.cap.hoist,
    numField 2 c.cap.drag, numField 2 c.cap.swing, numField 2 c.cap.walkLeft, numField 2 c.cap.walkRight,
    numField 1 c.parkCode]

/-- The mode table with given field bytes. -/
def modeOf : List (List Byte) → Option ModeCfg
  | [p, d, w, h, g, s, l, r, k] =>
    some { parkedDwell := decNat p, digDwell := decNat d, walkingDwell := decNat w,
           cap := ⟨decNat h, decNat g, decNat s, decNat l, decNat r⟩, parkCode := decNat k }
  | _ => none

/-- Fields of a channel's brake parameters (R47); SWING and WALK hold a proving current too, which is not read
(log 13). -/
def BrakeCfg.fields (c : BrakeCfg) : List FieldBytes :=
  [numField 2 c.minSet, numField 2 c.minRelease, numField 2 c.prove, numField 2 c.releaseConfirm,
    numField 2 c.setConfirm, numField 1 c.proving, numField 1 c.band, numField 2 c.autoset]

/-- The brake parameters with given field bytes. -/
def brakeOf : List (List Byte) → Option BrakeCfg
  | [a, b, c, d, e, f, g, h] =>
    some { minSet := decNat a, minRelease := decNat b, prove := decNat c, releaseConfirm := decNat d,
           setConfirm := decNat e, proving := decNat f, band := decNat g, autoset := decNat h }
  | _ => none

/-- The twelve ordered pairs of different channels, in order of i and then of j (R48, R194). -/
def matrixPairs : List (Chan × Chan) :=
  [(.hoist, .drag), (.hoist, .swing), (.hoist, .walk), (.drag, .hoist), (.drag, .swing), (.drag, .walk),
    (.swing, .hoist), (.swing, .drag), (.swing, .walk), (.walk, .hoist), (.walk, .drag), (.walk, .swing)]

/-- The two bytes of a matrix entry: its delay, or 65535 for BARRED (R191). -/
def matrixField (e : Option Nat) : FieldBytes := numField 2 (e.getD 65535)

/-- The matrix entry with given bytes. -/
def matrixEntryOf (bs : List Byte) : Option Nat := if decNat bs = 65535 then none else some (decNat bs)

/-- Fields of the brake matrix (R48, R194). -/
def matrixFields (m : PerChan (PerChan (Option Nat))) : List FieldBytes :=
  matrixPairs.map fun p => matrixField ((m.get p.1).get p.2)

/-- The matrix with given field bytes written into its pairs. -/
def matrixOf (m : PerChan (PerChan (Option Nat))) (bs : List (List Byte)) :
    Option (PerChan (PerChan (Option Nat))) :=
  if bs.length = 12 then
    some ((matrixPairs.zip bs).foldl (fun m q => m.set q.1.1 ((m.get q.1.1).set q.1.2 (matrixEntryOf q.2))) m)
  else none

/-- Fields of the drag globals (R81). -/
def DragCfg.fields (c : DragCfg) : List FieldBytes :=
  [numField 1 c.rows, numField 2 c.dragMin, numField 2 c.dragMax, numField 2 c.band, numField 2 c.slow]

/-- The drag globals with given field bytes. -/
def dragOf : List (List Byte) → Option DragCfg
  | [a, b, c, d, e] =>
    some { rows := decNat a, dragMin := decNat b, dragMax := decNat c, band := decNat d, slow := decNat e }
  | _ => none

/-- Fields of an envelope row (R81). -/
def EnvRow.fields (c : EnvRow) : List FieldBytes :=
  [numField 2 c.dragStart, numField 2 c.hoistMin, numField 2 c.hoistMax, numField 2 c.band, numField 2 c.slow]

/-- The envelope row with given field bytes. -/
def rowOf : List (List Byte) → Option EnvRow
  | [a, b, c, d, e] =>
    some { dragStart := decNat a, hoistMin := decNat b, hoistMax := decNat c, band := decNat d, slow := decNat e }
  | _ => none

/-- Fields of a swing zone (R90). -/
def ZoneCfg.fields (c : ZoneCfg) : List FieldBytes :=
  [nameField 3 c.kind.code, numField 2 c.start, numField 2 c.stop, numField 2 c.slow, numField 2 c.band]

/-- The swing zone with given field bytes. -/
def zoneOf : List (List Byte) → Option ZoneCfg
  | [k, a, b, c, d] => do
    let kind ← nameAt zoneNames (head k)
    return { kind := kind, start := decNat a, stop := decNat b, slow := decNat c, band := decNat d }
  | _ => none

/-- Fields of the walk parameters (R103). -/
def WalkCfg.fields (c : WalkCfg) : List FieldBytes :=
  [numField 1 c.sectors, numField 2 c.trimLimit, numField 1 c.trimPercent, numField 2 c.tripLimit,
    numField 2 c.reversal, numField 1 c.stride, numField 2 c.heading, numField 2 c.headingTol,
    numField 2 c.grounded, numField 2 c.slack, numField 1 c.boomChannel, intField 2 c.boomMin, intField 2 c.boomMax,
    numField 1 c.inclChannel, numField 2 c.inclLimit, numField 2 c.prepConfirm, numField 3 c.prepTimeout]

/-- The walk parameters with given field bytes. -/
def walkOf : List (List Byte) → Option WalkCfg
  | [a, b, c, d, e, f, g, h, i, j, k, l, m, n, o, p, q] =>
    some { sectors := decNat a, trimLimit := decNat b, trimPercent := decNat c, tripLimit := decNat d,
           reversal := decNat e, stride := decNat f, heading := decNat g, headingTol := decNat h,
           grounded := decNat i, slack := decNat j, boomChannel := decNat k, boomMin := decInt l,
           boomMax := decInt m, inclChannel := decNat n, inclLimit := decNat o, prepConfirm := decNat p,
           prepTimeout := decNat q }
  | _ => none

/-- Fields of a cam sector (R103). -/
def SectorCfg.fields (c : SectorCfg) : List FieldBytes :=
  [numField 2 c.start, nameField 6 c.phase.code, numField 2 c.cap]

/-- The cam sector with given field bytes. -/
def sectorOf : List (List Byte) → Option SectorCfg
  | [a, p, c] => do
    let phase ← nameAt phaseNames (head p)
    return { start := decNat a, phase := phase, cap := decNat c }
  | _ => none

/-- Fields of an alarm point entry (R126). -/
def PointCfg.fields (c : PointCfg) : List FieldBytes :=
  [flagField c.enabled, numField 1 c.source, nameField 2 c.dir.code, intField 5 c.setThr, intField 5 c.clearThr,
    numField 2 c.onDelay, nameField 3 c.cls.code, flagField c.latching, (.modes, [byte c.mask.toNat]),
    optField 2 (c.action.map TripAction.code)]

/-- The alarm point entry with given field bytes. -/
def pointOf : List (List Byte) → Option PointCfg
  | [e, s, d, a, b, o, k, l, m, t] => do
    let dir ← nameAt dirNames (head d)
    let cls ← nameAt classNames (head k)
    return { enabled := flagValue e, source := decNat s, dir := dir, setThr := decInt a, clearThr := decInt b,
             onDelay := decNat o, cls := cls, latching := flagValue l, mask := (head m).extractLsb' 0 7,
             action := (optValue t).bind (nameAt actionNames) }
  | _ => none

/-- Fields of an analog channel entry (R146). -/
def AnalogCfg.fields (c : AnalogCfg) : List FieldBytes :=
  [nameField 2 c.ref.code, intField 2 c.gain, intField 2 c.offset, flagField c.limitOn, nameField 2 c.dir.code,
    numField 2 c.rawLimit, numField 1 c.persistence, nameField 2 c.action.code, nameField 2 c.role.code,
    intField 3 c.fatigue, intField 3 c.reset]

/-- The analog channel entry with given field bytes. -/
def analogOf : List (List Byte) → Option AnalogCfg
  | [r, g, o, e, d, l, p, a, f, x, y] => do
    let ref ← nameAt refNames (head r)
    let dir ← nameAt dirNames (head d)
    let action ← nameAt actionNames (head a)
    let role ← nameAt fatNames (head f)
    return { ref := ref, gain := decInt g, offset := decInt o, limitOn := flagValue e, dir := dir,
             rawLimit := decNat l, persistence := decNat p, action := action, role := role, fatigue := decInt x,
             reset := decInt y }
  | _ => none

/-- Fields of an entry of table 9 (R172). -/
def AttrCfg.fields (c : AttrCfg) : List FieldBytes :=
  [numField 6 c.life, numField 1 c.threshold, nameField 2 c.cls.code]

/-- The entry of table 9 with given field bytes. -/
def attrOf : List (List Byte) → Option AttrCfg
  | [l, t, c] => do
    let cls ← nameAt attrClassNames (head c)
    return { life := decNat l, threshold := decNat t, cls := cls }
  | _ => none

/-- Fields of the test table (R180). -/
def TestCfg.fields (c : TestCfg) : List FieldBytes :=
  [(.chans, listBytes (c.segments.map fun x => [byte (chanPos x)])), numField 1 c.torque, numField 2 c.hold,
    numField 2 c.slip.hoist, numField 2 c.slip.drag, numField 2 c.slip.swing, numField 2 c.slip.walk,
    nameField 2 c.policy.code]

/-- The test table with given field bytes. -/
def testOf : List (List Byte) → Option TestCfg
  | [l, t, h, a, b, c, d, p] => do
    let policy ← nameAt policyNames (head p)
    return { segments := (l.drop 1).filterMap (nameAt allChans), torque := decNat t, hold := decNat h,
             slip := ⟨decNat a, decNat b, decNat c, decNat d⟩, policy := policy }
  | _ => none

/-- Fields of the options table (R193). -/
def OptionsCfg.fields (c : OptionsCfg) : List FieldBytes :=
  [flagField c.tripHold, flagField c.generalCall, numField 1 c.life, numField 2 c.tightLevel, numField 2 c.onset,
    numField 2 c.tightTorque]

/-- The options table with given field bytes. -/
def optionsOf : List (List Byte) → Option OptionsCfg
  | [h, g, l, a, b, c] =>
    some { tripHold := flagValue h, generalCall := flagValue g, life := decNat l, tightLevel := decNat a,
           onset := decNat b, tightTorque := decNat c }
  | _ => none

/-- The channel that an entry of the brake table stands for: 1 HOIST to 4 WALK (R193). -/
def chanOfEntry : Nat → Option Chan
  | 1 => some .hoist
  | 2 => some .drag
  | 3 => some .swing
  | 4 => some .walk
  | _ => none

/-- The member of a vector that entry n names, entries counting from 1. -/
def nth1 {α : Type} {k : Nat} (v : Vector α k) : Nat → Option α
  | 0 => none
  | n + 1 => v[n]?

/-- The fields of an entry of a table; none for a table id outside 1..11 or an entry outside the table's entries
(R193, R194). -/
def entryFields (t : TableSet) (table entry : Nat) : Option (List FieldBytes) :=
  match table with
  | 1 => (nth1 t.stations entry).map StationCfg.fields
  | 2 => if entry = 0 then some t.mode.fields else none
  | 3 => if entry = 0 then some (matrixFields t.matrix)
         else (chanOfEntry entry).map fun c => (t.brake.get c).fields
  | 4 => if entry = 0 then some t.drag.fields else (nth1 t.rows entry).map EnvRow.fields
  | 5 => (nth1 t.zones entry).map ZoneCfg.fields
  | 6 => if entry = 0 then some t.walk.fields else (nth1 t.sectors entry).map SectorCfg.fields
  | 7 => (nth1 t.points entry).map PointCfg.fields
  | 8 => t.analog[entry]?.map AnalogCfg.fields
  | 9 => (nth1 t.attrs entry).map AttrCfg.fields
  | 10 => if entry = 0 then some t.test.fields else none
  | 11 => if entry = 0 then some t.options.fields else none
  | _ => none

/-- The table set with one entry's fields replaced; none when the bytes are no entry of the table. -/
def setEntry (t : TableSet) (table entry : Nat) (bs : List (List Byte)) : Option TableSet :=
  match table with
  | 1 => (stationOf bs).map fun c => { t with stations := t.stations.setIfInBounds (entry - 1) c }
  | 2 => (modeOf bs).map fun c => { t with mode := c }
  | 3 =>
    if entry = 0 then (matrixOf t.matrix bs).map fun m => { t with matrix := m }
    else (chanOfEntry entry).bind fun x => (brakeOf bs).map fun c => { t with brake := t.brake.set x c }
  | 4 =>
    if entry = 0 then (dragOf bs).map fun c => { t with drag := c }
    else (rowOf bs).map fun c => { t with rows := t.rows.setIfInBounds (entry - 1) c }
  | 5 => (zoneOf bs).map fun c => { t with zones := t.zones.setIfInBounds (entry - 1) c }
  | 6 =>
    if entry = 0 then (walkOf bs).map fun c => { t with walk := c }
    else (sectorOf bs).map fun c => { t with sectors := t.sectors.setIfInBounds (entry - 1) c }
  | 7 => (pointOf bs).map fun c => { t with points := t.points.setIfInBounds (entry - 1) c }
  | 8 => (analogOf bs).map fun c => { t with analog := t.analog.setIfInBounds entry c }
  | 9 => (attrOf bs).map fun c => { t with attrs := t.attrs.setIfInBounds (entry - 1) c }
  | 10 => (testOf bs).map fun c => { t with test := c }
  | 11 => (optionsOf bs).map fun c => { t with options := c }
  | _ => none

/-- The entries of a table, in order of index (R193). -/
def entriesOf : Nat → List Nat
  | 1 => (List.range 16).map (· + 1)
  | 2 => [0]
  | 3 => List.range 5
  | 4 => List.range 33
  | 5 => (List.range 8).map (· + 1)
  | 6 => List.range 9
  | 7 => (List.range 48).map (· + 1)
  | 8 => List.range 4
  | 9 => (List.range 13).map (· + 1)
  | 10 => [0]
  | 11 => [0]
  | _ => []

/-- Every entry of every table, in order of table id and of entry (R198). -/
def allEntries : List (Nat × Nat) :=
  ((List.range 11).map (· + 1)).flatMap fun t => (entriesOf t).map fun e => (t, e)

/-- The bytes of an entry: its fields in order. -/
def entryBytes (fs : List FieldBytes) : List Byte := fs.flatMap Prod.snd

/-- The contents of the tables region for a table set (R198). -/
def tablesBytes (t : TableSet) : List Byte :=
  allEntries.flatMap fun e => entryBytes ((entryFields t e.1 e.2).getD [])

/-- The CRC-32 over contents as the four bytes that end a region, high byte first (R198). -/
def crcBytes (bs : List Byte) : List Byte := encNat 4 (crc32 bs).toNat

/-- A region's bytes: its contents and the CRC-32 over them (R198). -/
def regionBytes (contents : List Byte) : List Byte := contents ++ crcBytes contents

/-- The contents of a region that passes its check (R198); none for a region that fails it. -/
def regionContents : Region → Option (List Byte)
  | .unfinished => none
  | .bytes bs =>
    if 4 ≤ bs.length ∧ bs.drop (bs.length - 4) = crcBytes (bs.take (bs.length - 4)) then
      some (bs.take (bs.length - 4))
    else none

/-- The fields of given forms taken off the front of a byte string. -/
def splitFields : List FieldForm → List Byte → Option (List (List Byte) × List Byte)
  | [], bs => some ([], bs)
  | f :: fs, bs =>
    match f.split bs with
    | some (x, rest) =>
      match splitFields fs rest with
      | some (xs, rest') => some (x :: xs, rest')
      | none => none
    | none => none

/-- The forms of the fields of an entry. -/
def entryForms (t : TableSet) (table entry : Nat) : List FieldForm :=
  ((entryFields t table entry).getD []).map Prod.fst

/-- The entries named in the list read from a byte string into a table set, one after the other. -/
def readEntries : List (Nat × Nat) → TableSet → List Byte → Option (TableSet × List Byte)
  | [], t, bs => some (t, bs)
  | (table, entry) :: rest, t, bs =>
    match splitFields (entryForms t table entry) bs with
    | some (fields, bs') =>
      match setEntry t table entry fields with
      | some t' => readEntries rest t' bs'
      | none => none
    | none => none

/-- The table set in the contents of a tables region (R198); none when the contents are no table set (log 7). -/
def tablesOf (bs : List Byte) : Option TableSet :=
  match readEntries allEntries emptyTables bs with
  | some (t, []) => some t
  | _ => none

end Sys2Proof.Machine
end

