-- ==== Sys2Proof/Machine/Flags.lean ====
section
/-!
DEFINITION. Marks, flags and the readings other blocks make of them: statistics counters (R25), owed marks (R18, R141),
freshness and station roles (R21), mode permissions and the parking hold (R27, R28), source records and alarm points
(chapter 7), crossings (R173) and the start conditions (R32, R33, R35).
-/

namespace Sys2Proof.Machine

/-- Time since reset as software reads it: 32 bits (0.4; log 1). -/
def State.time32 (s : State) : Nat := s.now % 4294967296

/-- The time a count of milliseconds reads as in 32 bits (0.4; log 1). -/
def low32 (t : Nat) : Nat := t % 4294967296

/-- A whole quotient, rounded down (R1); with a divisor of 0, which R1 does not define, the free value of log 50. -/
def quotient (n d : Nat) : Nat := if d = 0 then Config.divByZero n else n / d

/-- One more in a 32-bit saturating counter (R25). -/
def bumpWord (w : BitVec 32) : BitVec 32 := if w = BitVec.allOnes 32 then w else w + 1#32

/-- A counter's value (R25). -/
def State.counter (s : State) (c : Counter) : BitVec 32 := s.ring.counters[c.idx]

/-- The counter raised by 1, saturating (R25). -/
def bump (c : Counter) (s : State) : State :=
  { s with ring := { s.ring with counters := s.ring.counters.set c.idx (bumpWord (s.counter c)) } }

/-- The Status Notice becomes owed (R29, R204). -/
def oweStatus (s : State) : State := { s with statusOwed := true }

/-- Free insert-queue entries: 16 less the entries and the reservations (R16). -/
def State.freeCount (s : State) : Nat := Config.insertCap - s.ring.ins.length - s.ring.reserved

/-- Whether the own station number is valid: straps giving 0 or 63 are not (0.6, R26). -/
def State.ownValid (s : State) : Bool := decide (1 ≤ s.ring.own.toNat) && decide (s.ring.own.toNat ≤ 62)

/-- The own station number as a header byte. -/
def State.ownByte (s : State) : Byte := s.ring.own.setWidth 8

/-- The active table set (R193). -/
abbrev State.act (s : State) : TableSet := s.tables.active

/-- The mode (R29). -/
abbrev State.mode (s : State) : Mode := s.ctl.mode

/-- The entry in use that satisfies a test: the lowest, where a loaded table holds several (log 56). -/
def findEntry (t : TableSet) (p : StationCfg → Bool) : Option (Fin 16) :=
  (List.finRange 16).find? fun e => t.stations[e].number != 0 && p t.stations[e]

/-- The entry in use with a station number (R9). -/
def State.entryOf (s : State) (station : Byte) : Option (Fin 16) :=
  findEntry s.act fun c => c.number == station.toNat

/-- Whether a station is listed with a role (R11, R14, R72). -/
def State.hasRole (s : State) (station : Byte) (r : Role) : Bool :=
  match s.entryOf station with
  | some e => s.act.stations[e].role == r
  | none => false

/-- The entry whose role is DRIVE and whose axis is the given one (R13, R73). -/
def State.driveEntry (s : State) (x : Axis) : Option (Fin 16) :=
  findEntry s.act fun c => c.role == .drive && c.axis == some x

/-- Freshness of an entry; an unused entry is not FRESH. -/
def State.entryFresh (s : State) (e : Fin 16) : Bool :=
  match s.stations[e] with
  | some r => r.fresh == .fresh
  | none => false

/-- Whether the DRIVE entry of an axis is FRESH (R50, R76, R86). -/
def State.driveFresh (s : State) (x : Axis) : Bool :=
  match s.driveEntry x with
  | some e => s.entryFresh e
  | none => false

/-- Whether every DRIVE entry is FRESH (R33, R35; log 55 for one with no axis). -/
def State.drivesFresh (s : State) : Bool :=
  (List.finRange 16).all fun e =>
    let c := s.act.stations[e]
    c.number == 0 || c.role != .drive || s.entryFresh e

/-- The axes a mode permits (R27). -/
def permits (m : Mode) (x : Axis) : Bool :=
  match m with
  | .dig => !isCam x
  | .walking => isCam x
  | _ => false

/-- The cause written for an axis that a mode does not permit (R27). -/
def blockCause : Mode → Cause
  | .init => .init
  | .testing => .test
  | .tripped => .trip
  | _ => .mode

/-- Whether the parking hold stands on a channel (R28). -/
def Hold.on : Hold → Chan → Bool
  | .none, _ => false
  | .digChannels, .walk => false
  | .digChannels, _ => true
  | .walkChannel, .walk => true
  | .walkChannel, _ => false

/-- Whether the parking hold stands on a channel in this state (R28). -/
def State.held (s : State) (c : Chan) : Bool := s.ctl.hold.on c

/-- The standing request the brake block acts on: HOLD under the parking hold (R28). -/
def State.request (s : State) (c : Chan) : BrakeReq :=
  if s.held c then .hold else (s.brakes.get c).standing

/-- Whether all four channels are SET (R33, R40, R168). -/
def State.allSet (s : State) : Bool := allChans.all fun c => (s.brakes.get c).state == .set

/-- Whether a speed lies inside the zero-speed band of a channel (R47). -/
def State.inBand (s : State) (c : Chan) (v : Int) : Bool := decide (v.natAbs ≤ (s.act.brake.get c).band)

/-- A channel's record replaced; a change of its state makes the Status Notice owed (R46). -/
def State.setChan (s : State) (c : Chan) (ch : Channel) : State :=
  { s with
    brakes := s.brakes.set c ch
    statusOwed := s.statusOwed || (s.brakes.get c).state != ch.state }

/-- The refusal recorded: it replaces the cause held and makes the Status Notice owed (R36). -/
def refuse (r : Refused) (s : State) : State :=
  { s with ctl := { s.ctl with refusal := r }, statusOwed := true }

/-- The pending slot takes a value; a change makes the Status Notice owed (R29, R37). -/
def setSlot (v : Option Slot) (s : State) : State :=
  { s with ctl := { s.ctl with slot := v }, statusOwed := s.statusOwed || s.ctl.slot != v }

/-! Sources and points (chapter 7). -/

/-- The record of a source code 1..79; any other code reads as INVALID with value 0 (R123, R124). -/
def State.source (s : State) (code : Nat) : Source :=
  match code with
  | 0 => invalidSource
  | n + 1 => (s.alarm.sources[n]?).getD invalidSource

/-- The source record at an update: an INVALID hand-off keeps the value held (R123). -/
def State.setSource (s : State) (code : Nat) (v : Int) (valid : Bool) : State :=
  let rec' : Source := { value := if valid then v else (s.source code).value, valid := valid }
  { s with alarm := { s.alarm with sources := s.alarm.sources.setIfInBounds (code - 1) rec' } }

/-- Whether a mode is in a point's mask (R126, R130). -/
def armedIn (c : PointCfg) (m : Mode) : Bool := c.mask.getLsbD m.code

/-- Whether a point is armed in the mode in force. -/
def State.armed (s : State) (p : Fin 48) : Bool := armedIn s.act.points[p] s.mode

/-- The zones a value can lie in (R128). -/
inductive Zone
  | met | band | clear
  deriving DecidableEq, Repr

/-- The zone of a value for a point (R128). R127 keeps the thresholds apart; in a loaded tables region that does not, a
value in both the met and the clear zone is taken as met, the model's choice (log 50). -/
def zoneOfValue (c : PointCfg) (v : Int) : Zone :=
  match c.dir with
  | .above => if c.setThr ≤ v then .met else if v ≤ c.clearThr then .clear else .band
  | .below => if v ≤ c.setThr then .met else if c.clearThr ≤ v then .clear else .band

/-- The source value and validity a change of a point records: those of its source under the active table; INVALID with
value 0 for a point not enabled (R129, R144). -/
def State.changeSource (s : State) (p : Fin 48) : Source :=
  if s.act.points[p].enabled then s.source s.act.points[p].source else invalidSource

/-- A point takes a state and a condition-clear mark. When either changes: the change value, validity and time are
recorded, the point joins or leaves the active list (R139), it joins the owed set (R141), and the Status Notice becomes
owed when the list's length or the unacknowledged count changes (R129, R140). `timer` is the expiry of the timer the
new state runs: the on-delay timer in DELAYING, the shelf timer in SHELVED; every other state runs none. -/
def setPoint (p : Fin 48) (st : PState) (mark : Bool) (timer : Option Nat) (s : State) : State :=
  let r := s.alarm.points[p]
  if st = r.state ∧ mark = r.mark then s
  else
    let src := s.changeSource p
    let r' : PointRun :=
      { state := st
        mark := mark
        tDelay := if st = .delaying then timer else none
        tShelf := if st = .shelved then timer else none
        since := if st.listed then (if r.state.listed then r.since else some s.now) else none
        chValue := src.value
        chValid := src.valid
        chTime := s.now }
    let list :=
      if st.listed then (if r.state.listed then s.alarm.list else s.alarm.list ++ [p])
      else s.alarm.list.filter (fun q => q != p)
    { s with
      alarm := { s.alarm with points := s.alarm.points.set p r', list := list }
      owed := s.owed.set p true
      statusOwed := s.statusOwed || st.listed != r.state.listed || st.unack != r.state.unack }

/-- Where a point goes that returns, is reset or leaves its shelf: NORMAL if armed, DISARMED if not (R130, R133,
R134, R137). -/
def State.restState (s : State) (p : Fin 48) : PState := if s.armed p then .normal else .disarmed

/-- The action of a point's trip (R138, R155); of an entry that holds none, the free value of log 51. -/
def tripActionOf (p : Fin 48) (c : PointCfg) : TripAction :=
  c.action.getD (if Config.bothLines p.val then .both else .field)

/-- A point enters ACTIVE_UNACK; one of class TRIP hands a trip, held here for the trip unit (R138). -/
def activatePoint (trig : Option (List Byte)) (p : Fin 48) (s : State) : State :=
  let c := s.act.points[p]
  let s := setPoint p .activeUnack false none s
  if c.cls = .trip then
    { s with heldTrips := s.heldTrips ++ [{ cause := .point p, action := tripActionOf p c, frame := trig }] }
  else s

/-- One enabled point at an update of its source (R130, R132). -/
def evalPoint (trig : Option (List Byte)) (p : Fin 48) (s : State) : State :=
  let c := s.act.points[p]
  let r := s.alarm.points[p]
  let src := s.source c.source
  if src.valid then
    match r.state, zoneOfValue c src.value with
    | .normal, .met =>
      if c.onDelay = 0 then activatePoint trig p s else setPoint p .delaying false (some (s.now + c.onDelay)) s
    | .delaying, .clear => setPoint p .normal false none s
    | .activeUnack, .met => if c.latching then setPoint p .activeUnack false none s else s
    | .activeUnack, .clear =>
      if c.latching then setPoint p .activeUnack true none s else setPoint p .returnedUnack false none s
    | .activeAck, .met => if c.latching then setPoint p .activeAck false none s else s
    | .activeAck, .clear =>
      if c.latching then setPoint p .activeAck true none s else setPoint p (s.restState p) false none s
    | .returnedUnack, .met => if s.armed p then activatePoint trig p s else s
    | _, _ => s
  else
    match r.state with
    | .delaying => setPoint p .normal false none s
    | _ => s

/-- The enabled points that watch a source, in increasing order of id (R123). -/
def State.pointsOn (s : State) (code : Nat) : List (Fin 48) :=
  (List.finRange 48).filter fun p => s.act.points[p].enabled && s.act.points[p].source == code

/-- The points that an update of a source evaluates: those on it that are not DISARMED when it is made (R123, R130). One
that an earlier point's trip re-arms while the update is evaluated waits for the next update of its source (R135; log 47
for which that is). -/
def State.updatePoints (s : State) (code : Nat) : List (Fin 48) :=
  (s.pointsOn code).filter fun p => s.alarm.points[p].state != .disarmed

/-- A source update made inside a trip event or a mode change. While the alarm unit evaluates an update, this one waits
until that one has been evaluated in full (R123; log 39). Else its points are evaluated, all of them, and trips they
raise are held until the event's steps are complete (R31, R138, R159; log 53). -/
def feedHeld (code : Nat) (v : Int) (valid : Bool) (trig : Option (List Byte)) (s : State) : State :=
  match s.updates with
  | some waiting => { s with updates := some (waiting ++ [{ code := code, value := v, valid := valid, trig := trig }]) }
  | none => (s.pointsOn code).foldl (fun s p => evalPoint trig p s) (s.setSource code v valid)

/-- Whether any TRIP-class point is ACTIVE_UNACK or ACTIVE_ACK (R35, R140, R168). -/
def State.tripPointActive (s : State) : Bool :=
  (List.finRange 48).any fun p => s.act.points[p].cls == .trip && s.alarm.points[p].state.active

/-- Whether any latching point is ACTIVE_UNACK or ACTIVE_ACK (R35, R140). -/
def State.latchedActive (s : State) : Bool :=
  (List.finRange 48).any fun p => s.act.points[p].latching && s.alarm.points[p].state.active

/-- The unacknowledged count (R140). -/
def State.unackCount (s : State) : Nat :=
  ((List.finRange 48).filter fun p => s.alarm.points[p].state.unack).length

/-- Points armed and disarmed at a change of mode, in increasing order of id (R135). -/
def rearmPoint (p : Fin 48) (s : State) : State :=
  let c := s.act.points[p]
  let r := s.alarm.points[p]
  if c.enabled then
    match r.state with
    | .normal => if s.armed p then s else setPoint p .disarmed false none s
    | .delaying => if s.armed p then s else setPoint p .disarmed false none s
    | .disarmed => if s.armed p then setPoint p .normal false none s else s
    | _ => s
  else s

/-- All points armed and disarmed by their masks for the mode in force (R135). -/
def rearmPoints (s : State) : State := (List.finRange 48).foldl (fun s p => rearmPoint p s) s

/-! Start and request conditions. -/

/-- Whether any analog channel is SETTLING (R33, R35). -/
def State.settling (s : State) : Bool := (List.finRange 4).any fun c => !(s.analog[c]).ready

/-- Whether a record of wear or level is crossed (R173). -/
def State.crossed (s : State) (i : Fin 13) : Bool :=
  decide ((s.attrs.recs[i]).norm ≤ (s.act.attrs[i]).threshold)

/-- Whether any PREFAIL record is crossed (R176). -/
def State.prefailCrossed (s : State) : Bool :=
  (List.finRange 13).any fun i => (s.act.attrs[i]).cls == .prefail && s.crossed i

/-- The trip-hold option as read: clear while the tables are not valid (R156). -/
def State.tripHold (s : State) : Bool := s.tables.valid && s.act.options.tripHold

/-- The INIT reason worked out anew (R32). -/
def State.workedReason (s : State) : InitReason :=
  if !s.ownValid then .badStation
  else if !s.tables.valid then .noTables
  else if s.tripHold && !s.trip.queue.isEmpty then .holdRecords
  else .waiting

/-- The INIT reason is worked out anew while the mode is INIT; a change makes the Status Notice owed (R32). -/
def updateReason (s : State) : State :=
  if s.mode = .init then
    { s with ctl := { s.ctl with reason := s.workedReason },
             statusOwed := s.statusOwed || s.ctl.reason != s.workedReason }
  else s

/-- Whether the start conditions of R33 all hold. -/
def State.startReady (s : State) : Bool :=
  s.workedReason == .waiting && s.allSet && s.drivesFresh && !s.settling

/-- The first condition that refuses a DIG or WALK request in PARKED (R35). -/
def State.requestCheck (s : State) : Option Refused :=
  if s.tripPointActive then some .tripActive
  else if s.latchedActive then some .latchedActive
  else if s.prefailCrossed then some .attrPrefail
  else if !s.drivesFresh then some .stationNotFresh
  else if s.settling then some .analogSettling
  else if !s.allSet then some .brakesNotSet
  else none

/-- The cause of a mode request refused in INIT (R34; log 23). -/
def State.initCause (s : State) : Refused :=
  match s.ctl.reason with
  | .noTables => .noTables
  | .holdRecords => .holdRecords
  | .waiting =>
    if !s.allSet then .brakesNotSet else if !s.drivesFresh then .stationNotFresh else .analogSettling
  | _ => .illegalTransition

/-- Whether a test runs (R181). -/
def State.testRuns (s : State) : Bool :=
  s.tester.status == .inProgress || s.tester.status == .suspended

/-- The channel of the current segment (R180, R181). -/
def State.testChan (s : State) : Option Chan := s.tester.segment.bind fun i => s.act.test.segments[i]?

/-- Whether a segment runs on a channel (R181). -/
def State.segmentRuns (s : State) (c : Chan) : Bool :=
  s.tester.status == .inProgress && (s.tester.phase == some .ramp || s.tester.phase == some .hold)
    && s.testChan == some c

/-- The percent remaining of a test (R181; log 50 on a segment count of 0). -/
def State.percentLeft (s : State) : Nat :=
  if s.tester.status = .neverRun then 100
  else (100 - quotient (100 * s.tester.completed) s.tester.count) / 10 * 10

/-- The cam-reversal flag: set while either mark is set (R106, R109). -/
def Walk.camReversal (w : Walk) : Bool := w.reversal.first || w.reversal.second

/-- The progress of a cam (R106). -/
def Walk.progress (w : Walk) : Axis → Option Nat
  | .walkRight => w.right
  | _ => w.left

end Sys2Proof.Machine
end

