-- ==== Sys2Proof/Machine/TableChecks.lean ====
section
/-!
DEFINITION. The checks ACTIVATE makes on the staging tables (R196): each table's own tests, each naming the first entry
that fails, and the angle arithmetic of the swing circle that the zone test and the limiter share (R92).
-/

namespace Sys2Proof.Machine

/-- The difference of two angles modulo 3600 (R92). -/
def angleDiff (a b : Nat) : Nat := (a + 3600 - b % 3600) % 3600

/-- The angular separation of two angles (R92). -/
def separation (a b : Nat) : Nat := min (angleDiff a b) (angleDiff b a)

/-- Whether an angle lies inside a zone (R90, R92). -/
def ZoneCfg.inside (z : ZoneCfg) (a : Nat) : Bool := decide (angleDiff a z.start ≤ angleDiff z.stop z.start)

/-- The first entry of a list for which a test fails. -/
def firstBad (entries : List Nat) (bad : Nat → Bool) : Option Nat := entries.find? bad

/-- A number within a range, both ends included (R1). -/
def within (lo hi v : Nat) : Bool := decide (lo ≤ v) && decide (v ≤ hi)

/-- A signed number within a range, both ends included (R1). -/
def withinInt (lo hi v : Int) : Bool := decide (lo ≤ v) && decide (v ≤ hi)

/-- Number of entries in use that satisfy a test. -/
def countEntries (t : TableSet) (p : StationCfg → Bool) : Nat :=
  (t.stations.toList.filter fun c => c.number != 0 && p c).length

/-- The tests of one station entry (R196, R21): fields in range, axis present for DRIVE, not the M4's own number, no
earlier entry in use with the number (log 14 on an axis in an entry of another role). -/
def stationBad (own : Nat) (t : TableSet) (e : Nat) : Bool :=
  match nth1 t.stations e with
  | none => false
  | some c =>
    c.number != 0 &&
      (!within 1 62 c.number || !within 10 2000 c.timeout || (c.role == .drive && c.axis.isNone) || c.number == own
        || (t.stations.toList.take (e - 1)).any fun d => d.number == c.number)

/-- Table 1 (R196). -/
def checkStations (own : Nat) (t : TableSet) : Option Nat :=
  match firstBad (entriesOf 1) (stationBad own t) with
  | some e => some e
  | none =>
    if (allAxes.all fun x => countEntries t (fun c => c.role == .drive && c.axis == some x) == 1)
        && within 1 2 (countEntries t fun c => c.role == .console)
        && within 1 2 (countEntries t fun c => c.role == .manager) then none
    else some 0

/-- The length of the park timer for a code, in ms; none for code 0 (R30). -/
def parkLength (code : Nat) : Option Nat :=
  if code = 0 then none else if code ≤ 120 then some (code * 5000) else some ((code - 120) * 900000)

/-- Table 2 (R30). -/
def checkMode (t : TableSet) : Option Nat :=
  let c := t.mode
  if within 0 60000 c.parkedDwell && within 0 60000 c.digDwell && within 0 60000 c.walkingDwell
      && (allAxes.all fun x => within 0 1000 (c.cap.get x)) && within 0 168 c.parkCode then none
  else some 0

/-- The brake parameters of a channel in range (R47); the proving current of SWING and WALK too (log 13). -/
def brakeCfgOk (c : BrakeCfg) : Bool :=
  within 0 10000 c.minSet && within 0 10000 c.minRelease && within 100 5000 c.prove
    && within 50 5000 c.releaseConfirm && within 50 5000 c.setConfirm && within 0 200 c.proving && within 0 50 c.band
    && within 0 5000 c.autoset

/-- A matrix entry in range: BARRED or a delay of 0..10000 (R48). -/
def matrixEntryOk : Option Nat → Bool
  | none => true
  | some d => within 0 10000 d

/-- Table 3: the channels in turn (R47), then the matrix, entry 0 (R48; log 30). -/
def checkBrake (t : TableSet) : Option Nat :=
  match firstBad [1, 2, 3, 4] fun e =>
      match chanOfEntry e with
      | some c => !brakeCfgOk (t.brake.get c)
      | none => false with
  | some e => some e
  | none =>
    if (matrixPairs.all fun p => matrixEntryOk ((t.matrix.get p.1).get p.2))
        && [(Chan.swing, Chan.walk), (.walk, .swing), (.hoist, .walk), (.drag, .walk)].all
            fun p => ((t.matrix.get p.1).get p.2).isNone then none
    else some 0

/-- The tests of one entry of table 4, entry 0 the drag globals (R81). Of two neighbouring rows whose drag starts do not
ascend, the later one is the failing entry (log 43). -/
def envelopeBad (t : TableSet) (e : Nat) : Bool :=
  if e = 0 then
    !within 1 32 t.drag.rows || !within 0 3000 t.drag.dragMin || !within 0 3000 t.drag.dragMax
      || !within 0 3000 t.drag.band || !within 0 1000 t.drag.slow || decide (t.drag.dragMax ≤ t.drag.dragMin)
  else if t.drag.rows < e then false
  else
    match nth1 t.rows e with
    | none => false
    | some r =>
      !within 0 3000 r.dragStart || !within 0 3000 r.hoistMin || !within 0 3000 r.hoistMax || !within 0 3000 r.band
        || !within 0 1000 r.slow || decide (r.hoistMax ≤ r.hoistMin)
        || (match nth1 t.rows (e - 1) with
            | none => r.dragStart != 0
            | some q => decide (r.dragStart ≤ q.dragStart))

/-- Table 4 (R81). -/
def checkEnvelope (t : TableSet) : Option Nat := firstBad (entriesOf 4) (envelopeBad t)

/-- The tests of one entry of table 5, in order; the fourth reads the staging walk table (R91). -/
def zoneBad (t : TableSet) (e : Nat) : Bool :=
  match nth1 t.zones e with
  | none => false
  | some z =>
    z.kind != .unused &&
      (!within 0 3599 z.start || !within 0 3599 z.stop || !within 0 1000 z.slow || !within 0 900 z.band
        || z.start == z.stop
        || ((t.zones.toList.take (e - 1)).any fun y => y.kind != .unused && (y.inside z.start || z.inside y.start))
        || (z.kind == .noEntry && z.inside t.walk.heading))

/-- Table 5 (R91). -/
def checkZones (t : TableSet) : Option Nat := firstBad (entriesOf 5) (zoneBad t)

/-- Tests 1 to 5 of table 6, on the walk parameters (R103, R104). -/
def walkCfgOk (c : WalkCfg) : Bool :=
  within 6 8 c.sectors && within 1 1800 c.trimLimit && within 0 90 c.trimPercent && within 2 3600 c.tripLimit
    && within 0 900 c.reversal && within 1 100 c.stride && within 0 3599 c.heading && within 0 1800 c.headingTol
    && within 0 3000 c.grounded && within 0 300 c.slack && within 0 15 c.boomChannel
    && withinInt (-32768) 32767 c.boomMin && withinInt (-32768) 32767 c.boomMax && within 0 15 c.inclChannel
    && within 0 32767 c.inclLimit && within 0 60000 c.prepConfirm && within 1000 600000 c.prepTimeout
    && decide (c.trimLimit < c.tripLimit) && decide (c.prepConfirm < c.prepTimeout) && decide (c.boomMin ≤ c.boomMax)
    && c.boomChannel != c.inclChannel

/-- Tests 6 to 9 of a sector (R104). -/
def sectorBad (t : TableSet) (e : Nat) : Bool :=
  if t.walk.sectors < e then false
  else
    match nth1 t.sectors e with
    | none => false
    | some c =>
      !within 0 3599 c.start || !within 0 1000 c.cap
        || (match nth1 t.sectors (e - 1) with
            | none => c.start != 0 || c.phase != .home
            | some b => decide (c.start ≤ b.start) || decide (c.phase.code < b.phase.code))

/-- Table 6 (R104), the tests in the order listed. -/
def checkWalk (t : TableSet) : Option Nat :=
  if !walkCfgOk t.walk then some 0
  else
    match firstBad [1, 2, 3, 4, 5, 6, 7, 8] (sectorBad t) with
    | some e => some e
    | none =>
      let used := t.sectors.toList.take t.walk.sectors
      if (used.getLast?.map SectorCfg.phase) == some .raise
          && phaseNames.all (fun p => used.any fun c => c.phase == p) then none
      else some t.walk.sectors

/-- The tests of one alarm point entry (R127), with the thresholds in their range (R126, R195; log 15). -/
def pointBad (t : TableSet) (e : Nat) : Bool :=
  match nth1 t.points e with
  | none => false
  | some c =>
    c.enabled &&
      (!within 1 79 c.source
        || (c.dir == .above && decide (c.setThr ≤ c.clearThr)) || (c.dir == .below && decide (c.clearThr ≤ c.setThr))
        || !withinInt (-2147483648) 4294967295 c.setThr || !withinInt (-2147483648) 4294967295 c.clearThr
        || !within 0 60000 c.onDelay || (c.cls == .trip && c.action.isNone))

/-- Table 7 (R127). -/
def checkPoints (t : TableSet) : Option Nat := firstBad (entriesOf 7) (pointBad t)

/-- The tests of one analog channel entry (R147). -/
def analogBad (t : TableSet) (e : Nat) : Bool :=
  match t.analog[e]? with
  | none => false
  | some c =>
    !withinInt (-32768) 32767 c.gain || !withinInt (-32768) 32767 c.offset || !within 0 4095 c.rawLimit
      || !within 1 8 c.persistence
      || (c.role == .boom &&
          (!withinInt (-65536) 65535 c.fatigue || !withinInt (-65536) 65535 c.reset || decide (c.fatigue ≤ c.reset)
            || (t.analog.toList.take e).any fun d => d.role == .boom))

/-- Table 8 (R147). -/
def checkAnalog (t : TableSet) : Option Nat := firstBad (entriesOf 8) (analogBad t)

/-- The tests of one entry of table 9 (R172). -/
def attrBad (t : TableSet) (e : Nat) : Bool :=
  match nth1 t.attrs e with
  | none => false
  | some c => !within 1 281474976710655 c.life || !within 0 101 c.threshold

/-- Table 9 (R172). -/
def checkAttrs (t : TableSet) : Option Nat := firstBad (entriesOf 9) (attrBad t)

/-- Table 10 (R180). -/
def checkTest (t : TableSet) : Option Nat :=
  let c := t.test
  if within 1 4 c.segments.length && (allChans.all fun x => decide (c.segments.count x ≤ 1))
      && within 10 200 c.torque && within 500 10000 c.hold && within 1 3000 c.slip.hoist && within 1 3000 c.slip.drag
      && within 1 3600 c.slip.swing && within 1 3600 c.slip.walk then none
  else some 0

/-- Table 11 (R196, R193, R85): fields in range, and trip-hold not newly set while the trip queue holds a record. -/
def checkOptions (old : OptionsCfg) (queued : Bool) (t : TableSet) : Option Nat :=
  let c := t.options
  if within 1 15 c.life && within 1 300 c.tightLevel && within 0 5000 c.onset && within 0 300 c.tightTorque
      && !(c.tripHold && !old.tripHold && queued) then none
  else some 0

/-- The first check that fails, with its table id and entry, tables in order of id (R196). -/
def State.activateFailure (s : State) : Option (Nat × Nat) :=
  let t := s.tables.staging
  let checks : List (Nat × Option Nat) :=
    [(1, checkStations s.ring.own.toNat t), (2, checkMode t), (3, checkBrake t), (4, checkEnvelope t),
      (5, checkZones t), (6, checkWalk t), (7, checkPoints t), (8, checkAnalog t), (9, checkAttrs t),
      (10, checkTest t), (11, checkOptions s.act.options (!s.trip.queue.isEmpty) t)]
  checks.findSome? fun c => c.2.map fun e => (c.1, e)

end Sys2Proof.Machine
end

