-- ==== Sys2Proof/Machine/Ops.lean ====
section
/-!
DEFINITION. The operations the blocks share: the queues and the OUT arbiter (R12, R15 to R20), the brake transitions
(R52 to R64), the mode change (R31), the trip event (R155 to R163) and the source update that may raise a trip at once
(R123, R138). A trip handed inside a trip event or a mode change is held and taken when its steps are complete
(R31, R159).
-/

namespace Sys2Proof.Machine

/-! Queues and OUT. -/

/-- The place of a class in the order of the insert queue (R16). -/
def InsClass.rank : InsClass → Nat
  | .testRef => 0
  | .response _ => 1
  | .status => 2
  | .alarm _ => 3

/-- An entry placed behind the entries of its own and earlier classes (R16). -/
def insertEntry (e : InsEntry) : List InsEntry → List InsEntry
  | [] => [e]
  | x :: xs => if e.cls.rank < x.cls.rank then e :: x :: xs else x :: insertEntry e xs

/-- The frame an insert-queue entry becomes when OUT takes it: the insert sequence is given then (R20). -/
def InsEntry.toFrame (e : InsEntry) (seq : Byte) : Frame :=
  { dst := e.dst, src := e.src, kind := e.kind, life := e.life, seq := seq, payload := e.payload }

/-- The OUT arbiter's choice of the next frame (R19). -/
def choose (s : State) : State :=
  let r := s.ring
  match r.ins, r.fwd with
  | e :: rest, fwd =>
    if fwd.isEmpty || r.consec == 8 then
      { s with ring := { r with ins := rest, consec := 0, insSeq := r.insSeq + 1#8,
                                sending := some (.inserted e.cls (e.toFrame r.insSeq)) } }
    else { s with ring := { r with sending := some .forward, consec := min 8 (r.consec + 1) } }
  | [], _ :: _ => { s with ring := { r with sending := some .forward, consec := min 8 (r.consec + 1) } }
  | [], [] => { s with ring := { r with sending := none } }

/-- The choice made when a frame joins a queue while OUT is idle (R19). -/
def chooseIfIdle (s : State) : State := if s.ring.sending.isNone then choose s else s

/-- An entry joins the insert queue (R16, R19). -/
def joinInsert (e : InsEntry) (s : State) : State :=
  chooseIfIdle { s with ring := { s.ring with ins := insertEntry e s.ring.ins } }

/-- Whether an entry is a test Reference. -/
def InsEntry.isTest (e : InsEntry) : Bool := e.cls == .testRef

/-- Whether a test Reference is queued (R17). -/
def State.testQueued (s : State) : Bool := s.ring.ins.any InsEntry.isTest

/-- A test Reference handed over joins the insert queue, in place of one already queued (R17). -/
def handTestRef (e : InsEntry) (s : State) : State :=
  joinInsert e { s with ring := { s.ring with ins := s.ring.ins.filter fun x => !x.isTest } }

/-- The queued test Reference is withdrawn, if one is queued, and a second final Reference not yet built is not built
(R17, R186). -/
def withdrawTest (s : State) : State :=
  { s with ring := { s.ring with ins := s.ring.ins.filter fun x => !x.isTest },
           tester := { s.tester with secondFinal := none } }

/-- A frame bound for forwarding: its life is lowered by 1 and it joins the tail of the forward queue, or is removed
when the queue holds 8 frames (R12, R15). `taken` is its payload as taken at IN. -/
def forward (f : Frame) (taken : List Byte) (s : State) : State :=
  if Config.forwardCap ≤ s.ring.fwd.length then bump .removedForwardFull s
  else
    chooseIfIdle
      { s with ring := { s.ring with fwd := s.ring.fwd ++ [{ frame := { f with life := f.life - 1#4 }, taken := taken }] } }

/-- The inserted-frame life of the options table (R20). A header has four bits for it (R3): a life above 15, which a loaded
tables region alone can hold (R201), is taken modulo 16, the model's choice (log 50). -/
def State.insLife (s : State) : BitVec 4 := BitVec.ofNat 4 s.act.options.life

/-- An answer fills the reservation made at admission: the reservation is released and the Management Response joins
the insert queue (R11, R16, R191). -/
def answer (rq : Requester) (st : Status) (results : List Byte) (restarts : Bool) (s : State) : State :=
  joinInsert
    { cls := .response restarts, dst := rq.dst, src := s.ownByte, kind := 6#4, life := s.insLife,
      payload := rq.code :: rq.tagHi :: rq.tagLo :: byte st.code :: results }
    { s with ring := { s.ring with reserved := s.ring.reserved - 1 } }

/-! Brake transitions. -/

/-- A channel's timers stopped (R46). -/
def Channel.stopTimers (ch : Channel) : Channel :=
  { ch with tDue := none, tProve := none, tRelease := none, tDwell := none, tSet := none, tAutoset := none }

/-- Whether the latest feedback speed of any axis of a channel lies outside its zero-speed band (R57). -/
def State.moving (s : State) (c : Chan) : Bool :=
  (axesOf c).any fun x => !s.inBand c (s.feedback.get x).speed

/-- A channel enters SETTING: confirm marks cleared, except the axis whose SET report at standstill caused the entry;
hard-set mark from the feedback speeds; set confirm timer started (R57, R54). -/
def enterSetting (c : Chan) (reported : Option Axis) (s : State) : State :=
  let ch := s.brakes.get c
  let marks : Pair Bool :=
    match reported with
    | some x => Pair.set ⟨false, false⟩ x (s.inBand c (s.feedback.get x).speed)
    | none => ⟨false, false⟩
  s.setChan c
    { ch.stopTimers with
      state := .setting
      due := none
      proved := false
      armed := false
      confirm := marks
      hardSet := s.moving c
      tSet := some (s.now + (s.act.brake.get c).setConfirm) }

/-- A channel in RELEASE_PENDING returns to SET: timers stopped, due time absent, set time and prove-failed flag
unchanged (R52). -/
def returnToSet (c : Chan) (s : State) : State :=
  let ch := s.brakes.get c
  s.setChan c { ch.stopTimers with state := .set, due := none, proved := false }

/-- A channel in RELEASED begins to set, under the minimum release dwell (R54). -/
def beginToSet (c : Chan) (s : State) : State :=
  let ch := s.brakes.get c
  let dwellEnd := ch.releasedTime.getD 0 + (s.act.brake.get c).minRelease
  if dwellEnd ≤ s.now then enterSetting c none s
  else s.setChan c { ch.stopTimers with state := .setPending, armed := false, tDwell := some dwellEnd }

/-- The parking set-all on one channel (R62). -/
def parkChannel (c : Chan) (s : State) : State :=
  match (s.brakes.get c).state with
  | .releasePending => returnToSet c s
  | .released => beginToSet c s
  | _ => s

/-- The parking set-all, handed to all four channels (R62). -/
def parkingSetAll (s : State) : State := allChans.foldl (fun s c => parkChannel c s) s

/-- The trip set-all on one channel: the release dwell is ignored (R63). -/
def tripChannel (c : Chan) (s : State) : State :=
  match (s.brakes.get c).state with
  | .releasePending => returnToSet c s
  | .releasing => enterSetting c none s
  | .released => enterSetting c none s
  | .setPending => enterSetting c none s
  | _ => s

/-- The trip set-all (R63). -/
def tripSetAll (s : State) : State := allChans.foldl (fun s c => tripChannel c s) s

/-- The set request of a drive station going STALE (R64). -/
def staleSet (c : Chan) (s : State) : State :=
  match (s.brakes.get c).state with
  | .releasePending => returnToSet c s
  | .releasing => enterSetting c none s
  | .released => beginToSet c s
  | _ => s

/-! The mode change. -/

/-- A tightline episode ended: the record of R85 as with no episode (R89). -/
def clearEpisode (s : State) : State := { s with tight := resetTight }

/-- The park timer started with the active table's code: running, or left stopped with code 0 (R44). -/
def startPark (s : State) : State :=
  { s with ctl := { s.ctl with parkTimer := (parkLength s.act.mode.parkCode).map fun n => s.now + n } }

/-- The lagging cam's turn number (R111), absent while its progress is. -/
def State.lagTurn (s : State) : Option Nat :=
  (s.walk.lagging.bind s.walk.progress).map fun p => p / 3600

/-- The walk sequencer at entry to WALKING: session counts 0, step mark set, reversal marks cleared with the flag's
change handed over, and the skew tested against the trip limit (R120). -/
def enterWalking (s : State) : State :=
  let had := s.walk.camReversal
  let s := { s with walk := { s.walk with steps := 0, distance := 0, stepMark := s.lagTurn,
                                          reversal := ⟨false, false⟩ } }
  let s := if had then feedHeld 77 0 true none s else s
  match s.walk.skew with
  | some k =>
    if s.act.walk.tripLimit < k then
      { s with heldTrips := s.heldTrips ++ [{ cause := .skew, action := .both, frame := none }] }
    else s
  | none => s

/-- The walk sequencer at a change of mode: timers stopped at exit from WALK_PREP and the timeout started at entry
(R118, R119), the step mark absent outside WALKING (R106), and the entry to WALKING (R120). -/
def walkModeChange (old new : Mode) (s : State) : State :=
  let s := if old = .walkPrep then { s with walk := { s.walk with tConfirm := none, tTimeout := none } } else s
  let s := if old = .walking then { s with walk := { s.walk with stepMark := none } } else s
  match new with
  | .walkPrep => { s with walk := { s.walk with tTimeout := some (s.now + s.act.walk.prepTimeout) } }
  | .walking => enterWalking s
  | _ => s

/-- The tightline check at exit from DIG: a running episode ends and its duration source is handed with value 0
(R89). -/
def tightModeChange (old : Mode) (s : State) : State :=
  if old = .dig && s.tight.start.isSome then feedHeld 37 0 true none (clearEpisode s) else s

/-- The steps of a mode change (R31), in order; trips they raise are held. Entry to PARKED from INIT energises both
lines in the same event (R33, R160). -/
def modeSteps (new : Mode) (s : State) : State :=
  let old := s.mode
  let s :=
    { s with ctl := { s.ctl with
        mode := new, entryTime := s.now, slot := none, hold := .none,
        reason := if old = .init then .none else s.ctl.reason,
        parkTimer := if old = .dig then none else s.ctl.parkTimer } }
  let s := if new = .dig then startPark s else s
  let s := rearmPoints s
  let s := walkModeChange old new s
  let s := tightModeChange old s
  let s :=
    if old = .init ∧ new = .parked then { s with trip := { s.trip with field := .energised, brake := .energised } }
    else s
  oweStatus s

/-! The end of a brake test, less the report to the mode controller. -/

/-- A descriptor written into the slot after the pointer, which moves to it (R190). -/
def writeLog (d : Descriptor) (t : Tester) : Tester :=
  let slot := if t.pointer = 12 then 1 else t.pointer + 1
  { t with log := t.log.setIfInBounds (slot - 1) (some d), pointer := slot }

/-- Steps 1 to 4 of the ending of a test (R189): timers stopped, an unfinished segment recorded NOT_FINISHED, the status
set, current number and segment absent, the descriptor written. -/
def endRecord (st : TestStatus) (failing : Option Chan) (s : State) : State :=
  let t := s.tester
  let unfinished : List SegResult :=
    if t.phase = some .ramp ∨ t.phase = some .hold then
      match s.testChan with
      | some c => [{ chan := c, slip := none, outcome := .notFinished }]
      | none => []
    else []
  let results := t.results ++ unfinished
  let d : Descriptor :=
    { number := t.number.getD 0, status := st, minutes := s.attrs.minutes, failing := failing, results := results }
  let t' : Tester :=
    { t with
      status := st, results := results, number := none, segment := none, phase := none, reached := ⟨false, false⟩,
      start := none, tRamp := none, tHold := none, tPeriod := none, tResume := none, tSuspend := none }
  oweStatus { s with tester := writeLog d t' }

/-! The trip event. -/

/-- An axis snapshot (R162). -/
def State.snapshot (s : State) (x : Axis) : Snapshot :=
  let f := s.feedback.get x
  { speed := f.speed, position := f.position, current := f.current, chan := (s.brakes.get (chanOf x)).state,
    stale := !s.driveFresh x || !f.updated }

/-- The point a trip's cause names, left out of its co-active points (R161). -/
def TripCause.isPoint (c : TripCause) (p : Fin 48) : Bool := c == .point p

/-- The content of a trip record, captured from the machine as it stands (R161, R162). -/
def capture (t : TripIn) (first : Bool) (s : State) : TripRecord :=
  let walkMode := s.mode == .walkPrep || s.mode == .walking
  { number := s.trip.next
    time := s.time32
    minutes := s.attrs.minutes
    cause := t.cause
    action := t.action
    firstOut := first
    mode := s.mode
    phase := if walkMode then some s.walk.phase else none
    tubRaised := if walkMode then some (s.walk.phase.isSome && s.walk.tubRaised) else none
    snapshots := { hoist := s.snapshot .hoist, drag := s.snapshot .drag, swing := s.snapshot .swing,
                   walkLeft := s.snapshot .walkLeft, walkRight := s.snapshot .walkRight }
    frame := t.frame
    coActive := (s.alarm.list.filter fun p => !t.cause.isPoint p).take 8 }

/-- The lines at a trip: FIELD de-energised, BRAKE too when the action is BOTH (R157 step 3, R158, R160). -/
def deEnergise (a : TripAction) (s : State) : State :=
  { s with
    trip := { s.trip with field := .deEnergised, brake := if a = .both then .deEnergised else s.trip.brake }
    statusOwed := s.statusOwed || s.trip.field != .deEnergised
      || (a == .both && s.trip.brake != .deEnergised) }

/-- The captured record takes the next number and is appended, or counted as not stored when the queue is full
(R163); the source that changed is handed over (R166). -/
def appendRecord (r : TripRecord) (s : State) : State :=
  let next := if s.trip.next < 4294967295 then s.trip.next + 1 else s.trip.next
  let r := { r with number := s.trip.next }
  if s.trip.queue.length < Config.tripCap then
    let q := s.trip.queue ++ [r]
    feedHeld 54 q.length true none (oweStatus { s with trip := { s.trip with queue := q, next := next } })
  else if s.trip.notStored < 65535 then
    let n := s.trip.notStored + 1
    feedHeld 55 n true none (oweStatus { s with trip := { s.trip with notStored := n, next := next } })
  else { s with trip := { s.trip with next := next } }

/-- A first-out trip: capture, mode, lines, brakes, test, record (R157). -/
def firstTrip (t : TripIn) (s : State) : State :=
  let r := capture t true s
  let wasTesting := s.mode = .testing
  let s := modeSteps .tripped s
  let s := deEnergise t.action s
  let s := tripSetAll s
  let s := if wasTesting then withdrawTest (endRecord .abortedTrip none s) else s
  appendRecord r s

/-- A trip in TRIPPED: capture, lines and record alone (R158). -/
def repeatTrip (t : TripIn) (s : State) : State := appendRecord (capture t false s) (deEnergise t.action s)

/-- The trip unit takes a trip, in every mode (R155, R157, R158). -/
def takeTrip (t : TripIn) (s : State) : State := if s.mode = .tripped then repeatTrip t s else firstTrip t s

/-- The trips held during an event taken one after the other, each with the trips it raises behind the others
(R159); no round is left over (log 24). -/
def drainTrips : Nat → State → State
  | 0, s => { s with heldTrips := [] }
  | n + 1, s =>
    match s.heldTrips with
    | [] => s
    | t :: ts => drainTrips n (takeTrip t { s with heldTrips := ts })

/-- All held trips taken. A point raises at most one trip from the sources handed inside trip events, whose values only
rise there, so 256 rounds are more than the trips there can be (log 24). -/
def drain (s : State) : State := drainTrips 256 s

/-- A trip handed to the trip unit takes effect at once (R13, R155). -/
def handTrip (t : TripIn) (s : State) : State := drain { s with heldTrips := s.heldTrips ++ [t] }

/-- One source update evaluated (R123): the record takes the value and validity, then every enabled point on it is
evaluated in order of id; a trip a point raises takes effect before the next point is evaluated (R138). A later point that
such a trip re-arms is not evaluated here: it waits for the next update of its source (R135). -/
def takeUpdate (u : Update) (s : State) : State :=
  (s.updatePoints u.code).foldl (fun s p => drain (evalPoint u.trig p s)) (s.setSource u.code u.value u.valid)

/-- The waiting updates evaluated one after the other, each in full before the next, with those that the trips they
raise hand behind them (R123; log 39); no round is left over (log 24). -/
def takeUpdates : Nat → State → State
  | 0, s => s
  | n + 1, s =>
    match s.updates with
    | some (u :: us) => takeUpdates n (takeUpdate u { s with updates := some us })
    | _ => s

/-- Source updates handed together, in order (R123). The rounds are more than the updates there can be (log 24). -/
def feedAll (us : List Update) (s : State) : State :=
  { takeUpdates 256 { s with updates := some us } with updates := s.updates }

/-- A source update (R123). -/
def feed (code : Nat) (v : Int) (valid : Bool) (trig : Option (List Byte)) (s : State) : State :=
  feedAll [{ code := code, value := v, valid := valid, trig := trig }] s

/-- A change of mode (R31): its steps, then the trips handed while they were carried out. -/
def changeMode (new : Mode) (s : State) : State := drain (modeSteps new s)

/-- The test of R33 and the INIT reason of R32: in INIT the mode changes to PARKED when the start conditions hold;
otherwise the INIT reason is worked out anew. -/
def initTest (s : State) : State :=
  if s.mode = .init then (if s.startReady then changeMode .parked s else updateReason s) else s

/-- The test of R40: with a PARK waiting for BRAKES in DIG or WALKING and all four channels SET, the mode changes to
PARKED. -/
def parkingTest (s : State) : State :=
  if (s.mode = .dig ∨ s.mode = .walking) ∧ s.ctl.slot = some { target := .park, wait := .brakes } ∧ s.allSet then
    changeMode .parked s
  else s

/-! Wear and level records. -/

/-- The figure of R173: 100 less 99 × raw div full, clamped to 1..100 (log 50 on a life or slip limit of 0). -/
def normalise (raw full : Nat) : Nat := max 1 (min 100 (100 - quotient (99 * raw) full))

/-- The channel whose brake test feeds a LEVEL record, ids 10 to 13 (10.1). -/
def levelChan (i : Fin 13) : Option Chan :=
  match i.val with
  | 9 => some .hoist
  | 10 => some .drag
  | 11 => some .swing
  | 12 => some .walk
  | _ => none

/-- The LEVEL record of a channel (10.1). -/
def marginOf : Chan → Fin 13
  | .hoist => 9 | .drag => 10 | .swing => 11 | .walk => 12

/-- The brake wear record of a channel (10.1). -/
def brakeWearOf : Chan → Fin 13
  | .hoist => 2 | .drag => 3 | .swing => 4 | .walk => 5

/-- WALK_CAM, BOOM_FATIGUE and TIGHTLINE_EXPOSURE (10.1). -/
def walkCam : Fin 13 := 6
/-- BOOM_FATIGUE (10.1). -/
def boomFatigue : Fin 13 := 7
/-- TIGHTLINE_EXPOSURE (10.1). -/
def tightExposure : Fin 13 := 8

/-- The normalised value worked out for a record as it stands: WEAR never rises, LEVEL follows the latest test (R173). -/
def State.workedNorm (s : State) (i : Fin 13) (r : AttrRun) : Nat :=
  match levelChan i with
  | some c => if r.never then 100 else normalise r.raw (s.act.test.slip.get c)
  | none => min r.norm (normalise r.raw (s.act.attrs[i]).life)

/-- A record stored with a normalised value: the worst value follows, and a change is handed to the alarm unit as source
55 + id (R173). -/
def setNorm (i : Fin 13) (r : AttrRun) (norm : Nat) (s : State) : State :=
  let old := (s.attrs.recs[i]).norm
  let r' := { r with norm := norm, worst := if norm = r.norm then r.worst else min r.worst norm }
  let s := { s with attrs := { s.attrs with recs := s.attrs.recs.set i r' } }
  if norm = old then s else feed (56 + i.val) norm true none s

/-- The normalised value of a record worked out again (R173). -/
def renorm (i : Fin 13) (s : State) : State :=
  let r := s.attrs.recs[i]
  setNorm i r (s.workedNorm i r) s

/-- A WEAR record gains, saturating (R171, R174, R175). -/
def gain (i : Fin 13) (n : Nat) (s : State) : State :=
  let r := s.attrs.recs[i]
  let r' := { r with raw := min 281474976710655 (r.raw + n) }
  setNorm i r' (s.workedNorm i r') s

/-- The ends of a test that change the mode: the ending is recorded and reported, and the mode changes from TESTING to
PARKED (R189, R43). -/
def endTest (st : TestStatus) (failing : Option Chan) (s : State) : State :=
  let s := endRecord st failing s
  if s.mode = .testing then changeMode .parked s else s

end Sys2Proof.Machine
end

