-- ==== Sys2Proof/Machine/Notices.lean ====
section
/-!
DEFINITION. The Status Notice and the Alarm Notices: their fields (R142, R204), and their building as room in the insert
queue allows (R18). Building is tried at the end of every command (log 6).
-/

namespace Sys2Proof.Machine

/-- The pending target and wait as a field (R204, R191). -/
def slotBytes (v : Option Slot) : List Byte :=
  optBytes (v.map fun x => [byte x.target.code, byte x.wait.code])

/-- The fields of the Status Notice, in the order of R204. -/
def State.statusFields (s : State) : List Byte :=
  [byte s.mode.code, byte s.ctl.reason.code] ++ slotBytes s.ctl.slot ++ [byte s.ctl.refusal.code]
    ++ allChans.map (fun c => byte (s.brakes.get c).state.code)
    ++ [byte s.trip.field.code, byte s.trip.brake.code, byte s.trip.queue.length]
    ++ encNat 2 s.trip.notStored
    ++ [byte s.alarm.list.length, byte s.unackCount, byte s.tester.status.code, byte s.percentLeft]
    ++ encNat 2 s.walk.steps ++ [byte s.store.state.code, flagByte s.store.attrsLost]

/-- The fields of a point's Alarm Notice, in the order of R142. That 'source valid', the change validity, is sent as a mark,
1 for VALID and 0 for INVALID, and not as the position of a name, is the model's choice (R191; log 59). -/
def State.alarmFields (s : State) (p : Fin 48) : List Byte :=
  let r := s.alarm.points[p]
  let c := s.act.points[p]
  [byte (p.val + 1), byte r.state.code, flagByte r.mark]
    ++ optBytes (if c.enabled then some [byte c.cls.code] else none)
    ++ encInt 5 r.chValue ++ [flagByte r.chValid] ++ encNat 4 (low32 r.chTime)

/-- A notice entry for the insert queue: addressed to all stations, with the inserted-frame life (R18, R20). -/
def noticeEntry (cls : InsClass) (kind : BitVec 4) (payload : List Byte) (s : State) : InsEntry :=
  { cls := cls, dst := 63#8, src := s.ownByte, kind := kind, life := s.insLife, payload := payload }

/-- Whether there is room for a notice: the own station number is valid and the free count is at least 4 (R18). -/
def State.noticeRoom (s : State) : Bool := s.ownValid && decide (Config.noticeRoom ≤ s.freeCount)

/-- Whether the Status Notice is buildable: owed, and none in the insert queue (R18). -/
def State.statusBuildable (s : State) : Bool :=
  s.statusOwed && s.ring.ins.all fun e => e.cls != .status

/-- The lowest point whose Alarm Notice is buildable: in the owed set, with no notice of its own in the insert queue
(R18). -/
def State.alarmBuildable (s : State) : Option (Fin 48) :=
  (List.finRange 48).find? fun p => s.owed[p] && s.ring.ins.all fun e => e.cls != .alarm p

/-- The Status Notice built: its owed mark is cleared and it takes its place in its class (R18, R204). -/
def buildStatus (s : State) : State :=
  joinInsert (noticeEntry .status 8#4 s.statusFields s) { s with statusOwed := false }

/-- The Alarm Notice of a point built: the point leaves the owed set and the notice takes its place in its class (R18,
R141, R142). -/
def buildAlarm (p : Fin 48) (s : State) : State :=
  joinInsert (noticeEntry (.alarm p) 7#4 (s.alarmFields p) s) { s with owed := s.owed.set p false }

/-- One notice built, the Status Notice first, then the Alarm Notice of the lowest point (R18). -/
def buildOne (s : State) : State :=
  if s.noticeRoom then
    if s.statusBuildable then buildStatus s
    else
      match s.alarmBuildable with
      | some p => buildAlarm p s
      | none => s
  else s

/-- Notices built while there is room and one is buildable (R18): each but the first taken by OUT fills a place of the
insert queue, so 16 rounds are enough. -/
def buildNotices : Nat → State → State
  | 0, s => s
  | n + 1, s => buildNotices n (buildOne s)

/-- The end of a command: notices are built as room allows (R18; log 6). -/
def finish (s : State) : State := buildNotices 16 s

/-- Whether a timer has run out (R46: a timer stopped before its expiry has no effect; log 2). -/
def State.expired (s : State) : Option Nat → Bool
  | some d => decide (d ≤ s.now)
  | none => false

/-- The outcome of a command whose effect on the state is given: the machine goes on, notices built. -/
def done (s : State) : Host.Outcome State Fault Refusal := .next (finish s)

end Sys2Proof.Machine
end

