-- ==== Sys2Proof/Machine/Brakes.lean ====
section
/-!
DEFINITION. The brake channels (chapter 3): what a Drive Status, a console Reference and each channel timer's expiry do
to a channel.
-/

namespace Sys2Proof.Machine

/-- The proving current of a channel: SWING and WALK release as if it were 0 (R47). -/
def State.proving (s : State) (c : Chan) : Nat :=
  match c with
  | .hoist => s.act.brake.hoist.proving
  | .drag => s.act.brake.drag.proving
  | _ => 0

/-- The matrix entry (i, j) in force: a delay, or none for BARRED (R48). -/
def State.matrix (s : State) (i j : Chan) : Option Nat := (s.act.matrix.get i).get j

/-- Whether a release of a channel is barred: some other channel whose entry is BARRED is not SET (R48, R50). -/
def State.barred (s : State) (c : Chan) : Bool :=
  allChans.any fun i => i != c && (s.matrix i c).isNone && (s.brakes.get i).state != .set

/-- The release-due time of a channel: its own set dwell and the delays of the channels that are SET (R50). -/
def State.dueTime (s : State) (c : Chan) : Nat :=
  allChans.foldl
    (fun t i =>
      match s.matrix i c with
      | some d => if i != c && (s.brakes.get i).state == .set then max t ((s.brakes.get i).setTime + d) else t
      | none => t)
    ((s.brakes.get c).setTime + (s.act.brake.get c).minSet)

/-- The completing event of a release: the bars are tested again, and the channel enters RELEASING, or returns to SET
when barred (R51). -/
def completeRelease (c : Chan) (s : State) : State :=
  let ch := s.brakes.get c
  if s.barred c || s.request c == .hold then returnToSet c s
  else
    s.setChan c
      { ch.stopTimers with
        state := .releasing
        due := none
        confirm := ⟨false, false⟩
        tRelease := some (s.now + (s.act.brake.get c).releaseConfirm) }

/-- A release request taken: RELEASE_PENDING with its due time fixed, and on to RELEASING when the conditions are
complete at once (R50). -/
def enterPending (c : Chan) (s : State) : State :=
  let ch := s.brakes.get c
  let due := s.dueTime c
  let proved := s.proving c == 0
  let s' :=
    s.setChan c
      { ch.stopTimers with
        state := .releasePending
        due := some due
        proved := proved
        tProve := some (s.now + (s.act.brake.get c).prove)
        tDue := if due ≤ s.now then none else some due }
  if due ≤ s.now ∧ proved then completeRelease c s' else s'

/-- Whether the mode, the hold, freshness and the feedback records let a Reference for an axis make a release request
(R50). -/
def State.releasable (s : State) (x : Axis) : Bool :=
  permits s.mode x && !s.held (chanOf x)
    && (axesOf (chanOf x)).all fun y => s.driveFresh y && (s.feedback.get y).updated

/-- Whether a Reference asks for release: RELEASE, or RELEASE_AUTOSET with a non-zero lever (R50). -/
def asksRelease (r : BrakeReq) (lever : Int) : Bool :=
  match r with
  | .release => true
  | .releaseAutoset => lever != 0
  | .hold => false

/-- The channel acts on a console Reference at the brake stage (R78 step 1; R50, R52, R54). -/
def brakeRequest (x : Axis) (field : BrakeReq) (lever : Int) (s : State) : State :=
  let c := chanOf x
  let req := if s.held c then .hold else field
  match (s.brakes.get c).state with
  | .set => if asksRelease req lever && s.releasable x && !s.barred c then enterPending c s else s
  | .releasePending => if req = .hold then returnToSet c s else s
  | .released => if req = .hold then beginToSet c s else s
  | _ => s

/-- Whether a channel is quiet (R56). -/
def State.quiet (s : State) (c : Chan) : Bool :=
  let ch := s.brakes.get c
  ch.state == .released && ch.armed
    && (axesOf c).all fun x => s.inBand c (s.feedback.get x).speed && ch.lastSpeed.get x == 0

/-- The quiet test: the autoset timer starts when the channel becomes quiet and stops when it ceases to be; with a delay
of 0 the expiry follows at once (R56; log 21). -/
def quietTest (c : Chan) (s : State) : State :=
  let ch := s.brakes.get c
  let delay := (s.act.brake.get c).autoset
  if s.quiet c then
    match ch.tAutoset with
    | some _ => s
    | none =>
      if delay = 0 then beginToSet c s else s.setChan c { ch with tAutoset := some (s.now + delay) }
  else s.setChan c { ch with tAutoset := none }

/-- A console Reference's brake field written into the standing request; in RELEASED the autoset-armed flag follows it,
and a change of the flag tests quietness (R49, R56). -/
def writeStanding (x : Axis) (field : BrakeReq) (s : State) : State :=
  let c := chanOf x
  let ch := s.brakes.get c
  if ch.state = .released then
    let armed := field == .releaseAutoset
    let s' := s.setChan c { ch with standing := field, armed := armed }
    if armed = ch.armed then s' else quietTest c s'
  else s.setChan c { ch with standing := field }

/-- The alarm source of a channel's prove-failed flag, codes 69..72 (R124). -/
def proveSource (c : Chan) : Nat := 69 + chanPos c

/-- The alarm source of a channel's release-timeout flag, codes 73..76 (R124). -/
def timeoutSource (c : Chan) : Nat := 73 + chanPos c

/-- The prove-failed flag takes a value; a change is handed to the alarm unit (R67; log 19). -/
def setProveFailed (c : Chan) (v : Bool) (s : State) : State :=
  let ch := s.brakes.get c
  if ch.proveFailed = v then s
  else feed (proveSource c) (if v then 1 else 0) true none (s.setChan c { ch with proveFailed := v })

/-- The release-timeout flag takes a value; a change is handed to the alarm unit (R67; log 19). -/
def setReleaseTimeout (c : Chan) (v : Bool) (s : State) : State :=
  let ch := s.brakes.get c
  if ch.releaseTimeout = v then s
  else feed (timeoutSource c) (if v then 1 else 0) true none (s.setChan c { ch with releaseTimeout := v })

/-- A channel enters RELEASED (R53): released time, timer stopped, flags cleared and handed over (prove-failed first;
log 52), autoset armed under RELEASE_AUTOSET; with the standing request HOLD or under the parking hold it moves on at
once. -/
def enterReleased (c : Chan) (s : State) : State :=
  let ch := s.brakes.get c
  let s :=
    s.setChan c
      { ch.stopTimers with
        state := .released, releasedTime := some s.now, armed := ch.standing == .releaseAutoset }
  let s := setReleaseTimeout c false (setProveFailed c false s)
  if (s.brakes.get c).state = .released ∧ s.request c = .hold then beginToSet c s else s

/-- A channel reaches SET, from SETTING or from FAULT (R58): set time, marks cleared; then the wear record (from SETTING
only), the mode controller's tests, and the brake tester, which does nothing with it (R189). -/
def reachSet (c : Chan) (fromSetting : Bool) (s : State) : State :=
  let ch := s.brakes.get c
  let s :=
    s.setChan c
      { ch.stopTimers with state := .set, setTime := s.now, confirm := ⟨false, false⟩, hardSet := false }
  let s := if fromSetting then gain (brakeWearOf c) (if ch.hardSet then 10 else 1) s else s
  initTest (parkingTest s)

/-- A channel enters FAULT and hands a BRAKE_FAULT trip (R61). -/
def enterFault (c : Chan) (trig : Option (List Byte)) (s : State) : State :=
  let ch := s.brakes.get c
  handTrip { cause := .brakeFault c, action := .both, frame := trig }
    (s.setChan c { ch.stopTimers with state := .fault, due := none, confirm := ⟨false, false⟩, armed := false })

/-- A confirm mark written; when every mark of the channel is set, `complete` follows (R53, R57, R61). -/
def confirmMark (c : Chan) (x : Axis) (v : Bool) (complete : State → State) (s : State) : State :=
  let ch := s.brakes.get c
  let marks := ch.confirm.set x v
  let s := s.setChan c { ch with confirm := marks }
  if marks.all c then complete s else s

/-- The drive has applied the brake itself: SETTING, with the axis's mark set at standstill, and on to SET when that
completes the marks (R54, R57; log 34). -/
def setByDrive (c : Chan) (x : Axis) (s : State) : State :=
  let s := enterSetting c (some x) s
  if (s.brakes.get c).confirm.all c then reachSet c true s else s

/-- Whether a report contradicts a channel that holds its brake (R59, R60). -/
def State.contradicts (s : State) (c : Chan) (f : Feedback) : Bool :=
  f.brake == .released || f.brake == .fault || (!s.inBand c f.speed && !s.segmentRuns c)

/-- A proving arrival (R51): haul-in current at least the proving current sets the proved mark, and completes the
release once the due time has been reached. -/
def provingArrival (c : Chan) (current : Int) (s : State) : State :=
  let ch := s.brakes.get c
  if (c = .hoist ∨ c = .drag) ∧ current ≤ -(s.proving c : Int) then
    let s := s.setChan c { ch with proved := true }
    if ch.due.getD 0 ≤ s.now then completeRelease c s else s
  else s

/-- A Drive Status for an axis acts on the axis's channel, from the feedback record as updated (R51, R53 to R61). -/
def channelArrival (x : Axis) (trig : List Byte) (s : State) : State :=
  let c := chanOf x
  let f := s.feedback.get x
  let still := s.inBand c f.speed
  let s' :=
    match (s.brakes.get c).state with
    | .set => if s.contradicts c f then enterFault c (some trig) s else s
    | .releasePending => if s.contradicts c f then enterFault c (some trig) s else provingArrival c f.current s
    | .releasing =>
      if f.brake = .fault then enterFault c (some trig) s
      else confirmMark c x (f.brake == .released) (enterReleased c) s
    | .released =>
      if f.brake = .fault then enterFault c (some trig) s
      else if f.brake = .set then setByDrive c x s
      else s
    | .setPending =>
      if f.brake = .fault then enterFault c (some trig) s
      else if f.brake = .set then setByDrive c x s
      else s
    | .setting =>
      if f.brake = .fault then enterFault c (some trig) s
      else confirmMark c x (f.brake == .set && still) (reachSet c true) s
    | .fault => confirmMark c x (f.brake == .set && still) (reachSet c false) s
  quietTest c s'

/-! Channel timers. -/

/-- The release-due timer's expiry: the due time is reached, and the release completes when it is proved (R51). -/
def releaseDue (c : Chan) (s : State) : State :=
  let ch := s.brakes.get c
  if ch.state = .releasePending ∧ s.expired ch.tDue then
    let s := s.setChan c { ch with tDue := none }
    if ch.proved then completeRelease c s else s
  else s

/-- The prove timer's expiry: back to SET with the prove-failed flag set (R52). -/
def proveOut (c : Chan) (s : State) : State :=
  let ch := s.brakes.get c
  if ch.state = .releasePending ∧ s.expired ch.tProve then setProveFailed c true (returnToSet c s) else s

/-- The release confirm timer's expiry: SETTING, with the release-timeout flag set (R53). -/
def releaseOut (c : Chan) (s : State) : State :=
  let ch := s.brakes.get c
  if ch.state = .releasing ∧ s.expired ch.tRelease then setReleaseTimeout c true (enterSetting c none s) else s

/-- The release dwell timer's expiry: SETTING (R55). -/
def dwellOut (c : Chan) (s : State) : State :=
  let ch := s.brakes.get c
  if ch.state = .setPending ∧ s.expired ch.tDwell then enterSetting c none s else s

/-- The set confirm timer's expiry: FAULT, with a trip that has no triggering frame (R57, R61). -/
def setOut (c : Chan) (s : State) : State :=
  let ch := s.brakes.get c
  if ch.state = .setting ∧ s.expired ch.tSet then enterFault c none s else s

/-- The autoset timer's expiry: the channel begins to set (R56). -/
def autosetOut (c : Chan) (s : State) : State :=
  let ch := s.brakes.get c
  if ch.state = .released ∧ s.expired ch.tAutoset then beginToSet c s else s

/-- RELEASE_DUE_EXPIRY (R51). -/
def execReleaseDueExpiry (c : Chan) (s : State) : Host.Outcome State Fault Refusal := done (releaseDue c s)

/-- PROVE_TIMER_EXPIRY (R52). -/
def execProveTimerExpiry (c : Chan) (s : State) : Host.Outcome State Fault Refusal := done (proveOut c s)

/-- RELEASE_CONFIRM_EXPIRY (R53). -/
def execReleaseConfirmExpiry (c : Chan) (s : State) : Host.Outcome State Fault Refusal := done (releaseOut c s)

/-- RELEASE_DWELL_EXPIRY (R55). -/
def execReleaseDwellExpiry (c : Chan) (s : State) : Host.Outcome State Fault Refusal := done (dwellOut c s)

/-- SET_CONFIRM_EXPIRY (R57). -/
def execSetConfirmExpiry (c : Chan) (s : State) : Host.Outcome State Fault Refusal := done (setOut c s)

/-- AUTOSET_EXPIRY (R56). -/
def execAutosetExpiry (c : Chan) (s : State) : Host.Outcome State Fault Refusal := done (autosetOut c s)

end Sys2Proof.Machine
end

