-- ==== Sys2Proof/Machine/Modes.lean ====
section
/-!
DEFINITION. The mode controller (chapter 2) and the walk-preparation conditions it waits for (R99, R116 to R119): mode
requests, the pending slot, parking, the park timer, and the reports of walk preparation.
-/

namespace Sys2Proof.Machine

/-! Walk preparation. -/

/-- The heading check (R99). -/
def State.headingPass (s : State) : Bool :=
  s.driveFresh .swing && s.feedback.swing.updated
    && decide (separation s.feedback.swing.position s.act.walk.heading ≤ s.act.walk.headingTol)

/-- The ring sensor value of a channel, when it is valid (R14, R116); a channel above 15, which only a loaded region can
name, has none (log 50). -/
def State.sensorValue (s : State) (ch : Nat) : Option Int :=
  match s.sensors[ch]? with
  | some v => if v.valid then some v.value else none
  | none => none

/-- The bucket is grounded (R116). -/
def State.bucketGrounded (s : State) : Bool :=
  let f := s.feedback.hoist
  s.driveFresh .hoist && f.updated && decide (s.act.walk.grounded ≤ f.position)
    && decide (f.current.natAbs ≤ s.act.walk.slack)

/-- The boom angle lies within its limits (R116). -/
def State.boomOk (s : State) : Bool :=
  match s.sensorValue s.act.walk.boomChannel with
  | some v => decide (s.act.walk.boomMin ≤ v) && decide (v ≤ s.act.walk.boomMax)
  | none => false

/-- The tub inclination lies within its limit (R116). -/
def State.tubOk (s : State) : Bool :=
  match s.sensorValue s.act.walk.inclChannel with
  | some v => decide (v.natAbs ≤ s.act.walk.inclLimit)
  | none => false

/-- A walk drive is FRESH, heard from and ready (R116). -/
def State.camReady (s : State) (x : Axis) : Bool :=
  s.driveFresh x && (s.feedback.get x).updated && (s.feedback.get x).ready

/-- The walk-preparation conditions, all together (R116). -/
def State.prepHolds (s : State) : Bool :=
  s.bucketGrounded && s.headingPass && s.boomOk && s.tubOk && s.camReady .walkLeft && s.camReady .walkRight
    && s.brakes.walk.state == .set

/-- Preparation confirmed: the mode becomes WALKING, or PARKED with ATTRIBUTE_PREFAIL recorded when a PREFAIL record is
crossed (R42). -/
def prepConfirmed (s : State) : State :=
  if s.prefailCrossed then refuse .attrPrefail (changeMode .parked s) else changeMode .walking s

/-- The re-test of the walk-preparation conditions in WALK_PREP (R117, R118). -/
def prepRetest (s : State) : State :=
  if s.mode = .walkPrep then
    match s.walk.tConfirm with
    | none =>
      if s.prepHolds then
        if s.act.walk.prepConfirm = 0 then prepConfirmed s
        else { s with walk := { s.walk with tConfirm := some (s.now + s.act.walk.prepConfirm) } }
      else s
    | some _ => if s.prepHolds then s else { s with walk := { s.walk with tConfirm := none } }
  else s

/-- Entry to WALK_PREP: the mode change starts the timeout timer, and the first re-test follows when its steps are
complete (R118, R31). -/
def enterWalkPrep (s : State) : State := prepRetest (changeMode .walkPrep s)

/-- The confirm timer's expiry: the conditions are tested once more (R118). -/
def confirmOut (s : State) : State :=
  if s.mode = .walkPrep ∧ s.expired s.walk.tConfirm then
    if s.prepHolds then prepConfirmed s else { s with walk := { s.walk with tConfirm := none } }
  else s

/-- The timeout timer's expiry: PARKED, with WALK_PREP_TIMEOUT recorded (R119, R42). -/
def prepOut (s : State) : State :=
  if s.mode = .walkPrep ∧ s.expired s.walk.tTimeout then refuse .walkPrepTimeout (changeMode .parked s) else s

/-! Parking. -/

/-- Both lines of R39 and R41: the wait becomes BRAKES, the hold is placed, a parking set-all is handed over, and with
all four channels SET the mode changes to PARKED. -/
def parkWith (h : Hold) (s : State) : State :=
  let s := setSlot (some { target := .park, wait := .brakes }) s
  let s := { s with ctl := { s.ctl with hold := h } }
  parkingTest (parkingSetAll s)

/-- Parking begins in DIG (R39). -/
def beginParking (s : State) : State := parkWith .digChannels s

/-- The end of the wait for HOME (R41). -/
def endHomeWait (s : State) : State := parkWith .walkChannel s

/-- The wait for HOME begins; it ends at once when the current phase is HOME (R41, R112). -/
def beginHomeWait (s : State) : State :=
  let s := setSlot (some { target := .park, wait := .homePhase }) s
  if s.walk.phase = some .home then endHomeWait s else s

/-- The report that the current phase has become HOME ends a wait for it (R41, R112). -/
def homeReport (s : State) : State :=
  if s.mode = .walking ∧ s.ctl.slot = some { target := .park, wait := .homePhase } then endHomeWait s else s

/-- A DWELL wait begins: its end is fixed at the entry time plus the dwell (R38); a different target held is replaced,
and the hold of an old wait is lifted (R37). -/
def beginDwell (t : Target) (dwell : Nat) (s : State) : State :=
  let s := setSlot (some { target := t, wait := .dwell (s.ctl.entryTime + dwell) }) s
  { s with ctl := { s.ctl with hold := .none } }

/-- Whether the slot holds a target (R34 'equal to the one already pending', R45). -/
def State.pendingTarget (s : State) (t : Target) : Bool :=
  match s.ctl.slot with
  | some x => x.target == t
  | none => false

/-- Whether the dwell of the current mode has run (R38). -/
def State.dwellMet (s : State) (dwell : Nat) : Bool := decide (s.ctl.entryTime + dwell ≤ s.now)

/-- A request for the current mode: the slot is emptied and the hold lifted; in DIG a PARK that was pending restarts the
park timer (R34). -/
def requestCurrent (s : State) : State :=
  let parkWaiting := s.mode == .dig && s.pendingTarget .park
  let s := setSlot none s
  let s := { s with ctl := { s.ctl with hold := .none } }
  if parkWaiting then startPark s else s

/-- A PARK taken in DIG or WALKING (R34, R38, R39, R41). -/
def requestPark (s : State) : State :=
  if s.pendingTarget .park then s
  else if s.mode = .dig then
    if s.dwellMet s.act.mode.digDwell then beginParking s else beginDwell .park s.act.mode.digDwell s
  else if s.mode = .walking then
    if s.dwellMet s.act.mode.walkingDwell then beginHomeWait s else beginDwell .park s.act.mode.walkingDwell s
  else s

/-- The mode a DIG or WALK request leads to from PARKED (R34, R35). -/
def enterTarget (t : Target) (s : State) : State :=
  match t with
  | .dig => changeMode .dig s
  | .walk => enterWalkPrep s
  | .park => s

/-- A DIG or WALK request taken in PARKED: checked (R35); one equal to the one pending then leaves the slot as it is
(R34), and any other is carried out or put in the slot until the PARKED dwell has run (log 18). -/
def requestStart (t : Target) (s : State) : State :=
  match s.requestCheck with
  | some r => refuse r s
  | none =>
    if s.pendingTarget t then s
    else if s.dwellMet s.act.mode.parkedDwell then enterTarget t s
    else beginDwell t s.act.mode.parkedDwell s

/-- A MODE_REQUEST (R34). -/
def modeRequest (t : Target) (s : State) : State :=
  match s.mode, t with
  | .init, _ => refuse s.initCause s
  | .parked, .park => requestCurrent s
  | .parked, t => requestStart t s
  | .dig, .park => requestPark s
  | .dig, .dig => requestCurrent s
  | .dig, .walk => refuse .illegalTransition s
  | .walkPrep, .park => changeMode .parked s
  | .walkPrep, .dig => refuse .illegalTransition s
  | .walkPrep, .walk => requestCurrent s
  | .walking, .park => requestPark s
  | .walking, .dig => refuse .illegalTransition s
  | .walking, .walk => requestCurrent s
  | .testing, _ => refuse .testRunning s
  | .tripped, _ => refuse .illegalTransition s

/-- The end time of a DWELL wait (R37). -/
def Slot.dwellEnd (v : Slot) : Option Nat :=
  match v.wait with
  | .dwell d => some d
  | _ => none

/-- The expiry of a DWELL wait: the request is carried out as if it had arrived then (R38). -/
def dwellExpired (s : State) : State :=
  match s.ctl.slot with
  | none => s
  | some v =>
    if s.expired v.dwellEnd then
      match s.mode, v.target with
      | .parked, .dig | .parked, .walk =>
        match s.requestCheck with
        | some r => setSlot none (refuse r s)
        | none => enterTarget v.target s
      | .dig, .park => beginParking s
      | .walking, .park => beginHomeWait s
      | _, _ => s
    else s

/-- The park timer restarted by a console Reference with a non-zero lever in DIG (R44, R74). -/
def leverRestart (lever : Int) (s : State) : State := if s.mode = .dig ∧ lever ≠ 0 then startPark s else s

/-- The park timer's expiry: it stops, and in DIG with no PARK pending a PARK is taken (R45). -/
def parkOut (s : State) : State :=
  if s.expired s.ctl.parkTimer then
    let s := { s with ctl := { s.ctl with parkTimer := none } }
    if s.mode = .dig then requestPark s else s
  else s

/-- RESET_TRIP in TRIPPED and elsewhere (R154, R168, R169): whether a channel holds the reset. -/
def State.directHold (s : State) : Bool :=
  (List.finRange 4).any fun ch =>
    (s.act.analog[ch]).limitOn && (!(s.analog[ch]).ready || decide (1 ≤ (s.analog[ch]).beyond))

/-- The first condition that refuses a RESET_TRIP in TRIPPED (R168). -/
def State.resetCheck (s : State) : Option Refused :=
  if s.tripPointActive then some .tripActive
  else if s.directHold then some .directLimit
  else if !s.allSet then some .brakesNotSet
  else if s.tripHold && !s.trip.queue.isEmpty then some .holdRecords
  else none

/-- Both trip lines energised (R160, R168). -/
def energise (s : State) : State :=
  { s with trip := { s.trip with field := .energised, brake := .energised }, statusOwed := true }

/-- RESET_TRIP (R168, R169). -/
def resetTrip (s : State) : State :=
  if s.mode = .tripped then
    match s.resetCheck with
    | some r => refuse r s
    | none => drain (energise (modeSteps .parked s))
  else refuse .illegalTransition s

/-- INIT_TO_PARKED (R33): the test of the start conditions. -/
def execInitToParked (s : State) : Host.Outcome State Fault Refusal := done (initTest s)

/-- PARKING_COMPLETE (R40): the test for PARKED. -/
def execParkingComplete (s : State) : Host.Outcome State Fault Refusal := done (parkingTest s)

/-- HOME_WAIT_END (R41): the HOME report, made while the current phase is HOME. -/
def execHomeWaitEnd (s : State) : Host.Outcome State Fault Refusal :=
  done (if s.walk.phase = some .home then homeReport s else s)

/-- DWELL_EXPIRY (R38). -/
def execDwellExpiry (s : State) : Host.Outcome State Fault Refusal := done (dwellExpired s)

/-- PARK_TIMER_EXPIRY (R45). -/
def execParkTimerExpiry (s : State) : Host.Outcome State Fault Refusal := done (parkOut s)

/-- CONFIRM_TIMER_EXPIRY (R118). -/
def execConfirmTimerExpiry (s : State) : Host.Outcome State Fault Refusal := done (confirmOut s)

/-- PREP_TIMEOUT_EXPIRY (R119). -/
def execPrepTimeoutExpiry (s : State) : Host.Outcome State Fault Refusal := done (prepOut s)

end Sys2Proof.Machine
end

