-- ==== Sys2Proof/Machine/Walking.lean ====
section
/-!
DEFINITION. What a Drive Status arrival does to the rope wear records (R174), to the tightline check (R86 to R89) and to
the walk sequencer (R105, R107 to R112).
-/

namespace Sys2Proof.Machine

/-! Rope wear. -/

/-- The travel of a rope at an arrival times its load factor (R174). -/
def ropeGain (f : Feedback) : Nat :=
  match f.previous with
  | some p => (f.position - p + (p - f.position)) * max 1 (f.current.natAbs / 25)
  | none => 0

/-- The fifth receiver of a HOIST or DRAG arrival (R13, R174): the rope record of the axis gains. -/
def ropeArrival (x : Axis) (s : State) : State :=
  let n := ropeGain (s.feedback.get x)
  match x with
  | .hoist => if n = 0 then s else gain 0 n s
  | .drag => if n = 0 then s else gain 1 n s
  | _ => s

/-! Tightline. -/

/-- One rope hauls hard at standstill: current at or below minus the tight level, speed inside the band (R86). -/
def State.hauling (s : State) (x : Axis) : Bool :=
  let f := s.feedback.get x
  decide (f.current ≤ -(s.act.options.tightLevel : Int)) && s.inBand (chanOf x) f.speed

/-- The tightline condition (R86). -/
def State.tightHolds (s : State) : Bool :=
  s.mode == .dig && s.driveFresh .hoist && s.driveFresh .drag && s.hauling .hoist && s.hauling .drag

/-- The tightline record after the test of R86. The last duration is not held to 32 bits (R85; log 57). -/
def tightTest (s : State) : State :=
  match s.tight.start with
  | none =>
    if s.tightHolds then
      { s with tight :=
          { start := some s.now
            onset := if s.act.options.onset = 0 then none else some (s.now + s.act.options.onset)
            reduction := s.act.options.onset == 0
            duration := 0
            handed := 0 } }
    else s
  | some t => if s.tightHolds then { s with tight := { s.tight with duration := s.now - t } } else clearEpisode s

/-- The value of the duration source (R88). -/
def Tight.sourceValue (t : Tight) : Nat := if t.start.isSome then min 65535 t.duration else 0

/-- The whole seconds of a running episode not yet handed to the wear records (R88). -/
def handSeconds (s : State) : State :=
  let secs := s.tight.duration / 1000
  if s.tight.start.isSome ∧ s.tight.handed < secs then
    gain tightExposure (secs - s.tight.handed) { s with tight := { s.tight with handed := secs } }
  else s

/-- The third receiver of a HOIST or DRAG arrival (R13, R86, R88). When a point on the duration source trips the machine
at this hand-off, the episode no longer runs at the second one, and its seconds are not handed (R88 'while the episode
runs'; log 44). -/
def tightArrival (s : State) : State :=
  let s := tightTest s
  handSeconds (feed 37 s.tight.sourceValue true none s)

/-- The onset timer's expiry (R87). -/
def onsetOut (s : State) : State :=
  if s.tight.start.isSome ∧ s.expired s.tight.onset then
    { s with tight := { s.tight with onset := none, reduction := true } }
  else s

/-! The cams. -/

/-- The sector in force for a cam angle: the last sector in use whose start is at or below the angle (R105). -/
def State.sectorOf (s : State) (angle : Nat) : Option SectorCfg :=
  ((s.act.sectors.toList.take s.act.walk.sectors).filter fun c => decide (c.start ≤ angle)).getLast?

/-- The phase of a cam angle (R105). -/
def State.phaseOf (s : State) (angle : Nat) : Option Phase := (s.sectorOf angle).map fun c => c.phase

/-- The progress of a cam, from its feedback record (R106). -/
def camProgress (f : Feedback) : Nat := f.turns * 3600 + f.position

/-- The tub is raised in these phases (R105). -/
def raisedIn : Option Phase → Bool
  | some .lift => true
  | some .stride => true
  | some .setdown => true
  | _ => false

/-- Step 1 of R107: the arriving cam's progress. -/
def putProgress (x : Axis) (s : State) : State :=
  let p := some (camProgress (s.feedback.get x))
  { s with walk :=
      { s.walk with left := if x = .walkRight then s.walk.left else p
                    right := if x = .walkRight then p else s.walk.right } }

/-- Step 2 of R107: with both progresses present, the skew, the lagging cam, the phase and the tub-raised flag. -/
def workWalk (s : State) : State :=
  match s.walk.left, s.walk.right with
  | some l, some r =>
    let lag : Axis := if l ≤ r then .walkLeft else .walkRight
    let ph := s.phaseOf (s.feedback.get lag).position
    { s with walk := { s.walk with lagging := some lag, skew := some (l - r + (r - l)), phase := ph,
                                   tubRaised := raisedIn ph } }
  | _, _ => s

/-- The skew source's validity: both progresses present and both walk DRIVE entries FRESH (R108). -/
def State.skewValid (s : State) : Bool :=
  s.walk.left.isSome && s.walk.right.isSome && s.driveFresh .walkLeft && s.driveFresh .walkRight

/-- The skew source handed to the alarm unit (R108). -/
def feedSkew (trig : Option (List Byte)) (s : State) : State :=
  feed 36 (min 65535 (s.walk.skew.getD 0) : Nat) s.skewValid trig s

/-- The reversal mark of a cam after an arrival (R109). -/
def reversalMark (old : Bool) (prior : Option Nat) (new tol : Nat) : Bool :=
  match prior with
  | some p => if new + tol < p then true else if p < new then false else old
  | none => old

/-- The reversal test (R109): the arriving cam's mark, and the flag's change handed to the alarm unit. -/
def reversalTest (x : Axis) (prior : Option Nat) (s : State) : State :=
  let had := s.walk.camReversal
  let mark := reversalMark (s.walk.reversal.get x) prior ((s.walk.progress x).getD 0) s.act.walk.reversal
  let s := { s with walk := { s.walk with reversal := s.walk.reversal.set x mark } }
  if s.walk.camReversal = had then s else feed 77 (if s.walk.camReversal then 1 else 0) true none s

/-- The skew trip test (R110). -/
def skewTest (trig : List Byte) (s : State) : State :=
  match s.walk.skew with
  | some k =>
    if s.act.walk.tripLimit < k then handTrip { cause := .skew, action := .both, frame := some trig } s else s
  | none => s

/-- The step test (R111). -/
def stepTest (s : State) : State :=
  match s.lagTurn, s.walk.stepMark with
  | some n, some m =>
    if m < n then
      let s :=
        { s with walk :=
            { s.walk with steps := min 65535 (s.walk.steps + (n - m))
                          distance := min 4294967295 (s.walk.distance + (n - m) * s.act.walk.stride) } }
      let s := gain walkCam (n - m) s
      oweStatus { s with walk := { s.walk with stepMark := if s.mode = .walking then some n else none } }
    else s
  | _, _ => s

/-- The HOME test (R112). -/
def homeTest (prior : Option Phase) (s : State) : State :=
  if s.walk.phase = some .home ∧ prior ≠ some .home then homeReport s else s

/-- A test of 6.3, made only while the mode is WALKING: a trip ends them (R107). -/
def inWalking (f : State → State) (s : State) : State := if s.mode = .walking then f s else s

/-- The arrival in WALKING: the four tests in order (R107 step 3, R109 to R112). -/
def walkTests (x : Axis) (prior : Option Nat) (phase : Option Phase) (trig : List Byte) (s : State) : State :=
  inWalking (homeTest phase) (inWalking stepTest (inWalking (skewTest trig) (inWalking (reversalTest x prior) s)))

/-- The second receiver of a walk arrival (R13, R107). -/
def walkArrival (x : Axis) (trig : List Byte) (s : State) : State :=
  let prior := s.walk.progress x
  let phase := s.walk.phase
  feedSkew (some trig) (prepRetest (walkTests x prior phase trig (workWalk (putProgress x s))))

/-- ONSET_EXPIRY (R87). -/
def execOnsetExpiry (s : State) : Host.Outcome State Fault Refusal := done (onsetOut s)

end Sys2Proof.Machine
end

