-- ==== Sys2Proof/Machine/Tester.lean ====
section
/-!
DEFINITION. The brake tester (10.3): starting, segments, test References, slip, interruption and ending.
-/

namespace Sys2Proof.Machine

/-- The creep speed of a test Reference (R183). -/
def creepSpeed (x : Axis) : Int := if isCam x then 50 else -50

/-- The payload of a test Reference: brake HOLD, lever 0, cause TEST (R183, R4). -/
def testPayload (x : Axis) (speed : Int) (torque : Nat) : List Byte :=
  [byte (axisCode x), 0#8, 0#8, 0#8] ++ encInt 2 speed ++ encNat 2 torque ++ [byte Cause.test.code]

/-- A test Reference for an axis, addressed to its DRIVE station, handed to the ring interface (R183, R17). -/
def handTest (x : Axis) (speed : Int) (torque : Nat) (s : State) : State :=
  match s.driveEntry x with
  | some e =>
    handTestRef
      { cls := .testRef, dst := byte (s.act.stations[e]).number, src := s.ownByte, kind := 1#4, life := s.insLife,
        payload := testPayload x speed torque } s
  | none => s

/-- The axis of the next test Reference of a channel: for WALK the walk turn (R183). -/
def State.testAxis (s : State) (c : Chan) : Axis :=
  match c with
  | .hoist => .hoist
  | .drag => .drag
  | .swing => .swing
  | .walk => s.tester.walkTurn

/-- A periodic test Reference for a channel is built; the walk turn passes to the other walk axis (R183). -/
def periodicTest (c : Chan) (s : State) : State :=
  let x := s.testAxis c
  let s := if c = .walk then { s with tester := { s.tester with walkTurn := otherCam x } } else s
  handTest x (creepSpeed x) s.act.test.torque s

/-- The final test Reference of a segment, for WALK the first of two (R185). The walk turn passes to the other walk axis
here, as at every test Reference of R183, and not again at the second final (log 45). -/
def finalTest (c : Chan) (s : State) : State :=
  let x := s.testAxis c
  let s :=
    if c = .walk then { s with tester := { s.tester with walkTurn := otherCam x, secondFinal := some (otherCam x) } }
    else s
  handTest x 0 0 s

/-- The second final Reference of a WALK segment, built when the first has been taken by OUT (R185); it leaves the walk
turn as the first left it (log 45). -/
def secondFinal (s : State) : State :=
  match s.tester.secondFinal with
  | some x => if s.testQueued then s else handTest x 0 0 { s with tester := { s.tester with secondFinal := none } }
  | none => s

/-- Whether every drive station of a channel is FRESH (R183). -/
def State.chanFresh (s : State) (c : Chan) : Bool := (axesOf c).all fun x => s.driveFresh x

/-- A segment begins on the current segment's channel (R183). -/
def beginSegment (s : State) : State :=
  match s.testChan with
  | none => s
  | some c =>
    if s.chanFresh c then
      let s :=
        { s with tester :=
            { s.tester with
              phase := some .ramp, reached := ⟨false, false⟩, start := none, tHold := none,
              tRamp := some (s.now + Config.rampMs), tPeriod := some (s.now + Config.periodMs) } }
      periodicTest c s
    else endTest .failedStale (some c) s

/-- A waiting segment begins when the last final Reference has been taken by OUT (R182, R186). -/
def segmentBegin (s : State) : State :=
  if s.tester.status = .inProgress ∧ s.tester.phase = some .waiting ∧ s.testQueued = false
      ∧ s.tester.secondFinal = none then beginSegment s
  else s

/-- What the tester does when OUT has taken a test Reference (R185, R186). -/
def testPoll (s : State) : State := segmentBegin (secondFinal s)

/-- An accepted test start, in the event of the mode change to TESTING (R182). -/
def acceptTest (s : State) : State :=
  let s := changeMode .testing s
  let t := s.tester
  let s :=
    { s with tester :=
        { t with
          status := .inProgress, number := some t.nextNumber, nextNumber := min 65535 (t.nextNumber + 1),
          count := s.act.test.segments.length, completed := 0, results := [], levers := ⟨0, 0, 0, 0, 0⟩,
          segment := some 0, phase := some .waiting } }
  segmentBegin (oweStatus s)

/-- TEST_START (R182, R43). -/
def testStart (s : State) : State :=
  match s.mode with
  | .parked => acceptTest s
  | .testing => refuse .testRunning s
  | _ => refuse .illegalTransition s

/-- The test ended by an operator's word: the queued test Reference is withdrawn (R187, R189). -/
def abortTest (s : State) : State := endTest .abortedOperator none (withdrawTest s)

/-- TEST_ABORT: no effect while no test runs (R189). -/
def testAbort (s : State) : State := if s.testRuns then abortTest s else s

/-- A DRIVE entry of the current segment's channel becoming STALE ends the test (R23, R189). -/
def testStale (c : Chan) (s : State) : State :=
  if s.testRuns ∧ s.testChan = some c then endTest .failedStale (some c) (withdrawTest s) else s

/-! Ramp, hold and slip. -/

/-- Whether an arrival has reached the test torque in the creep direction (R184). -/
def State.torqueReached (s : State) (x : Axis) : Bool :=
  let cur := (s.feedback.get x).current
  if isCam x then decide ((s.act.test.torque : Int) ≤ cur) else decide (cur ≤ -(s.act.test.torque : Int))

/-- The position the slip of an axis is measured by (R184). -/
def State.slipPosition (s : State) (x : Axis) : Nat :=
  if isCam x then camProgress (s.feedback.get x) else (s.feedback.get x).position

/-- The positions of a channel's axes (R184). -/
def State.slipPositions (s : State) (c : Chan) : Pair Nat :=
  match c with
  | .hoist => ⟨s.slipPosition .hoist, 0⟩
  | .drag => ⟨s.slipPosition .drag, 0⟩
  | .swing => ⟨s.slipPosition .swing, 0⟩
  | .walk => ⟨s.slipPosition .walkLeft, s.slipPosition .walkRight⟩

/-- The phase becomes HOLD: start positions taken, ramp timer stopped, hold timer started (R184). -/
def enterHold (c : Chan) (s : State) : State :=
  { s with tester :=
      { s.tester with start := some (s.slipPositions c), tRamp := none, tHold := some (s.now + s.act.test.hold),
                      phase := some .hold } }

/-- The fourth receiver of a Drive Status arrival (R13, R184). -/
def testArrival (x : Axis) (s : State) : State :=
  let c := chanOf x
  if s.segmentRuns c ∧ s.tester.phase = some .ramp ∧ s.torqueReached x then
    let marks := s.tester.reached.set x true
    let s := { s with tester := { s.tester with reached := marks } }
    if marks.all c then enterHold c s else s
  else s

/-- The slip of a channel from its start positions (R185). -/
def slipOf (c : Chan) (a b : Pair Nat) : Nat :=
  match c with
  | .swing => separation a.first b.first
  | .walk => max (a.first - b.first + (b.first - a.first)) (a.second - b.second + (b.second - a.second))
  | _ => a.first - b.first + (b.first - a.first)

/-- A segment result recorded: the segment is finished (R184, R185, R190). -/
def recordSegment (r : SegResult) (s : State) : State :=
  { s with tester :=
      { s.tester with results := s.tester.results ++ [r], phase := none, reached := ⟨false, false⟩, start := none,
                      tRamp := none, tHold := none, tPeriod := none } }

/-- The ramp timer's expiry in RAMP: FAILED_NO_TORQUE (R184). -/
def rampOut (s : State) : State :=
  match s.testChan with
  | some c =>
    if s.segmentRuns c ∧ s.tester.phase = some .ramp ∧ s.expired s.tester.tRamp then
      let s := recordSegment { chan := c, slip := none, outcome := .noTorque } s
      testPoll (endTest .failedNoTorque (some c) (finalTest c s))
    else s
  | none => s

/-- The LEVEL record of a channel takes a slip (R185, R173). -/
def measure (c : Chan) (slip : Nat) (s : State) : State :=
  let i := marginOf c
  let r' : AttrRun := { (s.attrs.recs[i]) with raw := slip, never := false }
  setNorm i r' (s.workedNorm i r') s

/-- A passed segment: the test ends PASSED, or the next segment waits (R185). -/
def passSegment (s : State) : State :=
  let s := oweStatus { s with tester := { s.tester with completed := s.tester.completed + 1 } }
  match s.tester.segment with
  | some i =>
    if i + 1 < s.tester.count then
      { s with tester := { s.tester with segment := some (i + 1), phase := some .waiting } }
    else endTest .passed none s
  | none => s

/-- The hold timer's expiry on a channel (R185). A trip raised by the wear record's source has ended the test, and
nothing more of the segment follows (log 25). -/
def endHold (c : Chan) (from' : Pair Nat) (s : State) : State :=
  let slip := slipOf c (s.slipPositions c) from'
  let ok := decide (slip ≤ s.act.test.slip.get c)
  let s := measure c slip { s with tester := { s.tester with tPeriod := none, tHold := none } }
  if s.testRuns then
    let s := recordSegment { chan := c, slip := some slip, outcome := if ok then .pass else .fail } s
    let s := finalTest c s
    testPoll (if ok then passSegment s else endTest .failedSlip (some c) s)
  else s

/-- The hold timer's expiry (R185). -/
def holdOut (s : State) : State :=
  match s.testChan, s.tester.start with
  | some c, some p =>
    if s.segmentRuns c ∧ s.tester.phase = some .hold ∧ s.expired s.tester.tHold then endHold c p s else s
  | _, _ => s

/-- The test period timer's expiry in a running segment: a further test Reference, and the timer restarts (R183). -/
def periodOut (s : State) : State :=
  match s.testChan with
  | some c =>
    if s.segmentRuns c ∧ s.expired s.tester.tPeriod then
      periodicTest c { s with tester := { s.tester with tPeriod := some (s.now + Config.periodMs) } }
    else s
  | none => s

/-! Interruption. -/

/-- Whether every lever in the lever memory is 0 (R188). -/
def State.leversZero (s : State) : Bool := allAxes.all fun x => s.tester.levers.get x == 0

/-- The test suspended (R187). -/
def suspendTest (s : State) : State :=
  let s := withdrawTest s
  oweStatus
    { s with tester :=
        { s.tester with status := .suspended, tRamp := none, tHold := none, tPeriod := none, reached := ⟨false, false⟩,
                        start := none, tSuspend := some (s.now + Config.suspendMs), tResume := none } }

/-- A console Reference's lever, while a test runs (R187, R188). -/
def testLever (x : Axis) (lever : Int) (s : State) : State :=
  if s.testRuns then
    let s := { s with tester := { s.tester with levers := s.tester.levers.set x lever } }
    if s.tester.status = .inProgress then
      if lever = 0 then s else if s.act.test.policy = .abort then abortTest s else suspendTest s
    else if s.leversZero then
      { s with tester := { s.tester with tResume := s.tester.tResume.or (some (s.now + Config.resumeMs)) } }
    else { s with tester := { s.tester with tResume := none } }
  else s

/-- The resume timer's expiry: the current segment begins again (R188). -/
def resumeOut (s : State) : State :=
  if s.tester.status = .suspended ∧ s.expired s.tester.tResume then
    beginSegment
      (oweStatus { s with tester := { s.tester with status := .inProgress, tResume := none, tSuspend := none } })
  else s

/-- The suspend limit timer's expiry: ABORTED_OPERATOR (R188). -/
def suspendOut (s : State) : State :=
  if s.tester.status = .suspended ∧ s.expired s.tester.tSuspend then abortTest s else s

/-- SEGMENT_BEGIN (R183, R186). -/
def execSegmentBegin (s : State) : Host.Outcome State Fault Refusal := done (segmentBegin s)

/-- SECOND_FINAL_REFERENCE (R185). -/
def execSecondFinalReference (s : State) : Host.Outcome State Fault Refusal := done (secondFinal s)

/-- RAMP_TIMEOUT (R184). -/
def execRampTimeout (s : State) : Host.Outcome State Fault Refusal := done (rampOut s)

/-- HOLD_EXPIRY (R185). -/
def execHoldExpiry (s : State) : Host.Outcome State Fault Refusal := done (holdOut s)

/-- TEST_PERIOD_EXPIRY (R183). -/
def execTestPeriodExpiry (s : State) : Host.Outcome State Fault Refusal := done (periodOut s)

/-- RESUME_EXPIRY (R188). -/
def execResumeExpiry (s : State) : Host.Outcome State Fault Refusal := done (resumeOut s)

/-- SUSPEND_LIMIT_EXPIRY (R188). -/
def execSuspendLimitExpiry (s : State) : Host.Outcome State Fault Refusal := done (suspendOut s)

end Sys2Proof.Machine
end

