-- ==== Sys2Proof/Machine/Limiter.lean ====
section
/-!
DEFINITION. The reference limiter (chapter 4): the stages of R68, the rope envelope (R82 to R84), the swing zones (R92 to
R96) and the walk limits (R113 to R115).
-/

namespace Sys2Proof.Machine

/-- What the stages leave of a Reference: speed, torque limit, brake field, and the causes that have applied (R70). -/
structure Eval where
  speed : Int
  torque : Nat
  brake : Nat
  block : Option Cause
  lower : Cause
  deriving DecidableEq, Repr

/-- A Reference before the mode stage. -/
def Eval.start (r : Ref) : Eval := { speed := r.speed, torque := r.torque, brake := 0, block := none, lower := .none }

/-- A speed with its magnitude capped, its sign kept (R69). -/
def capSpeed (cap : Nat) (v : Int) : Int := if cap < v.natAbs then v.sign * cap else v

/-- A blocking condition: speed 0; the first one gives the cause (R70). -/
def Eval.blocked (e : Eval) (c : Cause) : Eval := { e with speed := 0, block := e.block.or (some c) }

/-- A lowering stage: the magnitude capped, with the cause when it is lowered (R70). -/
def Eval.capped (e : Eval) (cap : Nat) (c : Cause) : Eval :=
  if cap < e.speed.natAbs then { e with speed := capSpeed cap e.speed, lower := c } else e

/-- A lowering stage that may give no cap. -/
def Eval.cappedBy (e : Eval) (cap : Option Nat) (c : Cause) : Eval :=
  match cap with
  | some n => e.capped n c
  | none => e

/-- The limit cause (R70): the first blocking condition, else the last stage that lowered, else NONE. -/
def Eval.cause (e : Eval) : Cause := e.block.getD e.lower

/-! Envelope. -/

/-- The row of the envelope in force for a drag payout: the last in use with its start at or below it (R82). -/
def State.envelopeRow (s : State) (drag : Nat) : Option EnvRow :=
  ((s.act.rows.toList.take s.act.drag.rows).filter fun r => decide (r.dragStart ≤ drag)).getLast?

/-- The cap of a pair of payout limits with a slow band on a speed, by its sign (R83, R84). -/
def ropeCap (lo hi band slow pos : Nat) (v : Int) : Option Nat :=
  if v < 0 then
    if pos ≤ lo then some 0 else if pos < lo + band then some slow else none
  else if 0 < v then
    if hi ≤ pos then some 0 else if hi < pos + band then some slow else none
  else none

/-- The hoist envelope's cap (R82, R83). -/
def State.hoistCap (s : State) (v : Int) : Option Nat :=
  if s.feedback.drag.updated then
    match s.envelopeRow s.feedback.drag.position with
    | some r => ropeCap r.hoistMin r.hoistMax r.band r.slow s.feedback.hoist.position v
    | none => some 0
  else some 0

/-- The drag envelope's cap (R84). -/
def State.dragCap (s : State) (v : Int) : Option Nat :=
  let g := s.act.drag
  ropeCap g.dragMin g.dragMax g.band g.slow s.feedback.drag.position v

/-! Swing zones. -/

/-- The cap of a zone on motion toward it from outside (R92, R94). -/
def approachCap (z : ZoneCfg) (angle : Nat) (v : Int) : Option Nat :=
  let dist := if 0 < v then angleDiff z.start angle else angleDiff angle z.stop
  if dist ≤ z.band then some z.slow else none

/-- The cap of a NO_ENTRY zone containing the angle (R95). -/
def noEntryCap (z : ZoneCfg) (angle : Nat) (v : Int) : Nat :=
  let dStart := angleDiff angle z.start
  let dEnd := angleDiff z.stop angle
  if dEnd < dStart then (if 0 < v then z.slow else 0)
  else if dStart < dEnd then (if 0 < v then 0 else z.slow)
  else z.slow

/-- The cap one zone gives for an angle and a speed other than 0 (R93 to R96). -/
def zoneCap (z : ZoneCfg) (angle : Nat) (v : Int) : Option Nat :=
  match z.kind with
  | .unused => none
  | .noEntry => if z.inside angle then some (noEntryCap z angle v) else approachCap z angle v
  | .slow => if z.inside angle then some z.slow else approachCap z angle v

/-- The smaller of two caps. -/
def minCap : Option Nat → Option Nat → Option Nat
  | none, b => b
  | a, none => a
  | some a, some b => some (min a b)

/-- The smallest cap the zones give (R93). -/
def State.swingCap (s : State) (v : Int) : Option Nat :=
  s.act.zones.toList.foldl (fun c z => minCap c (zoneCap z s.feedback.swing.position v)) none

/-! Walk limits. -/

/-- The leading cam: the one that does not lag (R107). -/
def State.leading (s : State) (x : Axis) : Bool :=
  match s.walk.lagging with
  | some l => l != x
  | none => false

/-- The trimmed magnitude of a walk speed, when the axis is the leading cam and the skew exceeds the trim limit
(R115); with a trim percent above 100 it is 0, the model's choice (log 50). -/
def State.trimCap (s : State) (x : Axis) (v : Int) : Option Nat :=
  match s.walk.skew with
  | some k =>
    if s.act.walk.trimLimit < k ∧ s.leading x then some (v.natAbs * (100 - s.act.walk.trimPercent) / 100) else none
  | none => none

/-- The walk limits, in order: reverse direction, phase cap, skew trim (R113 to R115). -/
def walkLimits (x : Axis) (s : State) (e : Eval) : Eval :=
  let e := if e.speed < 0 then e.capped 0 .walkDirection else e
  let e := e.cappedBy ((s.sectorOf (s.feedback.get x).position).map fun c => c.cap) .walkPhase
  e.cappedBy (s.trimCap x e.speed) .skewTrim

/-! The stages. -/

/-- The mode stage (R75). -/
def modeStage (x : Axis) (s : State) (e : Eval) : Eval :=
  if !permits s.mode x then e.blocked (blockCause s.mode)
  else if s.held (chanOf x) then e.blocked .parking
  else e.capped (s.act.mode.cap.get x) .mode

/-- The freshness stage (R76). -/
def freshStage (x : Axis) (s : State) (e : Eval) : Eval :=
  if s.driveFresh x && (s.feedback.get x).updated then e else e.blocked .stale

/-- The axis-limit stage (R77); a speed of 0 has nothing to lower (R68). -/
def limitStage (x : Axis) (s : State) (e : Eval) : Eval :=
  if e.speed = 0 then e
  else
    match x with
    | .hoist => e.cappedBy (s.hoistCap e.speed) .envelope
    | .drag => e.cappedBy (s.dragCap e.speed) .envelope
    | .swing => e.cappedBy (s.swingCap e.speed) .zone
    | _ => walkLimits x s e

/-- The brake field a channel state forwards (R65). -/
def forwardedField : ChanState → Nat
  | .set => 0
  | .setting => 0
  | .fault => 0
  | .releasePending => 3
  | _ => 1

/-- Steps 2 and 3 of the brake stage: the brake field, and the speed forced to 0 unless RELEASED (R78, R65, R66). -/
def brakeStage (x : Axis) (s : State) (e : Eval) : Eval :=
  let st := (s.brakes.get (chanOf x)).state
  let e := { e with brake := forwardedField st }
  if st = .released then e else e.capped 0 (if s.held (chanOf x) then .parking else .brake)

/-- The torque stage (R79). -/
def torqueStage (x : Axis) (s : State) (e : Eval) : Eval :=
  if x = .drag ∧ s.tight.reduction ∧ s.act.options.tightTorque < e.torque then
    { e with torque := s.act.options.tightTorque, lower := .tightline }
  else e

/-- Stages 4 to 6 on a Reference (R68). -/
def speedStages (x : Axis) (s : State) (e : Eval) : Eval := limitStage x s (freshStage x s (modeStage x s e))

/-- The payload a Reference leaves with (R4, R69, R80). -/
def evalPayload (r : Ref) (e : Eval) : List Byte :=
  [byte (axisCode r.axis), byte e.brake] ++ Half.bytes r.lever ++ encInt 2 e.speed ++ encNat 2 e.torque
    ++ [byte e.cause.code]

/-- Step 4 of the brake stage: the speed recorded as the axis's last forwarded speed, and the quietness tested (R78,
R56). -/
def recordSpeed (x : Axis) (v : Int) (s : State) : State :=
  let c := chanOf x
  let ch := s.brakes.get c
  quietTest c (s.setChan c { ch with lastSpeed := ch.lastSpeed.set x v })

/-- A Reference removed for its source or destination, and the refused-reference source handed over (R72, R73, R25). -/
def refuseRef (s : State) : State :=
  let s' := bump .removedRefusedRef s
  if s'.counter .removedRefusedRef = s.counter .removedRefusedRef then s'
  else feed 79 (s'.counter .removedRefusedRef).toNat true none s'

/-- The source and destination stages (R72, R73). -/
def State.refAddressed (s : State) (f : Frame) (r : Ref) : Bool :=
  s.hasRole f.src .console
    && match s.driveEntry r.axis with
       | some e => (s.act.stations[e]).number == f.dst.toNat
       | none => false

/-- The standing-request stage, less its removal (R74). -/
def standingStage (r : Ref) (s : State) : State :=
  let s := writeStanding r.axis r.brake s
  let s := leverRestart r.lever.toInt s
  if s.mode = .testing then testLever r.axis r.lever.toInt s else s

/-- Stages 4 to 9: the Reference evaluated, its channel acting at the brake stage, and the frame forwarded (R68, R75 to
R80). -/
def evaluate (f : Frame) (r : Ref) (s : State) : State :=
  let e := speedStages r.axis s (Eval.start r)
  let s := brakeRequest r.axis r.brake r.lever.toInt s
  let e := brakeStage r.axis s e
  let s := recordSpeed r.axis e.speed s
  let e := torqueStage r.axis s e
  forward { f with payload := evalPayload r e } f.payload s

/-- The handling of a Reference while the tables are not valid (R71). -/
def forwardInit (f : Frame) (r : Ref) (s : State) : State :=
  let e : Eval := { speed := 0, torque := r.torque, brake := 0, block := some .init, lower := .none }
  forward { f with payload := evalPayload r e } f.payload s

/-- A Reference dispatched to the limiter (R68 to R80). -/
def limit (f : Frame) (r : Ref) (s : State) : State :=
  if !s.tables.valid then forwardInit f r s
  else if s.refAddressed f r then
    let s := standingStage r s
    if s.segmentRuns (chanOf r.axis) then bump .removedSuperseded s else evaluate f r s
  else refuseRef s

end Sys2Proof.Machine
end

