-- ==== Sys2Proof/Machine/Alarms.lean ====
section
/-!
DEFINITION. What the console's actions and the timers do to the alarm points (R131, R133, R134, R136, R137).
-/

namespace Sys2Proof.Machine

/-- The point a number 1..48 names. -/
def pointNamed (id : Nat) : Option (Fin 48) := (List.finRange 48).find? fun p => p.val + 1 == id

/-- ACK on one point (R133). -/
def ackPoint (p : Fin 48) (s : State) : State :=
  let r := s.alarm.points[p]
  match r.state with
  | .activeUnack => setPoint p .activeAck r.mark none s
  | .returnedUnack => setPoint p (s.restState p) false none s
  | _ => s

/-- ACK with a point id, or 0 for every point in increasing order (R133). -/
def ack (id : Nat) (s : State) : State :=
  if id = 0 then (List.finRange 48).foldl (fun s p => ackPoint p s) s
  else
    match pointNamed id with
    | some p => ackPoint p s
    | none => s

/-- A point shelved until a given time (R136). A point already SHELVED has its shelf timer restarted alone. -/
def shelvePoint (p : Fin 48) (endsAt : Nat) (s : State) : State :=
  let r := s.alarm.points[p]
  if r.state = .shelved then
    { s with alarm := { s.alarm with points := s.alarm.points.set p { r with tShelf := some endsAt } } }
  else setPoint p .shelved false (some endsAt) s

/-- SHELVE (R136). -/
def shelve (id minutes : Nat) (s : State) : State :=
  match pointNamed id with
  | some p =>
    let c := s.act.points[p]
    if !c.enabled then s
    else if c.cls = .trip then refuse .shelveTripClass s
    else shelvePoint p (s.now + minutes * Config.minuteMs) s
  | none => s

/-- A SHELVED point leaves its shelf (R137). -/
def unshelvePoint (p : Fin 48) (s : State) : State :=
  if s.alarm.points[p].state = .shelved then setPoint p (s.restState p) false none s else s

/-- UNSHELVE (R137). -/
def unshelve (id : Nat) (s : State) : State :=
  match pointNamed id with
  | some p => unshelvePoint p s
  | none => s

/-- RESET_LATCHED on one point (R134). -/
def resetPointLatch (p : Fin 48) (s : State) : State :=
  let r := s.alarm.points[p]
  if s.act.points[p].latching ∧ r.mark then
    match r.state with
    | .activeAck => setPoint p (s.restState p) false none s
    | .activeUnack => setPoint p .returnedUnack false none s
    | _ => s
  else s

/-- RESET_LATCHED (R134). -/
def resetLatched (s : State) : State := (List.finRange 48).foldl (fun s p => resetPointLatch p s) s

/-- The on-delay timer's expiry (R131, R138). -/
def onDelayOut (p : Fin 48) (s : State) : State :=
  let r := s.alarm.points[p]
  if r.state = .delaying ∧ s.expired r.tDelay then drain (activatePoint none p s) else s

/-- The shelf timer's expiry (R137). -/
def shelfOut (p : Fin 48) (s : State) : State :=
  if s.expired s.alarm.points[p].tShelf then unshelvePoint p s else s

/-- ON_DELAY_EXPIRY (R131). -/
def execOnDelayExpiry (p : Fin 48) (s : State) : Host.Outcome State Fault Refusal := done (onDelayOut p s)

/-- SHELF_EXPIRY (R137). -/
def execShelfExpiry (p : Fin 48) (s : State) : Host.Outcome State Fault Refusal := done (shelfOut p s)

end Sys2Proof.Machine
end

