-- ==== Sys2Proof/Machine/Analog.lean ====
section
/-!
DEFINITION. The analog inputs and the direct trip path (chapter 8).
-/

namespace Sys2Proof.Machine

/-- The raw value of a conversion: the input as a fraction of the reference, times 4095, rounded down, within 0..4095
(R145; log 33). -/
def rawOf (input reference : Int) : Nat :=
  if input ≤ 0 then 0 else if reference ≤ input then 4095 else (input * 4095 / reference).toNat

/-- The reference of a channel under its table entry (R145). -/
def State.reference (s : State) (ch : Fin 4) : Int :=
  match (s.act.analog[ch]).ref with
  | .internal => Config.internalReference
  | .external => s.pins.extRef

/-- The scaled value of a raw value (R146); div is exact arithmetic toward zero (0.4). -/
def scaledOf (c : AnalogCfg) (raw : Nat) : Int := ((raw : Int) * c.gain).tdiv 4096 + c.offset

/-- Whether a raw value is beyond the direct limit (R151). -/
def beyondLimit (c : AnalogCfg) (raw : Nat) : Bool :=
  match c.dir with
  | .above => decide (c.rawLimit ≤ raw)
  | .below => decide (raw ≤ c.rawLimit)

/-- A channel's record replaced. -/
def State.setAin (s : State) (ch : Fin 4) (r : AinRun) : State := { s with analog := s.analog.set ch r }

/-- Step 1 of R150: the direct limit (R151). -/
def directStep (ch : Fin 4) (raw : Nat) (s : State) : State :=
  let c := s.act.analog[ch]
  let r := s.analog[ch]
  if c.limitOn then
    if beyondLimit c raw then
      let n := min c.persistence (r.beyond + 1)
      if n = c.persistence ∧ r.limitMark = false then
        handTrip { cause := .direct ch, action := c.action, frame := none }
          (s.setAin ch { r with beyond := n, limitMark := true })
      else s.setAin ch { r with beyond := n }
    else s.setAin ch { r with beyond := 0, limitMark := false }
  else s

/-- Step 3 of R150: the boom fatigue cycle (R153). Where a loaded tables region has the fatigue level below the reset level,
a value above the one and below the other changes the state, from LOW as from HIGH, the model's choice (log 50). -/
def fatigueStep (ch : Fin 4) (v : Int) (s : State) : State :=
  let c := s.act.analog[ch]
  let r := s.analog[ch]
  if c.role = .boom then
    if r.high then (if v < c.reset then gain boomFatigue 1 (s.setAin ch { r with high := false }) else s)
    else if c.fatigue < v then s.setAin ch { r with high := true }
    else s
  else s

/-- A conversion of a READY channel (R150): last values, direct limit, source, fatigue cycle. -/
def readyConversion (ch : Fin 4) (raw : Nat) (s : State) : State :=
  let v := scaledOf s.act.analog[ch] raw
  let s := s.setAin ch { (s.analog[ch]) with lastRaw := some raw, lastScaled := some v }
  fatigueStep ch v (feed (16 + ch.val) v true none (directStep ch raw s))

/-- A conversion completion (R145, R149, R150). -/
def convert (ch : Fin 4) (input reference : Int) (s : State) : State :=
  let s := { s with pins := { s.pins with ain := s.pins.ain.set ch input, extRef := reference } }
  let raw := rawOf input (s.reference ch)
  let r := s.analog[ch]
  if r.ready then readyConversion ch raw s
  else if r.settle + 1 < Config.settleConversions then s.setAin ch { r with settle := r.settle + 1 }
  else initTest (readyConversion ch raw (s.setAin ch { r with settle := Config.settleConversions, ready := true }))

/-- Settling begun by ACTIVATE (R149). -/
def beginSettling (ch : Fin 4) (s : State) : State :=
  feed (16 + ch.val) 0 false none (s.setAin ch resetAin)

/-- What an ACTIVATE does to a channel, by what changed between its old and new entries (R147). -/
def installAnalog (ch : Fin 4) (old new : AnalogCfg) (s : State) : State :=
  if old.ref ≠ new.ref ∨ old.gain ≠ new.gain ∨ old.offset ≠ new.offset then beginSettling ch s
  else
    let r := s.analog[ch]
    let r :=
      if old.limitOn ≠ new.limitOn ∨ old.dir ≠ new.dir ∨ old.rawLimit ≠ new.rawLimit
          ∨ old.persistence ≠ new.persistence then { r with beyond := 0, limitMark := false }
      else r
    let r :=
      if old.role ≠ new.role ∨ old.fatigue ≠ new.fatigue ∨ old.reset ≠ new.reset then { r with high := false } else r
    s.setAin ch r

/-- CONVERSION_COMPLETION (R145, R149, R150). -/
def execConversionCompletion (ch : Fin 4) (input reference : Int) (s : State) : Host.Outcome State Fault Refusal :=
  done (convert ch input reference s)

end Sys2Proof.Machine
end

