-- ==== Sys2Proof/Machine/Ring.lean ====
section
/-!
DEFINITION. The ring interface's records: station freshness (R9, R21 to R23), axis feedback (R13), ring sensor values
(R14), ring silence (R24), and what the arrivals hand on.
-/

namespace Sys2Proof.Machine

/-! Freshness. -/

/-- The alarm source of a ring sensor channel (R124). -/
def sensorSource (ch : Fin 16) : Nat := 20 + ch.val

/-- The alarm source of a station entry's freshness (R124). -/
def freshSource (e : Fin 16) : Nat := 38 + e.val

/-- The first of the three alarm sources of an axis (R124). -/
def axisSource (x : Axis) : Nat := 1 + 3 * axisPos x

/-- One sensor value loses its valid mark when the entry that wrote it leaves FRESH (R14, R23). -/
def dropSensor (e : Fin 16) (ch : Fin 16) (s : State) : State :=
  let v := s.sensors[ch]
  if v.valid ∧ v.writer = some e then
    feed (sensorSource ch) v.value false none { s with sensors := s.sensors.set ch { v with valid := false } }
  else s

/-- Every sensor value written by an entry loses its valid mark (R14, R23). -/
def dropSensors (e : Fin 16) (s : State) : State := (List.finRange 16).foldl (fun s ch => dropSensor e ch s) s

/-- The three sources of an axis handed with INVALID (R125). -/
def dropAxis (x : Axis) (s : State) : State :=
  let n := axisSource x
  feed (n + 2) 0 false none (feed (n + 1) 0 false none (feed n 0 false none s))

/-- The skew source handed again at a change of freshness of a walk DRIVE entry (R108). -/
def skewAgain (x : Axis) (s : State) : State := if isCam x then feedSkew none s else s

/-- The axis of an entry whose role is DRIVE. -/
def driveAxis (c : StationCfg) : Option Axis := if c.role = .drive then c.axis else none

/-- A trip for a lost DRIVE entry, in the modes that take one (R23). -/
def lostTrip (e : Fin 16) (s : State) : State :=
  match s.mode with
  | .dig | .walkPrep | .walking | .testing =>
    handTrip { cause := .stationLost e, action := .both, frame := none } s
  | _ => s

/-- A hand-off made for the axis of an entry; of an entry with no axis it is not made (log 55). -/
def onAxis (x : Option Axis) (f : Axis → State → State) (s : State) : State :=
  match x with
  | some x => f x s
  | none => s

/-- What a change of a DRIVE entry's freshness is handed to, beyond the hand-offs of every change (R23, R33, R108, R125).
The test of R33 and the trip of a lost entry name no axis, and are made for an entry without one too (log 55). -/
def driveChange (e : Fin 16) (x : Option Axis) (new : Fresh) (s : State) : State :=
  match new with
  | .fresh => initTest (onAxis x skewAgain s)
  | .stale => onAxis x (fun x s => testStale (chanOf x) (staleSet (chanOf x) (skewAgain x (dropAxis x s)))) s
  | .lost => lostTrip e (onAxis x (fun x s => skewAgain x (dropAxis x s)) s)

/-- A change of an entry's freshness handed on (R23); in WALK_PREP a DRIVE or SENSOR entry's change re-tests the
conditions (R117). The order among the hand-offs is log 20's, and a DRIVE entry with no axis log 55's. -/
def freshnessChange (e : Fin 16) (old new : Fresh) (s : State) : State :=
  let c := s.act.stations[e]
  let s := feed (freshSource e) new.code true none s
  let s := if old = .fresh then dropSensors e s else s
  let s := if c.role = .drive then driveChange e c.axis new s else s
  if c.role = .drive ∨ c.role = .sensor then prepRetest s else s

/-- An entry's running state replaced. -/
def State.setStation (s : State) (e : Fin 16) (r : Option StationRun) : State :=
  { s with stations := s.stations.set e r }

/-- The expiry of an entry's freshness timer (R22). -/
def freshnessOut (e : Fin 16) (s : State) : State :=
  match s.stations[e] with
  | none => s
  | some r =>
    if s.expired r.timer then
      let again := some (s.now + (s.act.stations[e]).timeout)
      match r.expiries with
      | 0 => freshnessChange e r.fresh .stale
          (s.setStation e (some { r with expiries := 1, fresh := .stale, timer := again }))
      | 1 => s.setStation e (some { r with expiries := 2, timer := again })
      | _ => freshnessChange e r.fresh .lost
          (s.setStation e (some { r with expiries := 3, fresh := .lost, timer := none, lastSeq := none }))
    else s

/-- Whether a frame repeats the last sequence of its source's entry (R9). -/
def isDuplicate (r : StationRun) (seq : Byte) : Bool := r.lastSeq == some seq

/-- Whether an arrival adds a gap (R9). -/
def isGap (r : StationRun) (seq : Byte) : Bool :=
  match r.lastSeq with
  | some q => seq != q + 1#8
  | none => false

/-- An entry's running state after an arrival (R9, R22). -/
def arrivalRun (r : StationRun) (seq : Byte) (now timeout : Nat) : StationRun :=
  { fresh := .fresh
    expiries := 0
    timer := some (now + timeout)
    lastSeq := some seq
    gaps := if isGap r seq then min 65535 (r.gaps + 1) else r.gaps
    lastArrival := some now }

/-- An arrival for an entry (R9, R22, R23). -/
def arrival (e : Fin 16) (r : StationRun) (seq : Byte) (s : State) : State :=
  let s := if isGap r seq then bump .seqGaps s else s
  let s := s.setStation e (some (arrivalRun r seq s.now (s.act.stations[e]).timeout))
  if r.fresh = .fresh then s else freshnessChange e r.fresh .fresh s

/-! Ring silence. -/

/-- The expiry of the ring silence timer (R24). -/
def silenceOut (s : State) : State :=
  if s.expired s.ring.silence then feed 78 1 true none { s with ring := { s.ring with silence := none } } else s

/-- The ring silence timer restarted by a frame taken at IN; the first frame after an expiry hands the source with 0
(R24). -/
def silenceRestart (s : State) : State :=
  let s' := { s with ring := { s.ring with silence := some (s.now + Config.silenceMs) } }
  if s.ring.silence.isNone then feed 78 0 true none s' else s'

/-! Drive Status. -/

/-- The feedback record after an update (R13). -/
def feedbackOf (f : Feedback) (d : DriveStat) : Feedback :=
  { brake := d.brake, ready := d.ready, speed := d.speed, position := d.position,
    previous := if f.updated then some f.position else none, turns := d.turns, current := d.current, updated := true }

/-- The feedback record of an axis updated (R13). -/
def putFeedback (d : DriveStat) (s : State) : State :=
  { s with feedback := s.feedback.set d.axis (feedbackOf (s.feedback.get d.axis) d) }

/-- The second receiver of an arrival: the walk sequencer (R13). -/
def walkReceiver (x : Axis) (trig : List Byte) (s : State) : State :=
  if isCam x then walkArrival x trig s else prepRetest s

/-- The third receiver of an arrival: the tightline check, for HOIST and DRAG (R13). -/
def tightReceiver (x : Axis) (s : State) : State := if x = .hoist ∨ x = .drag then tightArrival s else s

/-- The sixth receiver of an arrival: the three sources of the axis, in order (R13, R125). -/
def axisSources (x : Axis) (trig : List Byte) (s : State) : State :=
  let f := s.feedback.get x
  let n := axisSource x
  let s := feed n f.speed true (some trig) s
  let s := feed (n + 1) f.position true (some trig) s
  feed (n + 2) f.current true (some trig) s

/-- A Drive Status from the axis's DRIVE station: the record updated and the arrival handed on in order (R13). -/
def driveArrival (d : DriveStat) (trig : List Byte) (s : State) : State :=
  let x := d.axis
  axisSources x trig
    (ropeArrival x
      (testArrival x (tightReceiver x (walkReceiver x trig (channelArrival x trig (putFeedback d s))))))

/-- Whether a station is the DRIVE station of an axis (R13). -/
def State.isDriveOf (s : State) (station : Byte) (x : Axis) : Bool :=
  match s.driveEntry x with
  | some e => (s.act.stations[e]).number == station.toNat
  | none => false

/-- A Drive Status dispatched (R13); then it is forwarded. -/
def takeStatus (f : Frame) (d : DriveStat) (s : State) : State :=
  forward f f.payload (if s.isDriveOf f.src d.axis then driveArrival d (bodyBytes f) s else s)

/-! Sensor Report. -/

/-- One pair applied (R14). -/
def putSensor (e : Fin 16) (p : Fin 16 × Int) (s : State) : State :=
  { s with sensors := s.sensors.set p.1 { value := p.2, writer := some e, valid := true } }

/-- The source of a channel written handed over (R14). -/
def feedSensor (ch : Fin 16) (s : State) : State :=
  feed (sensorSource ch) (s.sensors[ch]).value (s.sensors[ch]).valid none s

/-- The channels of a report, each once, in the order they first appear (log 26). -/
def channelsOf (ps : List (Fin 16 × Int)) : List (Fin 16) := (ps.map Prod.fst).reverse.dedup.reverse

/-- A Sensor Report from a SENSOR station: the pairs applied in list order, the sources handed over, and in WALK_PREP
the conditions re-tested (R14, R117). -/
def reportArrival (e : Fin 16) (ps : List (Fin 16 × Int)) (s : State) : State :=
  let s := ps.foldl (fun s p => putSensor e p s) s
  prepRetest ((channelsOf ps).foldl (fun s ch => feedSensor ch s) s)

/-- A Sensor Report dispatched (R14); then it is forwarded. -/
def takeReport (f : Frame) (ps : List (Fin 16 × Int)) (s : State) : State :=
  let s :=
    match s.entryOf f.src with
    | some e => if (s.act.stations[e]).role = .sensor then reportArrival e ps s else s
    | none => s
  forward f f.payload s

/-- FRESHNESS_TIMER_EXPIRY (R22). -/
def execFreshnessTimerExpiry (e : Fin 16) (s : State) : Host.Outcome State Fault Refusal := done (freshnessOut e s)

/-- RING_SILENCE_EXPIRY (R24). -/
def execRingSilenceExpiry (s : State) : Host.Outcome State Fault Refusal := done (silenceOut s)

end Sys2Proof.Machine
end

