-- ==== Sys2Proof/Machine/Store.lean ====
section
/-!
DEFINITION. The store controller (R178, R198 to R200): the attribute save image, COMMIT and SAVE_ATTRIBUTES, the
autosave, and the completions of the writes.
-/

namespace Sys2Proof.Machine

/-- A wear or level record in the save image: raw value, worst value, and the never-measured flag of a LEVEL record
(R178; log 27). -/
def attrBytes (i : Fin 13) (r : AttrRun) : List Byte :=
  encNat 6 r.raw ++ [byte r.worst] ++ (if (levelChan i).isSome then [flagByte r.never] else [])

/-- The attribute save image (R178; log 27). -/
def State.saveImage (s : State) : List Byte :=
  (List.finRange 13).flatMap (fun i => attrBytes i s.attrs.recs[i]) ++ encNat 4 s.attrs.minutes

/-- The records read from a save image, from a given id on; none when the bytes are no image (log 7). The
values are taken as they stand, in range or not (R179; log 49). -/
def readAttrs : List (Fin 13) → Vector AttrRun 13 → List Byte → Option (Vector AttrRun 13 × List Byte)
  | [], v, bs => some (v, bs)
  | i :: is, v, bs =>
    let n := if (levelChan i).isSome then 8 else 7
    if n ≤ bs.length then
      let r : AttrRun :=
        { raw := decNat (bs.take 6), norm := 100, worst := decNat ((bs.drop 6).take 1),
          never := (levelChan i).isNone || flagValue ((bs.drop 7).take 1) }
      readAttrs is (v.set i r) (bs.drop n)
    else none

/-- The records and the service minutes of a save image (R178); none when the bytes are no image. -/
def imageOf (bs : List Byte) : Option (Vector AttrRun 13 × Nat) :=
  match readAttrs (List.finRange 13) (Vector.replicate 13 lostAttr) bs with
  | some (v, rest) => if rest.length = 4 then some (v, decNat rest) else none
  | none => none

/-- Whether a store operation is in flight (R198). -/
def State.storeBusy (s : State) : Bool := s.store.state != .idle

/-- A COMMIT begins writing the active tables (R199). -/
def beginCommit (rq : Requester) (s : State) : State :=
  oweStatus
    { s with store :=
        { s.store with state := .committing, image := regionBytes (tablesBytes s.act), answer := some rq } }

/-- An attribute save begins, for a request or as an autosave (R200). -/
def beginSave (rq : Option Requester) (s : State) : State :=
  oweStatus
    { s with store := { s.store with state := .saving, image := regionBytes s.saveImage, answer := rq } }

/-- An autosave falls due (R200): it begins, or is held while a store operation is in flight. -/
def autosave (s : State) : State :=
  if s.storeBusy then { s with store := { s.store with held := true } }
  else beginSave none { s with store := { s.store with held := false } }

/-- A held autosave begins at a completion (R199, R200). -/
def heldSave (s : State) : State := if s.store.held then autosave s else s

/-- The store idle again after a write, with its result (R199, R200). -/
def storeEnd (ok : Bool) (s : State) : State :=
  oweStatus
    { s with store :=
        { s.store with state := .idle, last := if ok then .ok else .storeFailed, image := [], answer := none } }

/-- The answer at a completion, when a request waits for one (R199, R200). -/
def storeAnswer (rq : Option Requester) (ok : Bool) (s : State) : State :=
  match rq with
  | some rq => answer rq (if ok then .ok else .storeFailed) [] false s
  | none => s

/-- The completion of a COMMIT, with the region as it is read back (R199). -/
def commitDone (readBack : List Byte) (s : State) : State :=
  if s.store.state = .committing then
    let ok := readBack == s.store.image
    let rq := s.store.answer
    let s := { s with store := { s.store with tablesRegion := .bytes readBack },
                      tables := { s.tables with committed := ok } }
    heldSave (storeAnswer rq ok (storeEnd ok s))
  else s

/-- The completion of an attribute save, with the region as it is read back (R200). -/
def saveDone (readBack : List Byte) (s : State) : State :=
  if s.store.state = .saving then
    let ok := readBack == s.store.image
    let rq := s.store.answer
    let s := { s with store := { s.store with attrsRegion := .bytes readBack,
                                              attrsLost := s.store.attrsLost && !ok } }
    heldSave (storeAnswer rq ok (storeEnd ok s))
  else s

/-- The minute timer's expiry (R178): the count rises, and an autosave falls due at each multiple of 60. -/
def minuteOut (s : State) : State :=
  if s.expired s.attrs.tMinute then
    let n := min 4294967295 (s.attrs.minutes + 1)
    let due := n ≠ s.attrs.minutes ∧ n % 60 = 0
    let s := { s with attrs := { s.attrs with minutes := n, tMinute := some (s.now + Config.minuteMs) } }
    if due then autosave s else s
  else s

/-- AUTOSAVE (R200). -/
def execAutosave (s : State) : Host.Outcome State Fault Refusal := done (autosave s)

/-- COMMIT_COMPLETION (R199). -/
def execCommitCompletion (readBack : List Byte) (s : State) : Host.Outcome State Fault Refusal :=
  done (commitDone readBack s)

/-- SAVE_COMPLETION (R200). -/
def execSaveCompletion (readBack : List Byte) (s : State) : Host.Outcome State Fault Refusal :=
  done (saveDone readBack s)

/-- MINUTE_TIMER_EXPIRY (R178). -/
def execMinuteTimerExpiry (s : State) : Host.Outcome State Fault Refusal := done (minuteOut s)

/-- STATUS_NOTICE (R18, R204). -/
def execStatusNotice (s : State) : Host.Outcome State Fault Refusal :=
  done (if s.noticeRoom && s.statusBuildable then buildStatus s else s)

/-- ALARM_NOTICE (R18, R142): the Status Notice goes first. -/
def execAlarmNotice (s : State) : Host.Outcome State Fault Refusal :=
  done
    (if s.noticeRoom && !s.statusBuildable then
      match s.alarmBuildable with
      | some p => buildAlarm p s
      | none => s
     else s)

end Sys2Proof.Machine
end

