-- ==== Sys2Proof/Machine/Reset.lean ====
section
/-!
DEFINITION. The steps of start-up (R201): what a reset leaves, the loading of the store, the end of start-up, and what a
restart keeps (R202).
-/

namespace Sys2Proof.Machine

/-- The running state of a station entry in use after a reset, or one created or renumbered by ACTIVATE (R21). -/
def startedStation (now timeout : Nat) : StationRun :=
  { fresh := .stale, expiries := 1, timer := some (now + timeout), lastSeq := none, gaps := 0, lastArrival := none }

/-- The running state of the entries of the active station table after a reset (R21). -/
def startStations (s : State) : State :=
  { s with stations := s.act.stations.map fun c =>
      if c.number = 0 then none else some (startedStation s.now c.timeout) }

/-- Step 3 of R201: the tables region loaded. -/
def loadTables (s : State) : State :=
  startStations
    (match (regionContents s.store.tablesRegion).bind tablesOf with
     | some t => { s with tables := { active := t, staging := t, valid := true, committed := true } }
     | none =>
       { s with tables := { active := emptyTables, staging := emptyTables, valid := false, committed := false } })

/-- A record as loaded: normalised value worked out afresh, worst value lowered to it (R179). -/
def freshAttr (s : State) (i : Fin 13) (r : AttrRun) : AttrRun :=
  let norm := s.workedNorm i { r with norm := 100 }
  { r with norm := norm, worst := min r.worst norm }

/-- A record kept by RESTART: worked out under R173 with the reloaded tables (R179). -/
def keptAttr (s : State) (i : Fin 13) (r : AttrRun) : AttrRun :=
  let norm := s.workedNorm i r
  { r with norm := norm, worst := min r.worst norm }

/-- The wear and level records replaced, one by one. -/
def mapAttrs (f : Fin 13 → AttrRun → AttrRun) (v : Vector AttrRun 13) : Vector AttrRun 13 :=
  Vector.ofFn fun i => f i v[i]

/-- Step 4 of R201: the attributes region loaded (R179). -/
def loadAttrs (s : State) : State :=
  match (regionContents s.store.attrsRegion).bind imageOf with
  | some (v, minutes) =>
    { s with attrs := { s.attrs with recs := mapAttrs (freshAttr s) v, minutes := minutes },
             store := { s.store with attrsLost := false } }
  | none =>
    { s with attrs := { s.attrs with recs := Vector.replicate 13 lostAttr, minutes := 0 },
             store := { s.store with attrsLost := true } }

/-- The points' initial states, with the active list empty (R143). -/
def startPoints (s : State) : State :=
  { s with alarm :=
      { s.alarm with
        points := s.act.points.map fun c =>
          { resetPoint with state := if c.enabled && armedIn c .init then .normal else .disarmed }
        list := [] } }

/-- The freshness source of an entry handed as it stands (R123). -/
def feedStation (e : Fin 16) (s : State) : State :=
  match s.stations[e] with
  | some r => feed (freshSource e) r.fresh.code true none s
  | none => feed (freshSource e) 0 false none s

/-- The source of a wear or level record handed as it stands (R123). -/
def feedAttr (i : Fin 13) (s : State) : State := feed (56 + i.val) (s.attrs.recs[i]).norm true none s

/-- A flag as a source value (R67). -/
def flagInt (b : Bool) : Int := if b then 1 else 0

/-- The first updates of R123, in increasing code order. -/
def firstUpdates (s : State) : State :=
  let s := (List.finRange 16).foldl (fun s e => feedStation e s) s
  let s := feed 54 s.trip.queue.length true none s
  let s := feed 55 s.trip.notStored true none s
  let s := (List.finRange 13).foldl (fun s i => feedAttr i s) s
  let s := allChans.foldl (fun s c => feed (proveSource c) (flagInt (s.brakes.get c).proveFailed) true none s) s
  let s := allChans.foldl (fun s c => feed (timeoutSource c) (flagInt (s.brakes.get c).releaseTimeout) true none s) s
  let s := feed 77 (flagInt s.walk.camReversal) true none s
  feed 79 (s.counter .removedRefusedRef).toNat true none s

/-- Step 5 of R201: the end of start-up. -/
def endStartUp (s : State) : State :=
  let s := firstUpdates (startPoints s)
  let s := { s with attrs := { s.attrs with tMinute := some (s.now + Config.minuteMs) } }
  oweStatus (initTest (updateReason s))

/-- The store as a reset leaves it: a write in flight ends unfinished (R200). -/
def Store.afterReset (st : Store) : Store :=
  { st with
    state := .idle, held := false, image := [], answer := none, restartPending := false,
    tablesRegion := if st.state = .committing then .unfinished else st.tablesRegion,
    attrsRegion := if st.state = .saving then .unfinished else st.attrsRegion }

/-- Steps 1 and 2 of R201 after a power-on reset: all volatile state at its values, the straps read. What is outside
the volatile state stands: the levels at the pins, the store's regions, the commands that wait and the free-value
index (log 22). No table is in force, so no station entry is in use, and the INIT reason is that of R32 without valid
tables (R193; log 32). Until step 4 the wear and level records and the service minutes are those of a failed image, and the
attributes-lost flag is the one held before, the model's choice (log 32). -/
def volatileReset (straps : BitVec 6) (s : State) : State :=
  let u : State :=
    { State.blank with
      freeIdx := s.freeIdx
      pins := { s.pins with straps := straps }
      ring := resetRing straps
      store := { s.store.afterReset with last := .none }
      pending := s.pending }
  { u with ctl := { u.ctl with reason := u.workedReason } }

/-- The brake tester after RESTART (R181, R190). -/
def Tester.afterRestart (t : Tester) : Tester :=
  { resetTester with
    status := match (nth1 t.log t.pointer).join with
              | some d => d.status
              | none => .neverRun
    nextNumber := t.nextNumber
    completed := t.completed
    count := t.count
    log := t.log
    pointer := t.pointer }

/-- What a RESTART keeps (R202, R156, R170, R179, R181, R190). -/
def keepOver (old s : State) : State :=
  { s with
    trip := { s.trip with queue := old.trip.queue, next := old.trip.next, notStored := old.trip.notStored }
    tester := old.tester.afterRestart
    attrs := { s.attrs with recs := old.attrs.recs, minutes := old.attrs.minutes }
    store := { s.store with last := old.store.last, attrsLost := old.store.attrsLost } }

/-- The records kept, worked out under the reloaded tables (R179). -/
def keepAttrs (s : State) : State :=
  { s with attrs := { s.attrs with recs := mapAttrs (keptAttr s) s.attrs.recs } }

end Sys2Proof.Machine
end

