-- ==== Sys2Proof/Machine/Management.lean ====
section
/-!
DEFINITION. The Management Requests (R191): their forms, what each does, and the results it answers with.
-/

namespace Sys2Proof.Machine

/-- A well-formed Management Request (R191). -/
inductive Request
  | identify
  | readStatus (part : Nat)
  | readTable (staging : Bool) (table entry : Nat)
  | writeTable (table entry : Nat) (rest : List Byte)
  | copyActiveToStaging
  | activate
  | commit
  | saveAttributes
  | readAttributes (part : Nat)
  | renewAttribute (id : Nat)
  | readActiveList (position : Nat)
  | readTrip (position part : Nat)
  | consumeTrips (count : Nat)
  | readTestLog (age : Nat)
  | startBrakeTest
  | abortBrakeTest
  | readStation (entry : Nat)
  | readCounters (part : Nat) (clear : Bool)
  | restart
  deriving DecidableEq, Repr

/-- The request in a code and argument bytes; none is BAD_REQUEST (R191). Codes follow the order of the table of
R191. An argument outside its range is BAD_REQUEST here, unless its rule names another status;
a READ_TABLE of no copy is so whatever its table and entry (log 29). -/
def parseRequest (code : Byte) (args : List Byte) : Option Request :=
  match code.toNat, args with
  | 0, [] => some .identify
  | 1, [p] => if within 1 2 p.toNat then some (.readStatus p.toNat) else none
  | 2, [c, t, e] => if nameOk 2 c then some (.readTable (c == 1#8) t.toNat e.toNat) else none
  | 3, t :: e :: rest => some (.writeTable t.toNat e.toNat rest)
  | 4, [] => some .copyActiveToStaging
  | 5, [] => some .activate
  | 6, [] => some .commit
  | 7, [] => some .saveAttributes
  | 8, [p] => if within 1 5 p.toNat then some (.readAttributes p.toNat) else none
  | 9, [i] => some (.renewAttribute i.toNat)
  | 10, [k] => if k.toNat = 0 then none else some (.readActiveList k.toNat)
  | 11, [k, p] => if within 1 3 p.toNat then some (.readTrip k.toNat p.toNat) else none
  | 12, [n] => some (.consumeTrips n.toNat)
  | 13, [a] => if a.toNat = 0 then none else some (.readTestLog a.toNat)
  | 14, [] => some .startBrakeTest
  | 15, [] => some .abortBrakeTest
  | 16, [e] => if within 1 16 e.toNat then some (.readStation e.toNat) else none
  | 17, [p, c] =>
    if within 1 2 p.toNat && nameOk 2 c && (p.toNat == 1 || c == 0#8) then
      some (.readCounters p.toNat (c == 1#8))
    else none
  | 18, [] => some .restart
  | _, _ => none

/-! Results. -/

/-- The results of IDENTIFY (R203): the characters OPM4 first, in ASCII (log 58). -/
def State.identity (s : State) : List Byte :=
  [0x4F#8, 0x50#8, 0x4D#8, 0x34#8, s.ownByte, flagByte s.tables.valid, flagByte s.tables.committed,
    byte s.store.state.code] ++ crcBytes (tablesBytes s.act) ++ encNat 4 s.attrs.minutes

/-- An analog channel in READ_STATUS part 2 (R192, R148). -/
def ainBytes (r : AinRun) : List Byte :=
  [byte (if r.ready then 1 else 0)] ++ optBytes (r.lastRaw.map (encNat 2)) ++ optBytes (r.lastScaled.map (encInt 3))
    ++ [byte r.beyond]

/-- The results of READ_STATUS (R192). -/
def State.statusPart (s : State) (part : Nat) : List Byte :=
  if part = 1 then
    s.statusFields ++ encNat 4 s.walk.distance ++ [byte s.store.last.code, flagByte s.tables.committed]
  else s.analog.toList.flatMap ainBytes

/-- A wear or level record in READ_ATTRIBUTES (R192, R176); crossed is sent as a mark (log 60). -/
def State.attrFields (s : State) (i : Fin 13) : List Byte :=
  let r := s.attrs.recs[i]
  let c := s.act.attrs[i]
  encNat 6 r.raw ++ [byte r.norm, byte r.worst, byte c.threshold, byte c.cls.code, flagByte (s.crossed i)]
    ++ (if (levelChan i).isSome then [flagByte r.never] else [])

/-- The results of READ_ATTRIBUTES part p: ids 3p − 2 to 3p (R192). -/
def State.attrsPart (s : State) (part : Nat) : List Byte :=
  encNat 4 s.attrs.minutes
    ++ ((List.finRange 13).filter fun i => i.val / 3 + 1 == part).flatMap fun i => s.attrFields i

/-- An entry of READ_ACTIVE_LIST (R192). -/
def State.listEntry (s : State) (p : Fin 48) : List Byte :=
  let r := s.alarm.points[p]
  [byte (p.val + 1), byte r.state.code, flagByte r.mark, byte (s.act.points[p]).cls.code]
    ++ encNat 4 (low32 (r.since.getD 0))

/-- The results of READ_ACTIVE_LIST from a first position (R192). -/
def State.listPart (s : State) (k : Nat) : List Byte :=
  byte s.alarm.list.length :: listBytes (((s.alarm.list.drop (k - 1)).take 5).map fun p => s.listEntry p)

/-- A snapshot in READ_TRIP part 2 (R162, R164). -/
def snapshotBytes (x : Snapshot) : List Byte :=
  encInt 2 x.speed ++ encNat 2 x.position ++ encInt 2 x.current ++ [byte x.chan.code, flagByte x.stale]

/-- A trip record's part (R164); first-out and tub raised are sent as marks (log 60). -/
def tripPart (r : TripRecord) (part : Nat) : List Byte :=
  match part with
  | 1 =>
    encNat 4 r.number ++ encNat 4 r.time ++ encNat 4 r.minutes
      ++ [byte r.cause.kind, byte r.cause.index, byte r.action.code, flagByte r.firstOut, byte r.mode.code]
      ++ optBytes (r.phase.map fun p => [byte (phaseCode p)]) ++ optBytes (r.tubRaised.map fun b => [flagByte b])
      ++ listBytes (r.coActive.map fun p => [byte (p.val + 1)])
  | 2 => allAxes.flatMap fun x => snapshotBytes (r.snapshots.get x)
  | _ => optBytes r.frame

/-- A segment result in READ_TEST_LOG (R190). -/
def segBytes (r : SegResult) : List Byte :=
  [byte (chanPos r.chan)] ++ optBytes (r.slip.map (encNat 4)) ++ [byte r.outcome.code]

/-- The results of READ_TEST_LOG (R190). -/
def descriptorBytes (d : Descriptor) : List Byte :=
  encNat 2 d.number ++ [byte d.status.code] ++ encNat 4 d.minutes
    ++ optBytes (d.failing.map fun c => [byte (chanPos c)]) ++ listBytes (d.results.map segBytes)

/-- The descriptor of an age, 1 the newest (R190). -/
def Tester.aged (t : Tester) (age : Nat) : Option Descriptor :=
  if 1 ≤ age ∧ age ≤ 12 then (nth1 t.log ((t.pointer + 12 - age) % 12 + 1)).join else none

/-- The running state of an entry in READ_STATION; a timer as the milliseconds to its expiry (R192, R21; log 16). -/
def runBytes (now : Nat) (r : StationRun) : List Byte :=
  [byte r.fresh.code, byte r.expiries] ++ optBytes (r.timer.map fun t => encNat 2 (t - now))
    ++ optBytes (r.lastSeq.map fun q => [q]) ++ encNat 2 r.gaps
    ++ optBytes (r.lastArrival.map fun t => encNat 4 (low32 t))

/-- The results of READ_STATION (R192, R21). -/
def State.stationPart (s : State) (entry : Nat) : List Byte :=
  entryBytes ((entryFields s.act 1 entry).getD [])
    ++ match (nth1 s.stations entry).join with
       | some r => runBytes s.now r
       | none => []

/-- The results of READ_COUNTERS, from the snapshot (R192): the first ten counters, or the other six. -/
def State.countersPart (s : State) (part : Nat) : List Byte :=
  let l := s.ring.snapshot.toList
  (if part = 1 then l.take 10 else l.drop 10).flatMap fun w => encNat 4 w.toNat

/-! Actions. -/

/-- One marked field under a write mode (R195): none when the mode does not fit the field. -/
def applyField (mode : Nat) (f : FieldForm) (old new : List Byte) : Option (List Byte) :=
  match mode, f with
  | 0, _ => some new
  | 1, .flag => some [1#8]
  | 2, .flag => some [0#8]
  | 3, .flag => some [head old ^^^ 1#8]
  | 1, .modes => some [head old ||| head new]
  | 2, .modes => some [head old &&& ~~~ head new]
  | 3, .modes => some [head old ^^^ head new]
  | _, _ => none

/-- The bytes a marked field carries: the value of a flag under SET, CLEAR or TOGGLE is ignored (R195). -/
def splitValue (mode : Nat) (f : FieldForm) (bs : List Byte) : Option (List Byte × List Byte) :=
  match mode, f, bs with
  | 0, f, bs => f.split bs
  | _, .flag, b :: rest => some ([b], rest)
  | _, f, bs => f.split bs

/-- The fields of an entry with the marked ones changed (R195; log 31): none when the values do not match. -/
def applyFields (mode : Nat) : List FieldBytes → List Byte → List Byte → Option (List (List Byte))
  | [], [], [] => some []
  | (f, old) :: fs, m :: ms, vs =>
    if m = 0#8 then (applyFields mode fs ms vs).map fun r => old :: r
    else if m = 1#8 then
      match splitValue mode f vs with
      | some (v, vs') =>
        match applyField mode f old v with
        | some x => (applyFields mode fs ms vs').map fun r => x :: r
        | none => none
      | none => none
    else none
  | _, _, _ => none

/-- WRITE_TABLE on an entry whose fields are given: mask, write mode and values in the argument bytes (R195); none is
BAD_REQUEST. -/
def writeFields (fields : List FieldBytes) (rest : List Byte) : Option (List (List Byte)) :=
  let n := fields.length
  match rest.drop n with
  | mode :: values => if nameOk 4 mode then applyFields mode.toNat fields (rest.take n) values else none
  | [] => none

/-- WRITE_TABLE (R195): the status, and the state with the staging entry changed. -/
def writeTable (table entry : Nat) (rest : List Byte) (s : State) : Status × State :=
  match entryFields s.tables.staging table entry with
  | none => (.badIndex, s)
  | some fields =>
    match (writeFields fields rest).bind (setEntry s.tables.staging table entry) with
    | some t => (.ok, { s with tables := { s.tables with staging := t } })
    | none => (.badRequest, s)

/-- RENEW_ATTRIBUTE of a record (R177). -/
def renew (i : Fin 13) (s : State) : State :=
  let old := (s.attrs.recs[i]).norm
  let s := { s with attrs := { s.attrs with recs := s.attrs.recs.set i lostAttr } }
  if old = 100 then s else feed (56 + i.val) 100 true none s

/-- CONSUME_TRIPS (R165, R166): the sources that changed are handed over, the queue length first, and then
in INIT the reason and the start conditions are worked out again (log 40). -/
def consume (n : Nat) (s : State) : State :=
  let q := s.trip.queue.drop n
  let lost := if q.isEmpty then 0 else s.trip.notStored
  let moved := q.length ≠ s.trip.queue.length
  let cleared := lost ≠ s.trip.notStored
  let s := { s with trip := { s.trip with queue := q, notStored := lost },
                    statusOwed := s.statusOwed || decide (moved ∨ cleared) }
  let length : List Update := if moved then [{ code := 54, value := q.length, valid := true, trig := none }] else []
  let count : List Update := if cleared then [{ code := 55, value := lost, valid := true, trig := none }] else []
  let s := feedAll (length ++ count) s
  if moved then initTest s else s

/-- READ_COUNTERS part 1: the snapshot taken and, with the clear flag, every counter set to 0 and the refused-reference
source handed with 0 (R192, R25). -/
def countersRead (part : Nat) (clear : Bool) (s : State) : State :=
  if part = 1 then
    let s :=
      { s with ring :=
          { s.ring with snapshot := s.ring.counters,
                        counters := if clear then Vector.replicate 16 0#32 else s.ring.counters } }
    if clear then feed 79 0 true none s else s
  else s

/-! ACTIVATE (R197). -/

/-- Whether an entry's station number changed. -/
def renumbered (old new : TableSet) (e : Fin 16) : Bool := (old.stations[e]).number != (new.stations[e]).number

/-- The axis an entry in use drives (R21). -/
def StationCfg.drives (c : StationCfg) : Option Axis := if c.number = 0 then none else driveAxis c

/-- The hand-offs of an entry that leaves FRESH in the ACTIVATE event, for the axis it drove and for the axis it drives
under the new table (R21, R23, R108, R125; log 41). -/
def leaveFresh (old : TableSet) (s : State) (e : Fin 16) : State :=
  let axes := ((old.stations[e]).drives.toList ++ (s.act.stations[e]).drives.toList).dedup
  axes.foldl (fun s x => skewAgain x (dropAxis x s)) (dropSensors e s)

/-- Step 2 for one entry: its running state kept, started or lost (R21). -/
def installStation (old : TableSet) (s : State) (e : Fin 16) : State :=
  let c := s.act.stations[e]
  if renumbered old s.act e then
    s.setStation e (if c.number = 0 then none else some (startedStation s.now c.timeout))
  else s

/-- Step 2 (R21): every entry takes its running state, and then what those that left FRESH hand on is handed (log 41).
A DRIVE role that moves between entries whose numbers stand hands nothing (R98, R108, R144; log 46). -/
def installStations (old : TableSet) (s : State) : State :=
  let left := (List.finRange 16).filter fun e => renumbered old s.act e && s.entryFresh e
  left.foldl (leaveFresh old) ((List.finRange 16).foldl (installStation old) s)

/-- Step 3 for one point: its state and change under the new table (R144). -/
def installPoint (s : State) (p : Fin 48) : PointRun :=
  let c := s.act.points[p]
  let src := s.changeSource p
  { state := if c.enabled && s.armed p then .normal else .disarmed
    mark := false, tDelay := none, tShelf := none, since := none
    chValue := src.value, chValid := src.valid, chTime := s.now }

/-- Step 3: the points and the lists reset (R144). -/
def installPoints (s : State) : State :=
  let changed := !s.alarm.list.isEmpty || s.unackCount != 0
  { s with alarm := { s.alarm with points := Vector.ofFn (installPoint s), list := [] },
           owed := Vector.replicate 48 true, statusOwed := s.statusOwed || changed }

/-- Step 4 for one entry: the freshness source of an entry created, renumbered or emptied (R124). -/
def installSource (old : TableSet) (e : Fin 16) (s : State) : State :=
  if renumbered old s.act e then
    if (s.act.stations[e]).number = 0 then feed (freshSource e) 0 false none s
    else feed (freshSource e) 1 true none s
  else s

/-- The steps of ACTIVATE but its answer (R197). Within a step the order is by rising entry, channel or id (log 48). -/
def install (s : State) : State :=
  let old := s.act
  let s := { s with tables := { s.tables with active := s.tables.staging, valid := true, committed := false } }
  let s := installStations old s
  let s := installPoints s
  let s := (List.finRange 16).foldl (fun s e => installSource old e s) s
  let s := (List.finRange 4).foldl (fun s ch => installAnalog ch (old.analog[ch]) (s.act.analog[ch]) s) s
  let s := (List.finRange 13).foldl (fun s i => renorm i s) s
  initTest s

/-- ACTIVATE (R196, R197). -/
def activate (rq : Requester) (s : State) : State :=
  if s.mode = .init ∨ s.mode = .parked then
    if s.storeBusy then answer rq .busy [] false s
    else
      match s.activateFailure with
      | some (t, e) => answer rq .checkFailed [byte t, byte e] false s
      | none => answer rq .ok [] false (install s)
  else answer rq .wrongMode [] false s

/-- COMMIT (R199). -/
def commit (rq : Requester) (s : State) : State :=
  if !s.tables.valid then answer rq .wrongMode [] false s
  else if s.storeBusy then answer rq .busy [] false s
  else beginCommit rq s

/-- SAVE_ATTRIBUTES (R200). -/
def saveAttributes (rq : Requester) (s : State) : State :=
  if s.storeBusy then answer rq .busy [] false s else beginSave (some rq) s

/-- RENEW_ATTRIBUTE (R177). -/
def renewAttribute (rq : Requester) (id : Nat) (s : State) : State :=
  match (List.finRange 13).find? fun i => i.val + 1 == id with
  | none => answer rq .badIndex [] false s
  | some i =>
    if s.mode = .parked then answer rq .ok [] false (renew i s) else answer rq .wrongMode [] false s

/-- Results as an answer carries them: at most 44 bytes (R191), what lies beyond being left out. Only a segment list of
more than 31 channels, or a test of more than six segments, fills more (log 42). -/
def fitResults (bs : List Byte) : List Byte := bs.take Config.resultBytes

/-- READ_TABLE (R194). -/
def readTable (rq : Requester) (staging : Bool) (table entry : Nat) (s : State) : State :=
  match entryFields (if staging then s.tables.staging else s.act) table entry with
  | some fs => answer rq .ok (fitResults (entryBytes fs)) false s
  | none => answer rq .badIndex [] false s

/-- READ_ACTIVE_LIST (R192). -/
def readActiveList (rq : Requester) (k : Nat) (s : State) : State :=
  if k ≤ s.alarm.list.length ∨ k = 1 then answer rq .ok (s.listPart k) false s
  else answer rq .badIndex [byte s.alarm.list.length] false s

/-- READ_TRIP (R164; log 35). -/
def readTrip (rq : Requester) (position part : Nat) (s : State) : State :=
  match (if position = 0 then none else s.trip.queue[position - 1]?) with
  | some r => answer rq .ok (encNat 4 r.number ++ tripPart r part) false s
  | none => answer rq .badIndex [byte s.trip.queue.length] false s

/-- CONSUME_TRIPS answered (R165). -/
def consumeTrips (rq : Requester) (n : Nat) (s : State) : State :=
  let len := s.trip.queue.length
  answer rq .ok [byte (min n len), byte (len - n)] false (consume n s)

/-- READ_TEST_LOG (R190). -/
def readTestLog (rq : Requester) (age : Nat) (s : State) : State :=
  match s.tester.aged age with
  | some d => answer rq .ok (fitResults (descriptorBytes d)) false s
  | none => answer rq .badIndex [] false s

/-- START_BRAKE_TEST (R182): the test is accepted, its first test Reference handed, and the answer given after it
(log 54). -/
def startBrakeTest (rq : Requester) (s : State) : State :=
  if s.mode = .parked then answer rq .ok [] false (acceptTest s) else answer rq .wrongMode [] false s

/-- ABORT_BRAKE_TEST (R189). -/
def abortBrakeTest (rq : Requester) (s : State) : State :=
  if s.testRuns then answer rq .ok [] false (abortTest s) else answer rq .wrongMode [] false s

/-- RESTART (R202). -/
def requestRestart (rq : Requester) (s : State) : State :=
  if s.storeBusy || s.store.restartPending then answer rq .busy [] false s
  else answer rq .ok [] true { s with store := { s.store with restartPending := true } }

/-- A well-formed request carried out and answered (R191). -/
def carryOut (rq : Requester) (r : Request) (s : State) : State :=
  match r with
  | .identify => answer rq .ok s.identity false s
  | .readStatus p => answer rq .ok (s.statusPart p) false s
  | .readTable c t e => readTable rq c t e s
  | .writeTable t e rest => answer rq (writeTable t e rest s).1 [] false (writeTable t e rest s).2
  | .copyActiveToStaging =>
    answer rq .ok [] false { s with tables := { s.tables with staging := s.tables.active } }
  | .activate => activate rq s
  | .commit => commit rq s
  | .saveAttributes => saveAttributes rq s
  | .readAttributes p => answer rq .ok (s.attrsPart p) false s
  | .renewAttribute i => renewAttribute rq i s
  | .readActiveList k => readActiveList rq k s
  | .readTrip k p => readTrip rq k p s
  | .consumeTrips n => consumeTrips rq n s
  | .readTestLog a => readTestLog rq a s
  | .startBrakeTest => startBrakeTest rq s
  | .abortBrakeTest => abortBrakeTest rq s
  | .readStation e => answer rq .ok (s.stationPart e) false s
  | .readCounters p c =>
    let s := countersRead p c s
    answer rq .ok (s.countersPart p) false s
  | .restart => requestRestart rq s

end Sys2Proof.Machine
end

