-- ==== Sys2Proof/Machine/Frames.lean ====
section
/-!
DEFINITION. Taking a frame at IN (R8 to R12): the checks, the arrival, the dispatch, and the meaning of each frame row.
All frame rows share one handling, that of the frame they spell (log 9).
-/

namespace Sys2Proof.Machine

/-- An Operator Action handed to its block (R6, R11). -/
def act (a : Action) (s : State) : State :=
  match a with
  | .modeRequest t => modeRequest t s
  | .ack p => ack p s
  | .shelve p m => shelve p m s
  | .unshelve p => unshelve p s
  | .resetLatched => resetLatched s
  | .resetTrip => resetTrip s
  | .testStart => testStart s
  | .testAbort => testAbort s

/-- An Operator Action addressed to the M4 (R11): taken from a CONSOLE station, or from any while the tables are not
valid; else removed. -/
def takeAction (f : Frame) (s : State) : State :=
  if !s.tables.valid || s.hasRole f.src .console then
    match parseAction f.payload with
    | some a => act a (bump .forPart s)
    | none => bump .forPart s
  else bump .removedUnauthorised s

/-- The byte of a request's code or tag as echoed; a payload too short to hold it leaves it free (R7, R191; log 11). -/
def echoByte (bs : List Byte) (n : Nat) (s : State) : Byte := (bs[n]?).getD (Config.freeByte (s.freeIdx + n))

/-- Whom a request's answer goes to, with its code and tag (R7, R191). -/
def requesterOf (f : Frame) (s : State) : Requester :=
  { dst := f.src, code := echoByte f.payload 0 s, tagHi := echoByte f.payload 1 s, tagLo := echoByte f.payload 2 s }

/-- A request admitted: counted, and an entry reserved for its answer (R11). -/
def takeArrival (f : Frame) (s : State) : State :=
  let s := bump .forPart s
  { s with ring := { s.ring with reserved := s.ring.reserved + 1 },
           freeIdx := if f.payload.length < 3 then s.freeIdx + 3 else s.freeIdx }

/-- The request in a frame's payload; none is BAD_REQUEST (R191). -/
def requestOf (f : Frame) : Option Request :=
  match f.payload with
  | c :: _ :: _ :: args => parseRequest c args
  | _ => none

/-- A Management Request taken by the M4: admission, authority, and the block that carries it out (R11, R191). -/
def takeRequest (f : Frame) (s : State) : State :=
  if s.freeCount < Config.requestRoom then bump .requestsNotTaken s
  else
    let rq := requesterOf f s
    let s := takeArrival f s
    if !s.tables.valid || s.hasRole f.src .manager then
      match requestOf f with
      | some r => carryOut rq r s
      | none => answer rq .badRequest [] false s
    else answer rq .notAuthorised [] false s

/-- Whether a frame is a general-call IDENTIFY that the M4 takes (R10). -/
def State.takesGeneralCall (s : State) (f : Frame) : Bool :=
  f.kind == 5#4 && f.dst == 63#8 && f.payload.head? == some 0#8 && s.hasRole f.src .manager
    && s.act.options.generalCall && s.ownValid

/-- A frame not addressed to the M4, by its kind (R10); payloads of these kinds have been found well formed (R8). -/
def passing (f : Frame) (s : State) : State :=
  match f.kind.toNat with
  | 1 =>
    match parseRef f.payload with
    | some r => limit f r s
    | none => s
  | 2 =>
    match parseStatus f.payload with
    | some d => takeStatus f d s
    | none => s
  | 3 =>
    match parseReport f.payload with
    | some ps => takeReport f ps s
    | none => s
  | _ => forward f f.payload s

/-- The dispatch of a frame by kind and destination (R10). -/
def dispatch (f : Frame) (s : State) : State :=
  if s.ownValid && f.dst == s.ownByte then
    match f.kind.toNat with
    | 4 => takeAction f s
    | 5 => takeRequest f s
    | _ => bump .removedMisaddressed s
  else if s.takesGeneralCall f then takeRequest f s
  else passing f s

/-- The arrival stage (R9): a duplicate is removed; else the entry is updated, and the dispatch follows. -/
def arrive (f : Frame) (s : State) : State :=
  match s.entryOf f.src with
  | some e =>
    match s.stations[e] with
    | some r => if isDuplicate r f.seq then bump .removedDuplicate s else dispatch f (arrival e r f.seq s)
    | none => dispatch f s
  | none => dispatch f s

/-- The three checks of R8, and on to R9. -/
def checkFrame (f : Frame) (s : State) : State :=
  if !(frameOk f && formOk f) then bump .removedCheck s
  else if f.src == s.ownByte then bump .returnedOwn s
  else if f.life = 0#4 then bump .removedLife s
  else arrive f s

/-- A frame taken at IN (R8): counted, the silence timer restarted, and handled. No frame is one whose byte count,
length field or check bytes fail (R2). -/
def takeFrame (f : Option Frame) (s : State) : State :=
  let s := silenceRestart (bump .taken s)
  match f with
  | some f => checkFrame f s
  | none => bump .removedCheck s

/-- FRAME_TAKEN_AT_IN (R8). -/
def execFrameTakenAtIn (bytes : List Byte) (s : State) : Host.Outcome State Fault Refusal :=
  done (takeFrame (parseFrame bytes) s)

/-- REFERENCE (R68). -/
def execReference (h : Header) (r : RefWire) (s : State) : Host.Outcome State Fault Refusal :=
  done (takeFrame (some (refFrame h r)) s)

/-- DRIVE_STATUS (R13). -/
def execDriveStatus (h : Header) (d : StatusWire) (s : State) : Host.Outcome State Fault Refusal :=
  done (takeFrame (some (statusFrame h d)) s)

/-- SENSOR_REPORT (R14). -/
def execSensorReport (h : Header) (pairs : List (Byte × Half)) (s : State) : Host.Outcome State Fault Refusal :=
  done (takeFrame (some (sensorFrame h pairs)) s)

/-- MODE_REQUEST (R34). -/
def execModeRequest (h : Header) (target : Byte) (s : State) : Host.Outcome State Fault Refusal :=
  done (takeFrame (some (actionFrame h 0#8 [target])) s)

/-- ACK (R133). -/
def execAck (h : Header) (point : Byte) (s : State) : Host.Outcome State Fault Refusal :=
  done (takeFrame (some (actionFrame h 1#8 [point])) s)

/-- SHELVE (R136). -/
def execShelve (h : Header) (point : Byte) (minutes : Half) (s : State) : Host.Outcome State Fault Refusal :=
  done (takeFrame (some (actionFrame h 2#8 (point :: Half.bytes minutes))) s)

/-- UNSHELVE (R137). -/
def execUnshelve (h : Header) (point : Byte) (s : State) : Host.Outcome State Fault Refusal :=
  done (takeFrame (some (actionFrame h 3#8 [point])) s)

/-- RESET_LATCHED (R134). -/
def execResetLatched (h : Header) (s : State) : Host.Outcome State Fault Refusal :=
  done (takeFrame (some (actionFrame h 4#8 [])) s)

/-- RESET_TRIP (R168). -/
def execResetTrip (h : Header) (s : State) : Host.Outcome State Fault Refusal :=
  done (takeFrame (some (actionFrame h 5#8 [])) s)

/-- TEST_START (R182). -/
def execTestStart (h : Header) (s : State) : Host.Outcome State Fault Refusal :=
  done (takeFrame (some (actionFrame h 6#8 [])) s)

/-- TEST_ABORT (R189). -/
def execTestAbort (h : Header) (s : State) : Host.Outcome State Fault Refusal :=
  done (takeFrame (some (actionFrame h 7#8 [])) s)

/-- IDENTIFY (R203). -/
def execIdentify (h : Header) (tag : Half) (s : State) : Host.Outcome State Fault Refusal :=
  done (takeFrame (some (requestFrame h 0#8 tag [])) s)

/-- READ_STATUS (R192). -/
def execReadStatus (h : Header) (tag : Half) (part : Byte) (s : State) : Host.Outcome State Fault Refusal :=
  done (takeFrame (some (requestFrame h 1#8 tag [part])) s)

/-- READ_TABLE (R194). -/
def execReadTable (h : Header) (tag : Half) (copy table entry : Byte) (s : State) :
    Host.Outcome State Fault Refusal :=
  done (takeFrame (some (requestFrame h 2#8 tag [copy, table, entry])) s)

/-- WRITE_TABLE (R195). -/
def execWriteTable (h : Header) (tag : Half) (table entry : Byte) (mask : List Byte) (mode : Byte)
    (values : List Byte) (s : State) : Host.Outcome State Fault Refusal :=
  done (takeFrame (some (requestFrame h 3#8 tag (table :: entry :: (mask ++ mode :: values)))) s)

/-- COPY_ACTIVE_TO_STAGING (R194). -/
def execCopyActiveToStaging (h : Header) (tag : Half) (s : State) : Host.Outcome State Fault Refusal :=
  done (takeFrame (some (requestFrame h 4#8 tag [])) s)

/-- ACTIVATE (R196, R197). -/
def execActivate (h : Header) (tag : Half) (s : State) : Host.Outcome State Fault Refusal :=
  done (takeFrame (some (requestFrame h 5#8 tag [])) s)

/-- COMMIT (R199). -/
def execCommit (h : Header) (tag : Half) (s : State) : Host.Outcome State Fault Refusal :=
  done (takeFrame (some (requestFrame h 6#8 tag [])) s)

/-- SAVE_ATTRIBUTES (R200). -/
def execSaveAttributes (h : Header) (tag : Half) (s : State) : Host.Outcome State Fault Refusal :=
  done (takeFrame (some (requestFrame h 7#8 tag [])) s)

/-- READ_ATTRIBUTES (R192). -/
def execReadAttributes (h : Header) (tag : Half) (part : Byte) (s : State) : Host.Outcome State Fault Refusal :=
  done (takeFrame (some (requestFrame h 8#8 tag [part])) s)

/-- RENEW_ATTRIBUTE (R177). -/
def execRenewAttribute (h : Header) (tag : Half) (id : Byte) (s : State) : Host.Outcome State Fault Refusal :=
  done (takeFrame (some (requestFrame h 9#8 tag [id])) s)

/-- READ_ACTIVE_LIST (R192). -/
def execReadActiveList (h : Header) (tag : Half) (position : Byte) (s : State) : Host.Outcome State Fault Refusal :=
  done (takeFrame (some (requestFrame h 10#8 tag [position])) s)

/-- READ_TRIP (R164). -/
def execReadTrip (h : Header) (tag : Half) (position part : Byte) (s : State) : Host.Outcome State Fault Refusal :=
  done (takeFrame (some (requestFrame h 11#8 tag [position, part])) s)

/-- CONSUME_TRIPS (R165). -/
def execConsumeTrips (h : Header) (tag : Half) (count : Byte) (s : State) : Host.Outcome State Fault Refusal :=
  done (takeFrame (some (requestFrame h 12#8 tag [count])) s)

/-- READ_TEST_LOG (R190). -/
def execReadTestLog (h : Header) (tag : Half) (age : Byte) (s : State) : Host.Outcome State Fault Refusal :=
  done (takeFrame (some (requestFrame h 13#8 tag [age])) s)

/-- START_BRAKE_TEST (R182). -/
def execStartBrakeTest (h : Header) (tag : Half) (s : State) : Host.Outcome State Fault Refusal :=
  done (takeFrame (some (requestFrame h 14#8 tag [])) s)

/-- ABORT_BRAKE_TEST (R189). -/
def execAbortBrakeTest (h : Header) (tag : Half) (s : State) : Host.Outcome State Fault Refusal :=
  done (takeFrame (some (requestFrame h 15#8 tag [])) s)

/-- READ_STATION (R192). -/
def execReadStation (h : Header) (tag : Half) (entry : Byte) (s : State) : Host.Outcome State Fault Refusal :=
  done (takeFrame (some (requestFrame h 16#8 tag [entry])) s)

/-- READ_COUNTERS (R192, R25). -/
def execReadCounters (h : Header) (tag : Half) (part clear : Byte) (s : State) : Host.Outcome State Fault Refusal :=
  done (takeFrame (some (requestFrame h 17#8 tag [part, clear])) s)

/-- RESTART (R202). -/
def execRestart (h : Header) (tag : Half) (s : State) : Host.Outcome State Fault Refusal :=
  done (takeFrame (some (requestFrame h 18#8 tag [])) s)

/-- UNKNOWN_REQUEST (R191): a Management Request with any payload. -/
def execUnknownRequest (h : Header) (payload : List Byte) (s : State) : Host.Outcome State Fault Refusal :=
  done (takeFrame (some (frameOf h 5#4 payload)) s)

end Sys2Proof.Machine
end

