-- ==== Sys2Proof/Machine/StartUp.lean ====
section
/-!
DEFINITION. Start-up (R201): the power-on reset, and the restart that takes effect when the answer to RESTART has been
sent (R202), each with the frames that are taken at IN before its steps 3 to 5.
-/

namespace Sys2Proof.Machine

/-- Frames taken at IN before steps 3 to 5 of R201, one after the other as FRAME_TAKEN_AT_IN takes them: no table is in
force then, so no station entry is in use (R26, R201; log 32). -/
def earlyFrames (early : List (List Byte)) (s : State) : State :=
  early.foldl (fun s bytes => finish (takeFrame (parseFrame bytes) s)) s

/-- A power-on reset (R201): steps 1 and 2, the frames taken before the tables are loaded, and steps 3 to 5 as one event
(log 32). -/
def powerOn (straps : BitVec 6) (early : List (List Byte)) (s : State) : State :=
  endStartUp (loadAttrs (loadTables (earlyFrames early (volatileReset straps s))))

/-- A restart taking effect (R202): the steps of R201 without step 4. -/
def restart (early : List (List Byte)) (s : State) : State :=
  endStartUp (keepAttrs (loadTables (earlyFrames early (keepOver s (volatileReset s.pins.straps s)))))

/-- The counts at the end of a sending (R12, R15, R19). -/
def countSent (s : State) : State :=
  match s.ring.sending with
  | none => s
  | some .forward =>
    match s.ring.fwd with
    | [] => s
    | e :: rest =>
      let s := bump .forwarded { s with ring := { s.ring with fwd := rest } }
      if e.frame.payload = e.taken then s else bump .rewritten s
  | some (.inserted _ _) => bump .inserted s

/-- Whether OUT is sending the answer to RESTART (R202). -/
def State.sendsRestart (s : State) : Bool :=
  match s.ring.sending with
  | some (.inserted (.response r) _) => r
  | _ => false

/-- The completion of a sending at OUT (R15, R19): counted, then the next frame chosen; at the answer to RESTART the
restart takes effect, with the given frames taken before its steps 3 to 5 (R201, R202). While OUT is idle nothing
completes. -/
def sendingDone (early : List (List Byte)) (s : State) : State :=
  if s.ring.sending.isSome then
    if s.sendsRestart then restart early (countSent s) else testPoll (choose (countSent s))
  else s

/-- POWER_ON_RESET (R201). -/
def execPowerOnReset (straps : BitVec 6) (s : State) (early : List (List Byte) := []) :
    Host.Outcome State Fault Refusal :=
  done (powerOn straps early s)

/-- SENDING_COMPLETE (R15, R19, R202). A restart that takes effect here has no frame taken before its steps 3 to 5
(log 32). -/
def execSendingComplete (s : State) : Host.Outcome State Fault Refusal := done (sendingDone [] s)

/-- RESTART_TAKES_EFFECT (R202): the sending of the answer to RESTART completes, and the restart takes effect; while OUT
sends no such answer there is no restart to take effect (log 28). -/
def execRestartTakesEffect (s : State) (early : List (List Byte) := []) : Host.Outcome State Fault Refusal :=
  done (if s.sendsRestart then sendingDone early s else s)

end Sys2Proof.Machine
end

