-- ==== Sys2Proof/Machine/Timers.lean ====
section
/-!
DEFINITION. The tick: what a step does while no command waits (log 2). One millisecond passes, and the expiry of every
timer that has run out joins the queue, in an order the spec leaves free.
-/

namespace Sys2Proof.Machine

/-- The expiry command of a timer, when the timer has run out. -/
def State.dueIf (s : State) (t : Option Nat) (c : Instr) : List Instr := if s.expired t then [c] else []

/-- The expiries due on a brake channel (R46). -/
def State.dueChan (s : State) (c : Chan) : List Instr :=
  let ch := s.brakes.get c
  s.dueIf ch.tDue (.releaseDueExpiry c) ++ s.dueIf ch.tProve (.proveTimerExpiry c)
    ++ s.dueIf ch.tRelease (.releaseConfirmExpiry c) ++ s.dueIf ch.tDwell (.releaseDwellExpiry c)
    ++ s.dueIf ch.tSet (.setConfirmExpiry c) ++ s.dueIf ch.tAutoset (.autosetExpiry c)

/-- The expiries due at the brake tester (R180). -/
def State.dueTest (s : State) : List Instr :=
  let t := s.tester
  s.dueIf t.tRamp .rampTimeout ++ s.dueIf t.tHold .holdExpiry ++ s.dueIf t.tPeriod .testPeriodExpiry
    ++ s.dueIf t.tResume .resumeExpiry ++ s.dueIf t.tSuspend .suspendLimitExpiry

/-- The expiries due on an alarm point (R131, R136). -/
def State.duePoint (s : State) (p : Fin 48) : List Instr :=
  s.dueIf s.alarm.points[p].tDelay (.onDelayExpiry p) ++ s.dueIf s.alarm.points[p].tShelf (.shelfExpiry p)

/-- The expiry due on a station entry (R22). -/
def State.dueStation (s : State) (e : Fin 16) : List Instr :=
  s.dueIf (s.stations[e].bind fun r => r.timer) (.freshnessTimerExpiry e)

/-- Every expiry due. -/
def State.due (s : State) : List Instr :=
  (List.finRange 16).flatMap s.dueStation ++ s.dueIf s.ring.silence .ringSilenceExpiry
    ++ s.dueIf (s.ctl.slot.bind Slot.dwellEnd) .dwellExpiry ++ s.dueIf s.ctl.parkTimer .parkTimerExpiry
    ++ allChans.flatMap s.dueChan ++ s.dueIf s.tight.onset .onsetExpiry ++ s.dueIf s.walk.tConfirm .confirmTimerExpiry
    ++ s.dueIf s.walk.tTimeout .prepTimeoutExpiry ++ (List.finRange 48).flatMap s.duePoint ++ s.dueTest
    ++ s.dueIf s.attrs.tMinute .minuteTimerExpiry

/-- A command put into the queue at a free place (log 2); into an empty queue there is one place. -/
def post (s : State) (c : Instr) : State :=
  match s.pending with
  | [] => { s with pending := [c] }
  | q =>
    { s with pending := q.insertIdx (Config.tieOrder s.freeIdx % (q.length + 1)) c, freeIdx := s.freeIdx + 1 }

/-- One millisecond passes (log 2). -/
def tick (s : State) : State :=
  let s := { s with now := s.now + 1 }
  s.due.foldl post s

end Sys2Proof.Machine
end

