-- ==== Sys2Proof/Machine/Dispatch.lean ====
section
/-!
DEFINITION. The meaning of each command: one arm for each constructor of Instr, one direct call of its meaning.
-/

namespace Sys2Proof.Machine

/-- The effect of a command on everything but the queue. -/
def exec (i : Instr) (s : State) : Host.Outcome State Fault Refusal :=
  match i with
  | .powerOnReset straps early => Sys2Proof.Machine.execPowerOnReset straps s early
  | .restartTakesEffect early => Sys2Proof.Machine.execRestartTakesEffect s early
  | .frameTakenAtIn bytes => Sys2Proof.Machine.execFrameTakenAtIn bytes s
  | .reference h r => Sys2Proof.Machine.execReference h r s
  | .driveStatus h d => Sys2Proof.Machine.execDriveStatus h d s
  | .sensorReport h pairs => Sys2Proof.Machine.execSensorReport h pairs s
  | .modeRequest h target => Sys2Proof.Machine.execModeRequest h target s
  | .ack h point => Sys2Proof.Machine.execAck h point s
  | .shelve h point minutes => Sys2Proof.Machine.execShelve h point minutes s
  | .unshelve h point => Sys2Proof.Machine.execUnshelve h point s
  | .resetLatched h => Sys2Proof.Machine.execResetLatched h s
  | .resetTrip h => Sys2Proof.Machine.execResetTrip h s
  | .testStart h => Sys2Proof.Machine.execTestStart h s
  | .testAbort h => Sys2Proof.Machine.execTestAbort h s
  | .identify h tag => Sys2Proof.Machine.execIdentify h tag s
  | .readStatus h tag part => Sys2Proof.Machine.execReadStatus h tag part s
  | .readTable h tag copy table entry => Sys2Proof.Machine.execReadTable h tag copy table entry s
  | .writeTable h tag table entry mask mode values => Sys2Proof.Machine.execWriteTable h tag table entry mask mode values s
  | .copyActiveToStaging h tag => Sys2Proof.Machine.execCopyActiveToStaging h tag s
  | .activate h tag => Sys2Proof.Machine.execActivate h tag s
  | .commit h tag => Sys2Proof.Machine.execCommit h tag s
  | .saveAttributes h tag => Sys2Proof.Machine.execSaveAttributes h tag s
  | .readAttributes h tag part => Sys2Proof.Machine.execReadAttributes h tag part s
  | .renewAttribute h tag id => Sys2Proof.Machine.execRenewAttribute h tag id s
  | .readActiveList h tag position => Sys2Proof.Machine.execReadActiveList h tag position s
  | .readTrip h tag position part => Sys2Proof.Machine.execReadTrip h tag position part s
  | .consumeTrips h tag count => Sys2Proof.Machine.execConsumeTrips h tag count s
  | .readTestLog h tag age => Sys2Proof.Machine.execReadTestLog h tag age s
  | .startBrakeTest h tag => Sys2Proof.Machine.execStartBrakeTest h tag s
  | .abortBrakeTest h tag => Sys2Proof.Machine.execAbortBrakeTest h tag s
  | .readStation h tag entry => Sys2Proof.Machine.execReadStation h tag entry s
  | .readCounters h tag part clear => Sys2Proof.Machine.execReadCounters h tag part clear s
  | .restart h tag => Sys2Proof.Machine.execRestart h tag s
  | .unknownRequest h payload => Sys2Proof.Machine.execUnknownRequest h payload s
  | .sendingComplete => Sys2Proof.Machine.execSendingComplete s
  | .statusNotice => Sys2Proof.Machine.execStatusNotice s
  | .alarmNotice => Sys2Proof.Machine.execAlarmNotice s
  | .initToParked => Sys2Proof.Machine.execInitToParked s
  | .parkingComplete => Sys2Proof.Machine.execParkingComplete s
  | .homeWaitEnd => Sys2Proof.Machine.execHomeWaitEnd s
  | .segmentBegin => Sys2Proof.Machine.execSegmentBegin s
  | .secondFinalReference => Sys2Proof.Machine.execSecondFinalReference s
  | .autosave => Sys2Proof.Machine.execAutosave s
  | .commitCompletion readBack => Sys2Proof.Machine.execCommitCompletion readBack s
  | .saveCompletion readBack => Sys2Proof.Machine.execSaveCompletion readBack s
  | .freshnessTimerExpiry entry => Sys2Proof.Machine.execFreshnessTimerExpiry entry s
  | .ringSilenceExpiry => Sys2Proof.Machine.execRingSilenceExpiry s
  | .dwellExpiry => Sys2Proof.Machine.execDwellExpiry s
  | .parkTimerExpiry => Sys2Proof.Machine.execParkTimerExpiry s
  | .releaseDueExpiry c => Sys2Proof.Machine.execReleaseDueExpiry c s
  | .proveTimerExpiry c => Sys2Proof.Machine.execProveTimerExpiry c s
  | .releaseConfirmExpiry c => Sys2Proof.Machine.execReleaseConfirmExpiry c s
  | .releaseDwellExpiry c => Sys2Proof.Machine.execReleaseDwellExpiry c s
  | .setConfirmExpiry c => Sys2Proof.Machine.execSetConfirmExpiry c s
  | .autosetExpiry c => Sys2Proof.Machine.execAutosetExpiry c s
  | .onsetExpiry => Sys2Proof.Machine.execOnsetExpiry s
  | .confirmTimerExpiry => Sys2Proof.Machine.execConfirmTimerExpiry s
  | .prepTimeoutExpiry => Sys2Proof.Machine.execPrepTimeoutExpiry s
  | .onDelayExpiry p => Sys2Proof.Machine.execOnDelayExpiry p s
  | .shelfExpiry p => Sys2Proof.Machine.execShelfExpiry p s
  | .conversionCompletion ch input reference => Sys2Proof.Machine.execConversionCompletion ch input reference s
  | .rampTimeout => Sys2Proof.Machine.execRampTimeout s
  | .holdExpiry => Sys2Proof.Machine.execHoldExpiry s
  | .testPeriodExpiry => Sys2Proof.Machine.execTestPeriodExpiry s
  | .resumeExpiry => Sys2Proof.Machine.execResumeExpiry s
  | .suspendLimitExpiry => Sys2Proof.Machine.execSuspendLimitExpiry s
  | .minuteTimerExpiry => Sys2Proof.Machine.execMinuteTimerExpiry s

end Sys2Proof.Machine
end

