-- ==== Sys2Proof/Safety.lean ====
section
/-!
DEFINITION. The predicates the statements are made of: what every step keeps, when a frame reaches its block, what it is
to be answered, and what a command leaves unchanged.
-/

namespace Sys2Proof.Machine

/-! Invariants. -/

/-- The modes in which the FIELD line is energised (R160). -/
def serving : Mode → Bool
  | .init => false
  | .tripped => false
  | _ => true

/-- The trip lines and the mode agree (R160), and no trip is held between commands. -/
def LinesAgree (s : State) : Prop :=
  (s.trip.field = .energised ↔ serving s.mode = true)
    ∧ (s.mode = .init → s.trip.brake = .deEnergised)
    ∧ (s.trip.brake = .deEnergised → s.trip.field = .deEnergised)
    ∧ s.heldTrips = []

/-- The active list holds each point at most once, and exactly the points in ACTIVE_UNACK, ACTIVE_ACK or
RETURNED_UNACK (R139). -/
def ActiveListExact (s : State) : Prop :=
  s.alarm.list.Nodup ∧ ∀ p : Fin 48, p ∈ s.alarm.list ↔ s.alarm.points[p].state.listed = true

/-- No point of class TRIP is SHELVED (R136). -/
def NoTripPointShelved (s : State) : Prop :=
  ∀ p : Fin 48, s.alarm.points[p].state = .shelved → (s.act.points[p]).cls ≠ .trip

/-- In WALKING the skew does not exceed the skew trip limit (R110), given that no trip is held. -/
def SkewWithinLimit (s : State) : Prop :=
  s.heldTrips = [] ∧ (s.mode = .walking → ∀ k, s.walk.skew = some k → k ≤ s.act.walk.tripLimit)

/-- Every normalised value lies in 1..100, and no worst value is above its normalised value (R171, R173). -/
def WearInRange (s : State) : Prop :=
  ∀ i : Fin 13, 1 ≤ (s.attrs.recs[i]).norm ∧ (s.attrs.recs[i]).norm ≤ 100
    ∧ (s.attrs.recs[i]).worst ≤ (s.attrs.recs[i]).norm

/-- The forward queue holds at most 8 frames, the consecutive-forward count is at most 8, and the trip record queue
holds at most 32 records (R15, R19, R163). -/
def QueuesBounded (s : State) : Prop :=
  s.ring.fwd.length ≤ 8 ∧ s.ring.consec ≤ 8 ∧ s.trip.queue.length ≤ 32

/-- The number of insert-queue entries of a class. -/
def State.queued (s : State) (c : InsClass) : Nat := (s.ring.ins.filter fun e => e.cls == c).length

/-- The insert queue (R16): entries in order of class, at most one test Reference, one Status Notice and one Alarm
Notice for each point; the reservations are the answers the store controller owes; and whenever no test Reference is
queued the free count is 1 or more. -/
def InsertQueueSound (s : State) : Prop :=
  s.ring.ins.Pairwise (fun a b => a.cls.rank ≤ b.cls.rank)
    ∧ s.queued .testRef ≤ 1 ∧ s.queued .status ≤ 1 ∧ (∀ p, s.queued (.alarm p) ≤ 1)
    ∧ s.ring.reserved = (if s.store.answer.isSome then 1 else 0)
    ∧ (s.store.state = .idle → s.store.answer = none)
    ∧ s.ring.ins.length + s.ring.reserved ≤ 15 + s.queued .testRef

/-! Frames that reach their block. -/

/-- The state when a frame has been counted and the silence timer restarted (R8). -/
def heard (s : State) : State := silenceRestart (bump .taken s)

/-- The entry of a frame's source, with its running state (R9). -/
def State.sourceRun (s : State) (f : Frame) : Option (Fin 16 × StationRun) :=
  (s.entryOf f.src).bind fun e => (s.stations[e]).map fun r => (e, r)

/-- Whether a frame passes the stages of R8 and R9: its check and form, its source not the M4's own, its life not 0, and
not a repeat of its source's last sequence. -/
def State.passes (s : State) (f : Frame) : Bool :=
  frameOk f && formOk f && f.src != s.ownByte && f.life != 0#4
    && match s.sourceRun f with
       | some (_, r) => !isDuplicate r f.seq
       | none => true

/-- The state when a frame that passes R8 and R9 is dispatched: the frame counted, the silence timer restarted, and the
arrival made for the entry of its source. -/
def received (f : Frame) (s : State) : State :=
  match (heard s).sourceRun f with
  | some (e, r) => arrival e r f.seq (heard s)
  | none => heard s

/-- Whether a frame is addressed to the M4 (R10). -/
def State.addressed (s : State) (f : Frame) : Bool := s.ownValid && f.dst == s.ownByte

/-- Whether the M4 takes an Operator Action from this source (R11). -/
def State.consoleOk (s : State) (f : Frame) : Bool := !s.tables.valid || s.hasRole f.src .console

/-- Whether the M4 carries out a Management Request from this source (R11). -/
def State.managerOk (s : State) (f : Frame) : Bool := !s.tables.valid || s.hasRole f.src .manager

/-- An Operator Action that is handed to its block: it passes, and in the state it is dispatched in it is addressed to
the M4 and comes from a station that may send it (R8 to R11). -/
def State.acts (s : State) (f : Frame) : Bool :=
  s.passes f && (received f s).addressed f && (received f s).consoleOk f

/-- The state in which the block of an Operator Action acts: received, and counted FOR_PART (R11). -/
def actedOn (f : Frame) (s : State) : State := bump .forPart (received f s)

/-- A Management Request that is carried out: it passes, is addressed to the M4 (IDENTIFY by general call too), is
admitted, and comes from a station that may send it (R8 to R11). -/
def State.requests (s : State) (f : Frame) : Bool :=
  s.passes f && ((received f s).addressed f || (received f s).takesGeneralCall f)
    && decide (2 ≤ (received f s).freeCount) && (received f s).managerOk f

/-- The state in which a request is carried out: received, counted FOR_PART, and its answer's entry reserved (R11). -/
def admitted (f : Frame) (s : State) : State := takeArrival f (received f s)

/-- The requester of a frame's answer: its source, code and tag (R191). -/
def State.asker (s : State) (f : Frame) : Requester := requesterOf f (received f s)

/-- Whether a frame carries a given answer: a Management Response from the M4 to the requester, with the request's code
and tag, the status and the results (R191, R20). -/
def isAnswer (own : Byte) (rq : Requester) (st : Status) (results : List Byte) (dst src : Byte) (kind : BitVec 4)
    (payload : List Byte) : Prop :=
  dst = rq.dst ∧ src = own ∧ kind = 6#4
    ∧ payload = rq.code :: rq.tagHi :: rq.tagLo :: byte st.code :: results

/-- The M4 has answered: the response waits in the insert queue or is being sent (R16, R19, R191). -/
def Answered (rq : Requester) (st : Status) (results : List Byte) (t : State) : Prop :=
  (∃ e ∈ t.ring.ins, (∃ b, e.cls = .response b) ∧ isAnswer t.ownByte rq st results e.dst e.src e.kind e.payload)
    ∨ ∃ b f, t.ring.sending = some (.inserted (.response b) f)
        ∧ isAnswer t.ownByte rq st results f.dst f.src f.kind f.payload

/-! The payloads the M4 reads. -/

/-- An axis code of a Reference or a Drive Status names an axis (R4, R5). -/
def AxisNamed (b : Byte) (x : Axis) : Prop :=
  (b = 1#8 ∧ x = .hoist) ∨ (b = 2#8 ∧ x = .drag) ∨ (b = 3#8 ∧ x = .swing) ∨ (b = 4#8 ∧ x = .walkLeft)
    ∨ (b = 5#8 ∧ x = .walkRight)

/-- The fields of a Reference are in their ranges and read as a Reference (R4). -/
def RefReads (w : RefWire) (r : Ref) : Prop :=
  AxisNamed w.axis r.axis
    ∧ ((w.brake = 0#8 ∧ r.brake = .hold) ∨ (w.brake = 1#8 ∧ r.brake = .release)
        ∨ (w.brake = 2#8 ∧ r.brake = .releaseAutoset))
    ∧ r.lever = w.lever ∧ r.speed = w.speed.toInt ∧ r.torque = w.torque.toNat
    ∧ (-1000 ≤ w.lever.toInt ∧ w.lever.toInt ≤ 1000) ∧ (-1000 ≤ w.speed.toInt ∧ w.speed.toInt ≤ 1000)
    ∧ w.torque.toNat ≤ 300 ∧ w.cause.toNat ≤ 13

/-- The fields of a Drive Status are in their ranges and read as a Drive Status: the brake state stands in bits 1 and 0 of
the status byte, ready in bit 7, and the bits between are zero (R5). -/
def StatusReads (w : StatusWire) (d : DriveStat) : Prop :=
  AxisNamed w.axis d.axis
    ∧ ((w.status.toNat % 4 = 0 ∧ d.brake = .set) ∨ (w.status.toNat % 4 = 1 ∧ d.brake = .released)
        ∨ (w.status.toNat % 4 = 2 ∧ d.brake = .transit) ∨ (w.status.toNat % 4 = 3 ∧ d.brake = .fault))
    ∧ w.status.toNat / 4 % 32 = 0 ∧ (d.ready = true ↔ 128 ≤ w.status.toNat)
    ∧ d.speed = w.speed.toInt ∧ d.position = w.position.toNat ∧ d.turns = w.turns.toNat ∧ d.current = w.current.toInt
    ∧ (-1000 ≤ w.speed.toInt ∧ w.speed.toInt ≤ 1000)
    ∧ w.position.toNat ≤ (if d.axis = .hoist ∨ d.axis = .drag then 3000 else 3599)
    ∧ (d.axis = .walkLeft ∨ d.axis = .walkRight ∨ w.turns.toNat = 0)
    ∧ (-300 ≤ w.current.toInt ∧ w.current.toInt ≤ 300)

/-- The pairs of a Sensor Report, 1 to 8 with channels 0 to 15, read as its channels and values (R6). -/
def PairsRead (ps : List (Byte × Half)) (l : List (Fin 16 × Int)) : Prop :=
  1 ≤ ps.length ∧ ps.length ≤ 8 ∧ ps.map (fun p => (p.1.toNat, p.2.toInt)) = l.map fun q => (q.1.val, q.2)

/-- The bytes of an Operator Action and the action they ask for: the codes in the order of R6, the arguments in its
ranges, encoded as R191 gives. -/
def ActionReads (bs : List Byte) (a : Action) : Prop :=
  (bs = [0#8, 0#8] ∧ a = .modeRequest .park) ∨ (bs = [0#8, 1#8] ∧ a = .modeRequest .dig)
    ∨ (bs = [0#8, 2#8] ∧ a = .modeRequest .walk)
    ∨ (∃ p : Byte, bs = [1#8, p] ∧ p.toNat ≤ 48 ∧ a = .ack p.toNat)
    ∨ (∃ (p : Byte) (m : Half), bs = 2#8 :: p :: Half.bytes m ∧ 1 ≤ p.toNat ∧ p.toNat ≤ 48 ∧ 1 ≤ m.toNat
        ∧ m.toNat ≤ 480 ∧ a = .shelve p.toNat m.toNat)
    ∨ (∃ p : Byte, bs = [3#8, p] ∧ 1 ≤ p.toNat ∧ p.toNat ≤ 48 ∧ a = .unshelve p.toNat)
    ∨ (bs = [4#8] ∧ a = .resetLatched) ∨ (bs = [5#8] ∧ a = .resetTrip) ∨ (bs = [6#8] ∧ a = .testStart)
    ∨ (bs = [7#8] ∧ a = .testAbort)

/-- The nine bytes of a Reference, field after field (R4). -/
def RefBytes (bs : List Byte) (w : RefWire) : Prop :=
  bs = [w.axis, w.brake] ++ Half.bytes w.lever ++ Half.bytes w.speed ++ Half.bytes w.torque ++ [w.cause]

/-- The ten bytes of a Drive Status, field after field (R5). -/
def StatusBytes (bs : List Byte) (w : StatusWire) : Prop :=
  bs = [w.axis, w.status] ++ Half.bytes w.speed ++ Half.bytes w.position ++ Half.bytes w.turns ++ Half.bytes w.current

/-- The payload of a frame of kind 1 to 4 is well formed (R4, R5, R6); one of another kind is not judged (R8). -/
def GoodPayload (f : Frame) : Prop :=
  (f.kind = 1#4 → ∃ w r, RefBytes f.payload w ∧ RefReads w r)
    ∧ (f.kind = 2#4 → ∃ w d, StatusBytes f.payload w ∧ StatusReads w d)
    ∧ (f.kind = 3#4 → ∃ ps l, f.payload = ps.flatMap (fun p => p.1 :: Half.bytes p.2) ∧ PairsRead ps l)
    ∧ (f.kind = 4#4 → ∃ a, ActionReads f.payload a)

/-- An entry of the active station table is in use and has a property, and no lower one in use has it (log 56 on tables
that hold several). -/
def IsEntry (s : State) (p : StationCfg → Prop) (e : Fin 16) : Prop :=
  (s.act.stations[e]).number ≠ 0 ∧ p s.act.stations[e]
    ∧ ∀ d : Fin 16, d < e → (s.act.stations[d]).number ≠ 0 → ¬p s.act.stations[d]

/-- A station is the one of an axis's DRIVE entry (R13, R73). -/
def IsDriveStation (s : State) (station : Byte) (x : Axis) : Prop :=
  ∃ e, IsEntry s (fun c => c.role = .drive ∧ c.axis = some x) e ∧ (s.act.stations[e]).number = station.toNat

/-! The timers. -/

/-- A timer stands and has run out. -/
def RunOut (s : State) (timer : Option Nat) : Prop := ∃ d, timer = some d ∧ d ≤ s.now

/-- A command is the expiry of a timer that stands and has run out: the freshness timers (R22), ring silence (R24), the
DWELL wait (R37), the park timer (R44), the timers of the brake channels (R46), the tightline onset (R87), the two timers
of walk preparation (R118, R119), the on-delay and shelf timers of the points (R131, R136), the tester's timers (R183,
R184, R185, R188) and the minute timer (R178). -/
def IsDue (s : State) : Instr → Prop
  | .freshnessTimerExpiry e => ∃ r, s.stations[e] = some r ∧ RunOut s r.timer
  | .ringSilenceExpiry => RunOut s s.ring.silence
  | .dwellExpiry => ∃ g d, s.ctl.slot = some { target := g, wait := .dwell d } ∧ d ≤ s.now
  | .parkTimerExpiry => RunOut s s.ctl.parkTimer
  | .releaseDueExpiry c => RunOut s (s.brakes.get c).tDue
  | .proveTimerExpiry c => RunOut s (s.brakes.get c).tProve
  | .releaseConfirmExpiry c => RunOut s (s.brakes.get c).tRelease
  | .releaseDwellExpiry c => RunOut s (s.brakes.get c).tDwell
  | .setConfirmExpiry c => RunOut s (s.brakes.get c).tSet
  | .autosetExpiry c => RunOut s (s.brakes.get c).tAutoset
  | .onsetExpiry => RunOut s s.tight.onset
  | .confirmTimerExpiry => RunOut s s.walk.tConfirm
  | .prepTimeoutExpiry => RunOut s s.walk.tTimeout
  | .onDelayExpiry p => RunOut s (s.alarm.points[p]).tDelay
  | .shelfExpiry p => RunOut s (s.alarm.points[p]).tShelf
  | .rampTimeout => RunOut s s.tester.tRamp
  | .holdExpiry => RunOut s s.tester.tHold
  | .testPeriodExpiry => RunOut s s.tester.tPeriod
  | .resumeExpiry => RunOut s s.tester.tResume
  | .suspendLimitExpiry => RunOut s s.tester.tSuspend
  | .minuteTimerExpiry => RunOut s s.attrs.tMinute
  | _ => False

/-! Frame conditions. -/

/-- Nothing but the ring interface's queues, counters and OUT, and the notice marks, differs (what building a notice and
answering touch). -/
def OnlyRing (s t : State) : Prop :=
  t = { s with ring := t.ring, statusOwed := t.statusOwed, owed := t.owed }

/-- Nothing but a point's running records, the active list, the notice marks and the ring interface differs. -/
def OnlyPoints (s t : State) : Prop :=
  t = { s with alarm := { s.alarm with points := t.alarm.points, list := t.alarm.list },
               ring := t.ring, statusOwed := t.statusOwed, owed := t.owed }

/-- A frame of a class waits in the insert queue or is being sent, built by the M4 with a given destination, kind and
payload (R16, R19, R20). -/
def Inserted (cls : InsClass) (dst : Byte) (kind : BitVec 4) (payload : List Byte) (t : State) : Prop :=
  (∃ e ∈ t.ring.ins, e.cls = cls ∧ e.dst = dst ∧ e.src = t.ownByte ∧ e.kind = kind ∧ e.payload = payload)
    ∨ ∃ f, t.ring.sending = some (.inserted cls f) ∧ f.dst = dst ∧ f.src = t.ownByte ∧ f.kind = kind
        ∧ f.payload = payload

/-- A test Reference for an axis waits or is being sent: speed, torque, brake HOLD, lever 0, cause TEST, to the axis's
DRIVE station (R183, R185). -/
def TestRefOut (x : Axis) (speed : Int) (torque : Nat) (t : State) : Prop :=
  ∃ e, t.driveEntry x = some e
    ∧ Inserted .testRef (byte (t.act.stations[e]).number) 1#4 (testPayload x speed torque) t

/-- The argument byte of a MODE_REQUEST for a target: PARK, DIG or WALK, in the order of R6. -/
def targetByte : Target → Byte
  | .park => 0#8
  | .dig => 1#8
  | .walk => 2#8

/-- The frame a frame row spells (log 9); none for the rows that are no frame. -/
def rowFrame : Instr → Option Frame
  | .reference h r => some (refFrame h r)
  | .driveStatus h d => some (statusFrame h d)
  | .sensorReport h ps => some (sensorFrame h ps)
  | .modeRequest h t => some (actionFrame h 0#8 [t])
  | .ack h p => some (actionFrame h 1#8 [p])
  | .shelve h p m => some (actionFrame h 2#8 (p :: Half.bytes m))
  | .unshelve h p => some (actionFrame h 3#8 [p])
  | .resetLatched h => some (actionFrame h 4#8 [])
  | .resetTrip h => some (actionFrame h 5#8 [])
  | .testStart h => some (actionFrame h 6#8 [])
  | .testAbort h => some (actionFrame h 7#8 [])
  | .identify h g => some (requestFrame h 0#8 g [])
  | .readStatus h g p => some (requestFrame h 1#8 g [p])
  | .readTable h g c t e => some (requestFrame h 2#8 g [c, t, e])
  | .writeTable h g t e m w v => some (requestFrame h 3#8 g (t :: e :: (m ++ w :: v)))
  | .copyActiveToStaging h g => some (requestFrame h 4#8 g [])
  | .activate h g => some (requestFrame h 5#8 g [])
  | .commit h g => some (requestFrame h 6#8 g [])
  | .saveAttributes h g => some (requestFrame h 7#8 g [])
  | .readAttributes h g p => some (requestFrame h 8#8 g [p])
  | .renewAttribute h g i => some (requestFrame h 9#8 g [i])
  | .readActiveList h g k => some (requestFrame h 10#8 g [k])
  | .readTrip h g k p => some (requestFrame h 11#8 g [k, p])
  | .consumeTrips h g n => some (requestFrame h 12#8 g [n])
  | .readTestLog h g a => some (requestFrame h 13#8 g [a])
  | .startBrakeTest h g => some (requestFrame h 14#8 g [])
  | .abortBrakeTest h g => some (requestFrame h 15#8 g [])
  | .readStation h g e => some (requestFrame h 16#8 g [e])
  | .readCounters h g p c => some (requestFrame h 17#8 g [p, c])
  | .restart h g => some (requestFrame h 18#8 g [])
  | .unknownRequest h p => some (frameOf h 5#4 p)
  | _ => none

/-! The conditions of the manual's tables, spelled out. -/

/-- The row in force for a value: the last in use whose start is at or below it (R82, R105). -/
def RowInForce {α : Type} {n : Nat} (rows : Vector α n) (used : Nat) (start : α → Nat) (v : Nat) (row : α) : Prop :=
  ∃ i : Fin n, i.val < used ∧ rows[i] = row ∧ start row ≤ v ∧ ∀ j : Fin n, i < j → j.val < used → v < start rows[j]

/-- A point is ACTIVE_UNACK or ACTIVE_ACK (R35, R168). -/
def PointStands (s : State) (p : Fin 48) : Prop :=
  (s.alarm.points[p]).state = .activeUnack ∨ (s.alarm.points[p]).state = .activeAck

/-- A TRIP-class alarm point is active (R35, R168). -/
def TripPointStands (s : State) : Prop := ∃ p : Fin 48, (s.act.points[p]).cls = .trip ∧ PointStands s p

/-- A latching alarm point is active (R35). -/
def LatchedPointStands (s : State) : Prop := ∃ p : Fin 48, (s.act.points[p]).latching = true ∧ PointStands s p

/-- A PREFAIL record is crossed (R35, R173, R176). -/
def PrefailStands (s : State) : Prop :=
  ∃ i : Fin 13, (s.act.attrs[i]).cls = .prefail ∧ (s.attrs.recs[i]).norm ≤ (s.act.attrs[i]).threshold

/-- A station-table entry with role DRIVE is not FRESH (R33, R35; log 55 for one with no axis). -/
def DriveNotFresh (s : State) : Prop :=
  ∃ e : Fin 16, (s.act.stations[e]).number ≠ 0 ∧ (s.act.stations[e]).role = .drive
    ∧ ∀ r, s.stations[e] = some r → r.fresh ≠ .fresh

/-- An analog channel is SETTLING (R33, R35). -/
def AnalogSettles (s : State) : Prop := ∃ ch : Fin 4, (s.analog[ch]).ready = false

/-- A brake channel is not SET (R33, R35, R168). -/
def BrakeNotSet (s : State) : Prop := ∃ c, (s.brakes.get c).state ≠ .set

/-- The trip-hold option is set and the trip record queue is not empty (R32, R33). -/
def RecordsHeld (s : State) : Prop := s.act.options.tripHold = true ∧ s.trip.queue ≠ []

/-- The own station number is neither 0 nor 63 (R26, R32). -/
def StationGood (s : State) : Prop := 1 ≤ s.ring.own.toNat ∧ s.ring.own.toNat ≤ 62

/-- A speed lies inside a channel's zero-speed band (R47). -/
def Standstill (s : State) (c : Chan) (x : Axis) : Prop :=
  (s.feedback.get x).speed.natAbs ≤ (s.act.brake.get c).band

/-! The steps of a brake channel's record, each from the record `ch` to the record `ch'`. -/

/-- A channel enters SETTING with given confirm marks (R57). -/
def EntersSetting (s : State) (c : Chan) (marks : Pair Bool) (ch ch' : Channel) : Prop :=
  ch' = { ch.stopTimers with
      state := .setting, due := none, proved := false, armed := false, confirm := marks, hardSet := ch'.hardSet
      tSet := some (s.now + (s.act.brake.get c).setConfirm) }
    ∧ (ch'.hardSet = true ↔ ∃ x ∈ axesOf c, ¬Standstill s c x)

/-- A channel in RELEASED begins to set, under the minimum release dwell (R54). -/
def BeginsToSet (s : State) (c : Chan) (ch ch' : Channel) : Prop :=
  (ch.releasedTime.getD 0 + (s.act.brake.get c).minRelease ≤ s.now → EntersSetting s c ⟨false, false⟩ ch ch')
    ∧ (s.now < ch.releasedTime.getD 0 + (s.act.brake.get c).minRelease →
        ch' = { ch.stopTimers with
          state := .setPending, armed := false
          tDwell := some (ch.releasedTime.getD 0 + (s.act.brake.get c).minRelease) })

/-- A channel is quiet (R56). -/
def Quiet (s : State) (c : Chan) (ch : Channel) : Prop :=
  ch.state = .released ∧ ch.armed = true ∧ ∀ x ∈ axesOf c, Standstill s c x ∧ ch.lastSpeed.get x = 0

/-- What the test of quietness leaves of a channel: the autoset timer stopped, running on, or started, and with a delay
of 0 the expiry at once (R56; log 21). -/
def QuietTested (s : State) (c : Chan) (ch ch' : Channel) : Prop :=
  (¬Quiet s c ch → ch' = { ch with tAutoset := none })
    ∧ (Quiet s c ch → ch.tAutoset ≠ none → ch' = ch)
    ∧ (Quiet s c ch → ch.tAutoset = none →
        ((s.act.brake.get c).autoset ≠ 0 → ch' = { ch with tAutoset := some (s.now + (s.act.brake.get c).autoset) })
        ∧ ((s.act.brake.get c).autoset = 0 → BeginsToSet s c ch ch'))

/-- The standing request is HOLD, or stands as HOLD under the parking hold (R28, R53). -/
def HoldStands (s : State) (c : Chan) : Prop := s.held c = true ∨ (s.brakes.get c).standing = .hold

/-- Some other channel whose entry against this one is BARRED is not SET (R48, R50, R51). -/
def Barred (s : State) (c : Chan) : Prop :=
  ∃ i, i ≠ c ∧ (s.act.matrix.get i).get c = none ∧ (s.brakes.get i).state ≠ .set

/-- The release-due time of a channel: the latest of its set time plus its minimum set dwell and, for each other channel
that is SET and whose entry is a delay, that channel's set time plus the delay (R50). -/
def DueAt (s : State) (c : Chan) (due : Nat) : Prop :=
  (s.brakes.get c).setTime + (s.act.brake.get c).minSet ≤ due
    ∧ (∀ i d, i ≠ c → (s.act.matrix.get i).get c = some d → (s.brakes.get i).state = .set →
        (s.brakes.get i).setTime + d ≤ due)
    ∧ (due = (s.brakes.get c).setTime + (s.act.brake.get c).minSet
        ∨ ∃ i d, i ≠ c ∧ (s.act.matrix.get i).get c = some d ∧ (s.brakes.get i).state = .set
            ∧ due = (s.brakes.get i).setTime + d)

/-- The condition of a release request beyond the channel being SET and the field asking for it: the mode permits the
axis, no parking hold stands, and every drive of the channel is FRESH and heard from (R50). -/
def Releasable (s : State) (x : Axis) : Prop :=
  permits s.mode x = true ∧ s.held (chanOf x) = false
    ∧ ∀ y ∈ axesOf (chanOf x), s.driveFresh y = true ∧ (s.feedback.get y).updated = true

/-- A Reference asks for release: RELEASE, or RELEASE_AUTOSET with a non-zero lever (R50). -/
def AsksRelease (r : Ref) : Prop := r.brake = .release ∨ (r.brake = .releaseAutoset ∧ r.lever ≠ 0#16)

/-- A Drive Status says that a brake the channel holds is off, or that the axis moves where no test segment runs (R59,
R60). -/
def Contradicts (s : State) (x : Axis) : Prop :=
  (s.feedback.get x).brake = .released ∨ (s.feedback.get x).brake = .fault
    ∨ (¬Standstill s (chanOf x) x ∧ s.segmentRuns (chanOf x) = false)

/-- A trip is on record: a record of that cause, both lines, with that triggering frame, taken in the mode before, first
out unless the mode was TRIPPED (R157, R158, R161, R163). -/
def TripRecorded (s : State) (cause : TripCause) (frame : Option (List Byte)) (t : State) : Prop :=
  ∃ r ∈ t.trip.queue, r.cause = cause ∧ r.action = .both ∧ r.firstOut = decide (s.mode ≠ .tripped) ∧ r.frame = frame
    ∧ r.mode = s.mode ∧ r.number = s.trip.next ∧ r.minutes = s.attrs.minutes

/-- The raw value of a conversion (R145; log 33 for a reference at or below ground). -/
def RawValues : Prop :=
  ∀ input ref : Int,
    (input ≤ 0 → rawOf input ref = 0) ∧ (0 < input → ref ≤ input → rawOf input ref = 4095)
      ∧ (0 < input → input < ref → (rawOf input ref : Int) = input * 4095 / ref)

/-! Points and sources. -/

/-- A value lies in the met zone of a point (R128). -/
def MetZone (c : PointCfg) (v : Int) : Prop :=
  (c.dir = .above ∧ c.setThr ≤ v) ∨ (c.dir = .below ∧ v ≤ c.setThr)

/-- A value lies in the clear zone of a point and not in its met zone (R128). R127 keeps the thresholds apart; that a value
in both zones, which only the thresholds of a loaded region leave, counts as met is the model's choice (log 50). -/
def ClearZone (c : PointCfg) (v : Int) : Prop :=
  ¬MetZone c v ∧ ((c.dir = .above ∧ v ≤ c.clearThr) ∨ (c.dir = .below ∧ c.clearThr ≤ v))

/-- A point takes a state and a mark, and nothing else changes but what a change of a point records: its value, validity
and time, its place in the active list, and the marks of the notices (R129, R139, R141). -/
def PointTakes (s : State) (p : Fin 48) (st : PState) (mark : Bool) (t : State) : Prop :=
  OnlyPoints s { t with heldTrips := s.heldTrips }
    ∧ (t.alarm.points[p]).state = st ∧ (t.alarm.points[p]).mark = mark
    ∧ (∀ q : Fin 48, q ≠ p → t.alarm.points[q] = s.alarm.points[q])
    ∧ (st = (s.alarm.points[p]).state → mark = (s.alarm.points[p]).mark → { t with heldTrips := s.heldTrips } = s)
    ∧ ((st ≠ (s.alarm.points[p]).state ∨ mark ≠ (s.alarm.points[p]).mark) →
        (t.alarm.points[p]).chValue = (s.changeSource p).value ∧ (t.alarm.points[p]).chValid = (s.changeSource p).valid
          ∧ (t.alarm.points[p]).chTime = s.now ∧ t.owed[p] = true)
    ∧ (st.listed = true → (s.alarm.points[p]).state.listed = false → t.alarm.list = s.alarm.list ++ [p])
    ∧ (st.listed = true → (s.alarm.points[p]).state.listed = true → t.alarm.list = s.alarm.list)
    ∧ (st.listed = false → (st ≠ (s.alarm.points[p]).state ∨ mark ≠ (s.alarm.points[p]).mark) →
        t.alarm.list = s.alarm.list.filter (fun q => q != p))

/-- The points re-armed at a change of mode from the state before to the mode of the state after (R135): an enabled point
that is NORMAL or DELAYING and not armed in the new mode is DISARMED, one that is DISARMED and armed there is NORMAL,
with the change recorded (R129); every other point is as it was, and so is the active list. -/
def Rearmed (s t : State) : Prop :=
  (∀ (p : Fin 48) (c : PointCfg) (r : PointRun) (next : PState), c = s.act.points[p] → r = s.alarm.points[p] →
      c.enabled = true →
      (((r.state = .normal ∨ r.state = .delaying) ∧ c.mask.getLsbD t.mode.code = false ∧ next = .disarmed)
        ∨ (r.state = .disarmed ∧ c.mask.getLsbD t.mode.code = true ∧ next = .normal)) →
      t.alarm.points[p] =
        { state := next, mark := false, tDelay := none, tShelf := none, since := none
          chValue := (s.source c.source).value, chValid := (s.source c.source).valid, chTime := s.now })
    ∧ (∀ (p : Fin 48) (c : PointCfg) (r : PointRun), c = s.act.points[p] → r = s.alarm.points[p] →
        (c.enabled = false
          ∨ ((r.state = .normal ∨ r.state = .delaying) ∧ c.mask.getLsbD t.mode.code = true)
          ∨ (r.state = .disarmed ∧ c.mask.getLsbD t.mode.code = false)
          ∨ r.state = .activeUnack ∨ r.state = .activeAck ∨ r.state = .returnedUnack ∨ r.state = .shelved) →
        t.alarm.points[p] = r)
    ∧ (ActiveListExact s → t.alarm.list = s.alarm.list)

/-! Trips. -/

/-- What a trip's record holds, captured from the machine as it stands (R161, R162): the walk phase and the tub-raised flag
in WALK_PREP and WALKING alone, five axis snapshots, and the first eight points of the active list without the one that
caused the trip. The count of milliseconds reads as 32 bits (log 1). -/
def Captured (s : State) (i : TripIn) (first : Bool) (r : TripRecord) : Prop :=
  r.number = s.trip.next ∧ r.time = s.now % 4294967296 ∧ r.minutes = s.attrs.minutes
    ∧ r.cause = i.cause ∧ r.action = i.action ∧ r.frame = i.frame ∧ r.firstOut = first ∧ r.mode = s.mode
    ∧ ((s.mode = .walkPrep ∨ s.mode = .walking) →
        r.phase = some s.walk.phase
          ∧ (s.walk.phase = none → r.tubRaised = some false)
          ∧ (s.walk.phase ≠ none → r.tubRaised = some s.walk.tubRaised))
    ∧ (s.mode ≠ .walkPrep → s.mode ≠ .walking → r.phase = none ∧ r.tubRaised = none)
    ∧ (∀ x, (r.snapshots.get x).speed = (s.feedback.get x).speed
        ∧ (r.snapshots.get x).position = (s.feedback.get x).position
        ∧ (r.snapshots.get x).current = (s.feedback.get x).current
        ∧ (r.snapshots.get x).chan = (s.brakes.get (chanOf x)).state
        ∧ ((r.snapshots.get x).stale = true ↔ s.driveFresh x = false ∨ (s.feedback.get x).updated = false))
    ∧ ((∀ p, i.cause ≠ .point p) → r.coActive = s.alarm.list.take 8)
    ∧ ∀ p, i.cause = .point p → r.coActive = (s.alarm.list.filter fun q => q != p).take 8

/-- What the trip unit leaves of its record queue (R163): a record appended, or with 32 held, counted as not stored; its
number is used either way. -/
def RecordTaken (s : State) (r : TripRecord) (t : State) : Prop :=
  (s.trip.queue.length < 32 → t.trip.queue = s.trip.queue ++ [r] ∧ t.trip.notStored = s.trip.notStored)
    ∧ (32 ≤ s.trip.queue.length →
        t.trip.queue = s.trip.queue
          ∧ (s.trip.notStored < 65535 → t.trip.notStored = s.trip.notStored + 1)
          ∧ (65535 ≤ s.trip.notStored → t.trip.notStored = s.trip.notStored))
    ∧ (s.trip.next < 4294967295 → t.trip.next = s.trip.next + 1)
    ∧ (4294967295 ≤ s.trip.next → t.trip.next = s.trip.next)

/-- No point watches the sources that a trip hands within its own event (R88, R89, R166). -/
def TripUnwatched (s : State) : Prop :=
  s.pointsOn 54 = [] ∧ s.pointsOn 55 = [] ∧ (s.mode = .dig → s.tight.start = none ∨ s.pointsOn 37 = [])

/-- What the set-all of a trip does to a channel (R63). -/
def TripSet (s : State) (c : Chan) (ch ch' : Channel) : Prop :=
  (ch.state = .releasePending → ch' = { ch.stopTimers with state := .set, due := none, proved := false })
    ∧ ((ch.state = .releasing ∨ ch.state = .released ∨ ch.state = .setPending) →
        EntersSetting s c ⟨false, false⟩ ch ch')
    ∧ ((ch.state = .set ∨ ch.state = .setting ∨ ch.state = .fault) → ch' = ch)

/-- Parking that finds all four channels SET after the parking set-all: the mode is PARKED at once, with the slot empty, no
hold, the channels as the set-all left them, and the points re-armed (R39, R40, R62, R135). -/
def ParkedAtOnce (s t : State) : Prop :=
  t.mode = .parked ∧ t.ctl.slot = none ∧ t.ctl.hold = .none ∧ t.ctl.entryTime = s.now ∧ t.ctl.refusal = s.ctl.refusal
    ∧ t.brakes = (parkingSetAll s).brakes ∧ t.trip = s.trip ∧ Rearmed s t

/-! Walk preparation. -/

/-- The walk-preparation conditions, all together, with the heading check (R99, R116). One on a sensor channel above 15,
which only a loaded region can hold, fails (log 50). -/
def PrepReady (s : State) : Prop :=
  (s.driveFresh .hoist = true ∧ s.feedback.hoist.updated = true ∧ s.act.walk.grounded ≤ s.feedback.hoist.position
      ∧ s.feedback.hoist.current.natAbs ≤ s.act.walk.slack)
    ∧ (s.driveFresh .swing = true ∧ s.feedback.swing.updated = true
        ∧ (angleDiff s.feedback.swing.position s.act.walk.heading ≤ s.act.walk.headingTol
            ∨ angleDiff s.act.walk.heading s.feedback.swing.position ≤ s.act.walk.headingTol))
    ∧ (∃ v : Sensor, s.sensors[s.act.walk.boomChannel]? = some v ∧ v.valid = true ∧ s.act.walk.boomMin ≤ v.value
        ∧ v.value ≤ s.act.walk.boomMax)
    ∧ (∃ v : Sensor, s.sensors[s.act.walk.inclChannel]? = some v ∧ v.valid = true
        ∧ v.value.natAbs ≤ s.act.walk.inclLimit)
    ∧ (∀ x, isCam x = true →
        s.driveFresh x = true ∧ (s.feedback.get x).updated = true ∧ (s.feedback.get x).ready = true)
    ∧ s.brakes.walk.state = .set

/-- A walking session has begun (R42, R118, R120). -/
def WalkBegun (s t : State) : Prop :=
  t.mode = .walking ∧ t.ctl.slot = none ∧ t.walk.steps = 0 ∧ t.walk.distance = 0 ∧ t.walk.stepMark = s.lagTurn
    ∧ t.walk.tConfirm = none ∧ t.walk.tTimeout = none ∧ t.brakes = s.brakes ∧ t.trip = s.trip

/-- Nothing stands against the entry to WALKING: no cam-reversal flag to be handed, and no skew above its trip limit
(R120). -/
def WalkClear (s : State) : Prop :=
  s.walk.camReversal = false ∧ ∀ k, s.walk.skew = some k → k ≤ s.act.walk.tripLimit

/-- What the entry to WALKING from WALK_PREP leaves, with no trip held and where no point watches the cam-reversal flag
or it does not change (R120). With the skew within its limit a session has begun, the reversal marks clear and a change of
the flag handed. With the skew above it the machine has tripped in the event, with a record of cause SKEW that holds no
triggering frame and was captured in WALKING (R110, R157, R161), its time modulo 2^32 (log 1); stated where no point
watches what the trip hands. -/
def WalkEntered (s t : State) : Prop :=
  (s.walk.camReversal = false ∨ s.pointsOn 77 = []) →
    ((∀ k, s.walk.skew = some k → k ≤ s.act.walk.tripLimit) →
      WalkBegun s t ∧ Rearmed s t ∧ t.walk.reversal = ⟨false, false⟩
        ∧ (s.updates = none → s.walk.camReversal = true → t.source 77 = { value := 0, valid := true })
        ∧ (s.walk.camReversal = false → t.source 77 = s.source 77))
    ∧ ∀ k, s.walk.skew = some k → s.act.walk.tripLimit < k → s.updates = none → TripUnwatched s → ActiveListExact s →
        t.mode = .tripped ∧ t.ctl.slot = none ∧ t.trip.field = .deEnergised ∧ t.trip.brake = .deEnergised
          ∧ (∃ r, Captured { s with ctl := { s.ctl with mode := .walking } }
              { cause := .skew, action := .both, frame := none } true r ∧ RecordTaken s r t)
          ∧ t.walk = { s.walk with
              steps := 0, distance := 0, reversal := ⟨false, false⟩, stepMark := none, tConfirm := none
              tTimeout := none }
          ∧ (s.walk.camReversal = true → t.source 77 = { value := 0, valid := true })
          ∧ (s.walk.camReversal = false → t.source 77 = s.source 77)
          ∧ ∀ c, TripSet s c (s.brakes.get c) (t.brakes.get c)

/-- What a WALK carried out in PARKED leaves: WALK_PREP with its timers, or, with a confirm time of 0 and the conditions
holding, a walking session at once (R117, R118, R42; log 50 for a condition on a sensor channel above 15). -/
def WalkTaken (u t : State) : Prop :=
  ((u.act.walk.prepConfirm ≠ 0 ∨ ¬PrepReady u) →
      t.mode = .walkPrep ∧ t.ctl.slot = none ∧ t.walk.tTimeout = some (u.now + u.act.walk.prepTimeout)
        ∧ t.trip = u.trip ∧ t.brakes = u.brakes ∧ Rearmed u t
        ∧ (u.walk.tConfirm = none → PrepReady u → t.walk.tConfirm = some (u.now + u.act.walk.prepConfirm))
        ∧ (u.walk.tConfirm = none → ¬PrepReady u → t.walk.tConfirm = none))
    ∧ (u.act.walk.prepConfirm = 0 → PrepReady u → u.walk.tConfirm = none → WalkClear u → WalkBegun u t)

/-! A drive that goes STALE, and the end of a brake test. -/

/-- What the set request of a drive going STALE does to a channel (R64). -/
def StaleSet (s : State) (c : Chan) (ch ch' : Channel) : Prop :=
  (ch.state = .releasePending → ch' = { ch.stopTimers with state := .set, due := none, proved := false })
    ∧ (ch.state = .releasing → EntersSetting s c ⟨false, false⟩ ch ch')
    ∧ (ch.state = .released → BeginsToSet s c ch ch')
    ∧ ((ch.state = .set ∨ ch.state = .setPending ∨ ch.state = .setting ∨ ch.state = .fault) → ch' = ch)

/-- The results of a test that ends: those recorded, and NOT_FINISHED for a segment reached and not finished (R189). -/
def EndResults (s : State) (rs : List SegResult) : Prop :=
  (∀ c, (s.tester.phase = some .ramp ∨ s.tester.phase = some .hold) → s.testChan = some c →
      rs = s.tester.results ++ [{ chan := c, slip := none, outcome := .notFinished }])
    ∧ ((s.tester.phase = none ∨ s.tester.phase = some .waiting) → rs = s.tester.results)

/-- A running test has ended: the status, the timers stopped, the number and the segment absent, and the descriptor
written into the slot after the pointer (R189, R190). -/
def TestStopped (s t : State) (st : TestStatus) (failing : Option Chan) (results : List SegResult) : Prop :=
  t.tester.status = st ∧ t.tester.number = none ∧ t.tester.segment = none ∧ t.tester.phase = none
    ∧ t.tester.results = results
    ∧ t.tester.tRamp = none ∧ t.tester.tHold = none ∧ t.tester.tPeriod = none ∧ t.tester.tResume = none
    ∧ t.tester.tSuspend = none
    ∧ t.tester.pointer = (if s.tester.pointer = 12 then 1 else s.tester.pointer + 1)
    ∧ ∀ n, s.tester.number = some n →
        t.tester.log = s.tester.log.setIfInBounds (t.tester.pointer - 1)
          (some { number := n, status := st, minutes := s.attrs.minutes, failing := failing, results := results })

/-- A running test has ended other than by a trip, and the mode is PARKED (R189, R190, R43). -/
def TestEnded (s t : State) (st : TestStatus) (failing : Option Chan) (results : List SegResult) : Prop :=
  t.mode = .parked ∧ TestStopped s t st failing results

/-- The final test Reference of a segment (R185): for the axis of the channel, for WALK that of the walk turn, with speed
0 and torque 0. For WALK the turn passes with it (log 45), and the second final, for the other walk axis, is left to
build until OUT has taken the first, or is built at once where OUT takes the first at once. -/
def FinalReferenceOut (s : State) (c : Chan) (t : State) : Prop :=
  ∀ (x : Axis) (e : Fin 16), x = s.testAxis c → s.driveEntry x = some e →
    TestRefOut x 0 0 t
      ∧ (c = .walk →
          (s.ring.sending ≠ none → t.tester.secondFinal = some (otherCam x) ∧ t.testQueued = true)
          ∧ (s.ring.sending = none → s.ring.fwd = [] →
              t.tester.secondFinal = none
                ∧ ((∃ d, s.driveEntry (otherCam x) = some d) → TestRefOut (otherCam x) 0 0 t)))

/-- What the lever of a console Reference leaves of a running test (R74, R187, R188): the lever memory takes it; with the
test IN_PROGRESS a lever other than 0 ends it or suspends it by the policy; SUSPENDED, the resume timer runs while all
levers are 0, and any other stops it. `levers` is the memory with the lever written, and `brakes` and the Status Notice's
mark are what the standing request left. -/
def LeverTaken (s : State) (lever : Int) (levers : PerAxis Int) (t : State) : Prop :=
  (s.tester.status = .inProgress → lever = 0 →
      t = { s with brakes := t.brakes, statusOwed := t.statusOwed, tester := { s.tester with levers := levers } })
    ∧ (s.tester.status = .inProgress → lever ≠ 0 → s.act.test.policy = .abort → s.heldTrips = [] →
        (∃ rs, EndResults s rs ∧ TestEnded s t .abortedOperator none rs)
          ∧ t.ring.ins = s.ring.ins.filter (fun e => !e.isTest) ∧ t.tester.secondFinal = none
          ∧ t.tester.levers = levers ∧ t.trip = s.trip ∧ t.attrs = s.attrs)
    ∧ (s.tester.status = .inProgress → lever ≠ 0 → s.act.test.policy = .suspend →
        t = { s with
              brakes := t.brakes, statusOwed := true
              ring := { s.ring with ins := s.ring.ins.filter (fun e => !e.isTest) }
              tester := { s.tester with
                levers := levers, status := .suspended, tRamp := none, tHold := none, tPeriod := none
                reached := ⟨false, false⟩, start := none, tSuspend := some (s.now + 60000), tResume := none
                secondFinal := none } })
    ∧ (s.tester.status = .suspended → (∀ x, levers.get x = 0) →
        t = { s with
              brakes := t.brakes, statusOwed := t.statusOwed
              tester := { s.tester with
                levers := levers, tResume := some (s.tester.tResume.getD (s.now + 2000)) } })
    ∧ (s.tester.status = .suspended → (∃ x, levers.get x ≠ 0) →
        t = { s with
              brakes := t.brakes, statusOwed := t.statusOwed
              tester := { s.tester with levers := levers, tResume := none } })

/-! Start-up. -/

/-- The state after steps 1 and 2 of R201, in which the frames are taken that come at IN before steps 3 to 5: no table in
force and no station entry in use (R26, R193, R201), mode INIT, and the ring interface, the records of each block, the
sources and the points as a reset leaves them (R26, R123, R143); a write that was in flight in the store has ended
unfinished (R200). The INIT reason that holds there is log 32's. -/
def BeforeTables (s v : State) : Prop :=
  v.now = 0 ∧ v.ring.own = v.pins.straps ∧ v.ring.fwd = [] ∧ v.ring.ins = [] ∧ v.ring.sending = none
    ∧ v.ring.reserved = 0 ∧ v.ring.consec = 0 ∧ v.ring.insSeq = 0#8 ∧ v.ring.silence = some 50
    ∧ v.ring.snapshot = Vector.replicate 16 0#32 ∧ (∀ c, v.counter c = 0#32)
    ∧ v.tables.valid = false ∧ (∀ n, v.entryOf n = none) ∧ (∀ e : Fin 16, v.stations[e] = none)
    ∧ (StationGood v → v.ctl = { resetCtl with reason := .noTables })
    ∧ (¬StationGood v → v.ctl = { resetCtl with reason := .badStation })
    ∧ v.trip.field = .deEnergised ∧ v.trip.brake = .deEnergised
    ∧ (∀ x, v.feedback.get x = emptyFeedback) ∧ (∀ ch : Fin 4, v.analog[ch] = resetAin)
    ∧ (∀ ch : Fin 16, v.sensors[ch] = { value := 0, writer := none, valid := false })
    ∧ (∀ c, v.brakes.get c = resetChannel) ∧ v.tight = resetTight ∧ v.walk = resetWalk
    ∧ (∀ n, 1 ≤ n → n ≤ 79 → v.source n = { value := 0, valid := false })
    ∧ (∀ p : Fin 48, v.alarm.points[p] = resetPoint ∧ v.owed[p] = false) ∧ v.alarm.list = []
    ∧ v.store.state = .idle ∧ v.store.restartPending = false
    ∧ v.store.tablesRegion = (if s.store.state = .committing then .unfinished else s.store.tablesRegion)
    ∧ v.store.attrsRegion = (if s.store.state = .saving then .unfinished else s.store.attrsRegion)
    ∧ v.pending = s.pending

/-- Frames as received are taken one after the other, each as FRAME_TAKEN_AT_IN takes it (R8 to R12). -/
def FramesTaken : List (List Byte) → State → State → Prop
  | [], v, w => w = v
  | bytes :: rest, v, w => ∃ u, exec (.frameTakenAtIn bytes) v = .next u ∧ FramesTaken rest u w

/-- The tables that a store region gives (R198, R201; log 7 for one that holds no table set). -/
def TablesFrom (region : Region) (t : State) : Prop :=
  match (regionContents region).bind tablesOf with
  | some a => t.tables = { active := a, staging := a, valid := true, committed := true }
  | none => t.tables = { active := emptyTables, staging := emptyTables, valid := false, committed := false }

/-- The wear and level records, the service minutes and the attributes-lost flag that a store region gives, the
normalised and worst values worked out afresh (R179, R201; log 7 for one that holds no image, log 50 for a quotient by
0). -/
def AttrsFrom (region : Region) (t : State) : Prop :=
  match (regionContents region).bind imageOf with
  | some (v, minutes) =>
    t.attrs.minutes = minutes ∧ t.store.attrsLost = false
      ∧ ∀ i : Fin 13,
          (t.attrs.recs[i]).raw = (v[i]).raw ∧ (t.attrs.recs[i]).never = (v[i]).never
            ∧ (t.attrs.recs[i]).worst = min (v[i]).worst (t.attrs.recs[i]).norm
            ∧ (∀ c, marginOf c = i → (v[i]).never = true → (t.attrs.recs[i]).norm = 100)
            ∧ (∀ c, marginOf c = i → (v[i]).never = false →
                (t.attrs.recs[i]).norm = max 1 (min 100 (100 - quotient (99 * (v[i]).raw) (t.act.test.slip.get c))))
            ∧ ((∀ c, marginOf c ≠ i) →
                (t.attrs.recs[i]).norm = max 1 (min 100 (100 - quotient (99 * (v[i]).raw) (t.act.attrs[i]).life)))
  | none =>
    t.attrs.minutes = 0 ∧ t.store.attrsLost = true
      ∧ ∀ i : Fin 13, t.attrs.recs[i] = { raw := 0, norm := 100, worst := 100, never := true }

/-- The records and the service minutes that a RESTART keeps, the normalised and worst values worked out under the tables
loaded (R170, R173, R179; log 50 for a quotient by 0). -/
def AttrsKept (s t : State) : Prop :=
  t.attrs.minutes = s.attrs.minutes
    ∧ ∀ i : Fin 13,
        (t.attrs.recs[i]).raw = (s.attrs.recs[i]).raw ∧ (t.attrs.recs[i]).never = (s.attrs.recs[i]).never
          ∧ (t.attrs.recs[i]).worst = min (s.attrs.recs[i]).worst (t.attrs.recs[i]).norm
          ∧ (∀ c, marginOf c = i → (s.attrs.recs[i]).never = true → (t.attrs.recs[i]).norm = 100)
          ∧ (∀ c, marginOf c = i → (s.attrs.recs[i]).never = false →
              (t.attrs.recs[i]).norm
                = max 1 (min 100 (100 - quotient (99 * (s.attrs.recs[i]).raw) (t.act.test.slip.get c))))
          ∧ ((∀ c, marginOf c ≠ i) →
              (t.attrs.recs[i]).norm = min (s.attrs.recs[i]).norm
                (max 1 (min 100 (100 - quotient (99 * (s.attrs.recs[i]).raw) (t.act.attrs[i]).life))))

/-- The state of a station entry when the tables come into force (R21). -/
def EntriesStarted (now : Nat) (t : State) : Prop :=
  ∀ e : Fin 16, t.stations[e] =
    if (t.act.stations[e]).number = 0 then none
    else some { fresh := .stale, expiries := 1, timer := some (now + (t.act.stations[e]).timeout), lastSeq := none,
                gaps := 0, lastArrival := none }

/-- The first updates of the station entries and of the wear and level records (R123); an update handed with INVALID
keeps the value held before. -/
def FirstUpdates (before : Fin 16 → Int) (t : State) : Prop :=
  (∀ e : Fin 16, t.source (38 + e.val) =
      if (t.act.stations[e]).number = 0 then { value := before e, valid := false } else { value := 1, valid := true })
    ∧ ∀ i : Fin 13, t.source (56 + i.val) = { value := (t.attrs.recs[i]).norm, valid := true }

/-- What steps 3 to 5 of R201 leave of the state in which the frames before them have been taken: the tables from the
store region, the entries started, the sources handed, the minute timer running and the Status Notice owed or built; what
the frames did to the ring interface stands (R26, R201). -/
def StartEnds (w t : State) : Prop :=
  TablesFrom w.store.tablesRegion t ∧ EntriesStarted w.now t ∧ FirstUpdates (fun e => (w.source (38 + e.val)).value) t
    ∧ t.source 79 = { value := (w.counter .removedRefusedRef).toNat, valid := true }
    ∧ t.now = w.now ∧ t.pins = w.pins ∧ t.ring.own = w.ring.own ∧ t.ring.fwd = w.ring.fwd
    ∧ t.ring.silence = w.ring.silence ∧ t.ring.snapshot = w.ring.snapshot ∧ (∀ c, t.counter c = w.counter c)
    ∧ t.feedback = w.feedback ∧ t.sensors = w.sensors ∧ t.analog = w.analog
    ∧ t.attrs.tMinute = some (w.now + 60000) ∧ t.store = { w.store with attrsLost := t.store.attrsLost }
    ∧ (StationGood t → t.statusOwed = true ∨ Inserted .status 63#8 8#4 t.statusFields t)
    ∧ t.pending = w.pending

/-- What the steps of R201 leave of everything that a RESTART does not keep: the ring interface as after reset (R26), the
records of each block, the tables from the store region `region` (log 7), the first updates of the sources (R123), and the
points of R143 while no enabled point watches a source that is handed with VALID. -/
def StartedUp (region : Region) (t : State) : Prop :=
  t.now = 0 ∧ t.ring.own = t.pins.straps ∧ t.ring.fwd = [] ∧ t.ring.reserved = 0 ∧ t.ring.consec = 0
    ∧ t.ring.silence = some 50 ∧ t.ring.snapshot = Vector.replicate 16 0#32 ∧ (∀ c, t.counter c = 0#32)
    ∧ (¬StationGood t → t.ring.ins = [] ∧ t.ring.sending = none ∧ t.ring.insSeq = 0#8)
    ∧ (StationGood t → Inserted .status 63#8 8#4 t.statusFields t)
    ∧ TablesFrom region t ∧ EntriesStarted 0 t ∧ FirstUpdates (fun _ => 0) t
    ∧ (∀ x, t.feedback.get x = emptyFeedback) ∧ (∀ ch : Fin 4, t.analog[ch] = resetAin)
    ∧ (∀ ch : Fin 16, t.sensors[ch] = { value := 0, writer := none, valid := false })
    ∧ (∀ c, t.brakes.get c = resetChannel) ∧ t.tight = resetTight ∧ t.walk = resetWalk
    ∧ (t.mode = .init ∨ t.mode = .tripped) ∧ t.trip.field = .deEnergised ∧ t.trip.brake = .deEnergised
    ∧ (t.mode = .init → t.ctl = { resetCtl with reason := t.workedReason })
    ∧ t.attrs.tMinute = some 60000 ∧ t.store.state = .idle ∧ t.store.restartPending = false
    ∧ (t.source 54).valid = true ∧ (t.source 55).valid = true
    ∧ (∀ n, 69 ≤ n → n ≤ 79 → n ≠ 78 → t.source n = { value := 0, valid := true })
    ∧ (∀ n, 1 ≤ n → (n ≤ 37 ∨ n = 78) → t.source n = { value := 0, valid := false })
    ∧ (∀ p : Fin 48, (t.act.points[p]).enabled = false →
        t.alarm.points[p] = resetPoint ∧ p ∉ t.alarm.list ∧ t.owed[p] = false)
    ∧ ((∀ p : Fin 48, (t.act.points[p]).enabled = true → (t.act.points[p]).source < 38 ∨
          (t.act.points[p]).source = 78) →
        t.mode = .init ∧ t.alarm.list = []
          ∧ (∀ p : Fin 48, t.owed[p] = false ∧ t.alarm.points[p] =
              { state := if (t.act.points[p]).enabled = true ∧ (t.act.points[p]).mask.getLsbD 0 = true then .normal
                         else .disarmed
                mark := false, tDelay := none, tShelf := none, since := none, chValue := 0, chValid := false
                chTime := 0 }))

/-- What RESTART keeps of the trip records, the test log, and the wear and level records, worked out afresh under the
tables loaded (R202, R156, R170, R173, R179, R181, R190). -/
def KeptOver (s t : State) : Prop :=
  s.trip.queue <+: t.trip.queue ∧ s.trip.next ≤ t.trip.next ∧ s.trip.notStored ≤ t.trip.notStored
    ∧ (t.mode = .init →
        t.trip.queue = s.trip.queue ∧ t.trip.next = s.trip.next ∧ t.trip.notStored = s.trip.notStored
          ∧ t.source 54 = { value := s.trip.queue.length, valid := true }
          ∧ t.source 55 = { value := s.trip.notStored, valid := true })
    ∧ t.tester = { resetTester with
        status := t.tester.status, nextNumber := s.tester.nextNumber, completed := s.tester.completed
        count := s.tester.count, log := s.tester.log, pointer := s.tester.pointer }
    ∧ (∀ (i : Fin 12) (d : Descriptor), s.tester.pointer = i.val + 1 → s.tester.log[i] = some d →
        t.tester.status = d.status)
    ∧ ((∀ (i : Fin 12) (d : Descriptor), s.tester.pointer = i.val + 1 → s.tester.log[i] ≠ some d) →
        t.tester.status = .neverRun)
    ∧ AttrsKept s t

/-! Table fields. -/

/-- Bytes carry a value for a field of a form under a write mode (R191, R195): a number of its width, a name of its list, a
flag, a set of modes, an optional name, or a list of channels behind its count. The value of a flag is looked at under
WRITE alone. -/
def Carries (mode : Nat) : FieldForm → List Byte → Prop
  | .num n, bs => bs.length = n
  | .name k, bs => ∃ b : Byte, bs = [b] ∧ b.toNat < k
  | .flag, bs => ∃ b : Byte, bs = [b] ∧ (mode = 0 → b.toNat < 2)
  | .modes, bs => ∃ b : Byte, bs = [b] ∧ b.toNat < 128
  | .optName k, bs => bs = [0#8] ∨ ∃ b : Byte, bs = [1#8, b] ∧ b.toNat < k
  | .chans, bs => ∃ l : List Byte, bs = byte l.length :: l ∧ l.length ≤ 255 ∧ ∀ b ∈ l, b.toNat < 4

/-- What a marked field becomes under WRITE, SET, CLEAR and TOGGLE, as the table of R195 gives it. -/
def FieldBecomes (mode : Nat) (f : FieldForm) (old carried new : List Byte) : Prop :=
  (mode = 0 ∧ new = carried)
    ∨ (f = .flag ∧ ((mode = 1 ∧ new = [1#8]) ∨ (mode = 2 ∧ new = [0#8]) ∨ (mode = 3 ∧ new = [head old ^^^ 1#8])))
    ∨ (f = .modes ∧ ((mode = 1 ∧ new = [head old ||| head carried]) ∨ (mode = 2 ∧ new = [head old &&& ~~~ head carried])
        ∨ (mode = 3 ∧ new = [head old ^^^ head carried])))

/-- The fields of an entry after an accepted WRITE_TABLE: an unmarked field keeps its bytes, and each marked one becomes
what the mode makes of the value carried for it, the values standing in field order with nothing left over (R195). -/
def Written (mode : Nat) : List FieldBytes → List Byte → List Byte → List (List Byte) → Prop
  | [], [], values, new => values = [] ∧ new = []
  | (f, old) :: fs, m :: ms, values, b :: bs =>
    (m = 0#8 ∧ b = old ∧ Written mode fs ms values bs)
      ∨ (m = 1#8 ∧ ∃ carried rest, values = carried ++ rest ∧ Carries mode f carried
          ∧ FieldBecomes mode f old carried b ∧ Written mode fs ms rest bs)
  | _, _, _, _ => False

/-! The forms of the Management Requests. -/

/-- The codes, lengths and arguments that make a Management Request: those of the table of R191, with a position, age,
part or copy outside its range none of them where its rule names no other answer (log 29). -/
def GoodRequest (code : Nat) (args : List Byte) : Prop :=
  (code ∈ [0, 4, 5, 6, 7, 14, 15, 18] ∧ args = [])
    ∨ (code = 1 ∧ ∃ p : Byte, args = [p] ∧ (p = 1#8 ∨ p = 2#8))
    ∨ (code = 2 ∧ ∃ c t e : Byte, args = [c, t, e] ∧ (c = 0#8 ∨ c = 1#8))
    ∨ (code = 3 ∧ ∃ (t e : Byte) (rest : List Byte), args = t :: e :: rest)
    ∨ (code = 8 ∧ ∃ p : Byte, args = [p] ∧ 1 ≤ p.toNat ∧ p.toNat ≤ 5)
    ∨ (code = 9 ∧ ∃ i : Byte, args = [i])
    ∨ (code = 10 ∧ ∃ k : Byte, args = [k] ∧ k ≠ 0#8)
    ∨ (code = 11 ∧ ∃ k p : Byte, args = [k, p] ∧ 1 ≤ p.toNat ∧ p.toNat ≤ 3)
    ∨ (code = 12 ∧ ∃ n : Byte, args = [n])
    ∨ (code = 13 ∧ ∃ a : Byte, args = [a] ∧ a ≠ 0#8)
    ∨ (code = 16 ∧ ∃ e : Byte, args = [e] ∧ 1 ≤ e.toNat ∧ e.toNat ≤ 16)
    ∨ (code = 17 ∧ ∃ p c : Byte, args = [p, c] ∧ ((p = 1#8 ∧ (c = 0#8 ∨ c = 1#8)) ∨ (p = 2#8 ∧ c = 0#8)))

/-! The tests of ACTIVATE. -/

/-- A zone covers an angle: it lies on the way clockwise from the start angle to the end angle, both included (R90). -/
def Covers (z : ZoneCfg) (a : Nat) : Prop := ((a : Int) - z.start) % 3600 ≤ ((z.stop : Int) - z.start) % 3600

/-- The number of entries of the station table in use with a role. -/
def stationsOf (t : TableSet) (p : StationCfg → Bool) : Nat :=
  ((List.finRange 16).filter fun e => (t.stations[e]).number != 0 && p t.stations[e]).length

/-- Table 1, entries 1 to 16 and then entry 0 (R196, R21; log 14). -/
def stationTests (own : Nat) (t : TableSet) : List (Nat × Nat × Prop) :=
  (List.finRange 16).map (fun e => (1, e.val + 1, (t.stations[e]).number ≠ 0 →
      (1 ≤ (t.stations[e]).number ∧ (t.stations[e]).number ≤ 62)
        ∧ (10 ≤ (t.stations[e]).timeout ∧ (t.stations[e]).timeout ≤ 2000)
        ∧ ((t.stations[e]).role = .drive → (t.stations[e]).axis ≠ none)
        ∧ (t.stations[e]).number ≠ own
        ∧ ∀ d : Fin 16, d < e → (t.stations[d]).number ≠ (t.stations[e]).number))
    ++ [(1, 0, (∀ x, stationsOf t (fun c => c.role == .drive && c.axis == some x) = 1)
          ∧ (1 ≤ stationsOf t (fun c => c.role == .console) ∧ stationsOf t (fun c => c.role == .console) ≤ 2)
          ∧ 1 ≤ stationsOf t (fun c => c.role == .manager) ∧ stationsOf t (fun c => c.role == .manager) ≤ 2)]

/-- Table 2 (R30). -/
def modeTests (t : TableSet) : List (Nat × Nat × Prop) :=
  [(2, 0, t.mode.parkedDwell ≤ 60000 ∧ t.mode.digDwell ≤ 60000 ∧ t.mode.walkingDwell ≤ 60000
      ∧ (∀ x, t.mode.cap.get x ≤ 1000) ∧ t.mode.parkCode ≤ 168)]

/-- Table 3, the channels and then the matrix as entry 0 (R47, R48; log 30). R47 gives the proving current to HOIST and
DRAG; the range of SWING's and WALK's is checked too (log 13). -/
def brakeTests (t : TableSet) : List (Nat × Nat × Prop) :=
  [Chan.hoist, .drag, .swing, .walk].map (fun c => (3, chanPos c + 1,
      (t.brake.get c).minSet ≤ 10000 ∧ (t.brake.get c).minRelease ≤ 10000
        ∧ (100 ≤ (t.brake.get c).prove ∧ (t.brake.get c).prove ≤ 5000)
        ∧ (50 ≤ (t.brake.get c).releaseConfirm ∧ (t.brake.get c).releaseConfirm ≤ 5000)
        ∧ (50 ≤ (t.brake.get c).setConfirm ∧ (t.brake.get c).setConfirm ≤ 5000)
        ∧ (t.brake.get c).proving ≤ 200 ∧ (t.brake.get c).band ≤ 50 ∧ (t.brake.get c).autoset ≤ 5000))
    ++ [(3, 0, (∀ i j d, i ≠ j → (t.matrix.get i).get j = some d → d ≤ 10000)
          ∧ t.matrix.swing.walk = none ∧ t.matrix.walk.swing = none ∧ t.matrix.hoist.walk = none
          ∧ t.matrix.drag.walk = none)]

/-- Table 4, the drag globals as entry 0 and then the rows in use (R81; log 43). -/
def envelopeTests (t : TableSet) : List (Nat × Nat × Prop) :=
  (4, 0, (1 ≤ t.drag.rows ∧ t.drag.rows ≤ 32) ∧ t.drag.dragMin ≤ 3000 ∧ t.drag.dragMax ≤ 3000 ∧ t.drag.band ≤ 3000
      ∧ t.drag.slow ≤ 1000 ∧ t.drag.dragMin < t.drag.dragMax)
    :: (List.finRange 32).map fun i => (4, i.val + 1, i.val < t.drag.rows →
      (t.rows[i]).dragStart ≤ 3000 ∧ (t.rows[i]).hoistMin ≤ 3000 ∧ (t.rows[i]).hoistMax ≤ 3000
        ∧ (t.rows[i]).band ≤ 3000 ∧ (t.rows[i]).slow ≤ 1000 ∧ (t.rows[i]).hoistMin < (t.rows[i]).hoistMax
        ∧ (i.val = 0 → (t.rows[i]).dragStart = 0)
        ∧ ∀ j : Fin 32, j.val + 1 = i.val → (t.rows[j]).dragStart < (t.rows[i]).dragStart)

/-- Table 5 (R91): no two zones in use cover a common angle, and no NO_ENTRY zone covers the walk heading. -/
def zoneTests (t : TableSet) : List (Nat × Nat × Prop) :=
  (List.finRange 8).map fun i => (5, i.val + 1, (t.zones[i]).kind ≠ .unused →
    (t.zones[i]).start ≤ 3599 ∧ (t.zones[i]).stop ≤ 3599 ∧ (t.zones[i]).slow ≤ 1000 ∧ (t.zones[i]).band ≤ 900
      ∧ (t.zones[i]).start ≠ (t.zones[i]).stop
      ∧ (∀ j : Fin 8, j < i → (t.zones[j]).kind ≠ .unused → ∀ a, ¬(Covers t.zones[j] a ∧ Covers t.zones[i] a))
      ∧ ((t.zones[i]).kind = .noEntry → ¬Covers t.zones[i] t.walk.heading))

/-- Table 6: entry 0, the sectors in use, and the last of them (R103, R104). -/
def sectorTests (t : TableSet) : List (Nat × Nat × Prop) :=
  (6, 0, ((6 ≤ t.walk.sectors ∧ t.walk.sectors ≤ 8) ∧ (1 ≤ t.walk.trimLimit ∧ t.walk.trimLimit ≤ 1800)
        ∧ t.walk.trimPercent ≤ 90 ∧ (2 ≤ t.walk.tripLimit ∧ t.walk.tripLimit ≤ 3600) ∧ t.walk.reversal ≤ 900
        ∧ (1 ≤ t.walk.stride ∧ t.walk.stride ≤ 100) ∧ t.walk.heading ≤ 3599 ∧ t.walk.headingTol ≤ 1800
        ∧ t.walk.grounded ≤ 3000 ∧ t.walk.slack ≤ 300 ∧ t.walk.boomChannel ≤ 15
        ∧ (-32768 ≤ t.walk.boomMin ∧ t.walk.boomMin ≤ 32767) ∧ (-32768 ≤ t.walk.boomMax ∧ t.walk.boomMax ≤ 32767)
        ∧ t.walk.inclChannel ≤ 15 ∧ t.walk.inclLimit ≤ 32767 ∧ t.walk.prepConfirm ≤ 60000
        ∧ (1000 ≤ t.walk.prepTimeout ∧ t.walk.prepTimeout ≤ 600000))
      ∧ t.walk.trimLimit < t.walk.tripLimit ∧ t.walk.prepConfirm < t.walk.prepTimeout
      ∧ t.walk.boomMin ≤ t.walk.boomMax ∧ t.walk.boomChannel ≠ t.walk.inclChannel)
    :: (List.finRange 8).map (fun i => (6, i.val + 1, i.val < t.walk.sectors →
        (t.sectors[i]).start ≤ 3599 ∧ (t.sectors[i]).cap ≤ 1000
          ∧ (i.val = 0 → (t.sectors[i]).start = 0 ∧ (t.sectors[i]).phase = .home)
          ∧ ∀ j : Fin 8, j.val + 1 = i.val →
              (t.sectors[j]).start < (t.sectors[i]).start ∧ (t.sectors[j]).phase.code ≤ (t.sectors[i]).phase.code))
    ++ [(6, t.walk.sectors, (∃ i : Fin 8, i.val + 1 = t.walk.sectors ∧ (t.sectors[i]).phase = .raise)
          ∧ ∀ p : Phase, ∃ i : Fin 8, i.val < t.walk.sectors ∧ (t.sectors[i]).phase = p)]

/-- Table 7 (R127; the thresholds in the range of R126, log 15). -/
def pointTests (t : TableSet) : List (Nat × Nat × Prop) :=
  (List.finRange 48).map fun p => (7, p.val + 1, (t.points[p]).enabled = true →
    (1 ≤ (t.points[p]).source ∧ (t.points[p]).source ≤ 79)
      ∧ ((t.points[p]).dir = .above → (t.points[p]).clearThr < (t.points[p]).setThr)
      ∧ ((t.points[p]).dir = .below → (t.points[p]).setThr < (t.points[p]).clearThr)
      ∧ (-2147483648 ≤ (t.points[p]).setThr ∧ (t.points[p]).setThr ≤ 4294967295)
      ∧ (-2147483648 ≤ (t.points[p]).clearThr ∧ (t.points[p]).clearThr ≤ 4294967295)
      ∧ (t.points[p]).onDelay ≤ 60000
      ∧ ((t.points[p]).cls = .trip → (t.points[p]).action ≠ none))

/-- Table 8 (R146, R147). -/
def analogTests (t : TableSet) : List (Nat × Nat × Prop) :=
  (List.finRange 4).map fun i => (8, i.val,
    (-32768 ≤ (t.analog[i]).gain ∧ (t.analog[i]).gain ≤ 32767)
      ∧ (-32768 ≤ (t.analog[i]).offset ∧ (t.analog[i]).offset ≤ 32767)
      ∧ (t.analog[i]).rawLimit ≤ 4095 ∧ (1 ≤ (t.analog[i]).persistence ∧ (t.analog[i]).persistence ≤ 8)
      ∧ ((t.analog[i]).role = .boom →
          (-65536 ≤ (t.analog[i]).fatigue ∧ (t.analog[i]).fatigue ≤ 65535)
            ∧ (-65536 ≤ (t.analog[i]).reset ∧ (t.analog[i]).reset ≤ 65535)
            ∧ (t.analog[i]).reset < (t.analog[i]).fatigue
            ∧ ∀ j : Fin 4, j < i → (t.analog[j]).role ≠ .boom))

/-- Tables 9 and 10 (R172, R180). -/
def wearTests (t : TableSet) : List (Nat × Nat × Prop) :=
  (List.finRange 13).map (fun i => (9, i.val + 1,
      (1 ≤ (t.attrs[i]).life ∧ (t.attrs[i]).life ≤ 281474976710655) ∧ (t.attrs[i]).threshold ≤ 101))
    ++ [(10, 0, (1 ≤ t.test.segments.length ∧ t.test.segments.length ≤ 4) ∧ t.test.segments.Nodup
          ∧ (10 ≤ t.test.torque ∧ t.test.torque ≤ 200) ∧ (500 ≤ t.test.hold ∧ t.test.hold ≤ 10000)
          ∧ (1 ≤ t.test.slip.hoist ∧ t.test.slip.hoist ≤ 3000) ∧ (1 ≤ t.test.slip.drag ∧ t.test.slip.drag ≤ 3000)
          ∧ (1 ≤ t.test.slip.swing ∧ t.test.slip.swing ≤ 3600) ∧ (1 ≤ t.test.slip.walk ∧ t.test.slip.walk ≤ 3600))]

/-- Table 11 (R85, R193, R196), with the options in force and whether the trip record queue holds a record. -/
def optionTests (old : OptionsCfg) (records : Prop) (t : TableSet) : List (Nat × Nat × Prop) :=
  [(11, 0, (1 ≤ t.options.life ∧ t.options.life ≤ 15) ∧ (1 ≤ t.options.tightLevel ∧ t.options.tightLevel ≤ 300)
      ∧ t.options.onset ≤ 5000 ∧ t.options.tightTorque ≤ 300
      ∧ ¬(t.options.tripHold = true ∧ old.tripHold = false ∧ records))]

/-- The tests of ACTIVATE on the staging tables in the order R196 gives, each with the table and the entry that a failure
names. -/
def State.activateTests (s : State) : List (Nat × Nat × Prop) :=
  stationTests s.ring.own.toNat s.tables.staging ++ modeTests s.tables.staging ++ brakeTests s.tables.staging
    ++ envelopeTests s.tables.staging ++ zoneTests s.tables.staging ++ sectorTests s.tables.staging
    ++ pointTests s.tables.staging ++ analogTests s.tables.staging ++ wearTests s.tables.staging
    ++ optionTests s.act.options (s.trip.queue ≠ []) s.tables.staging

/-- The first test of a list that fails gives the answer; none, when all hold (R196). -/
def FirstFails : List (Nat × Nat × Prop) → Option (Nat × Nat) → Prop
  | [], r => r = none
  | (table, entry, holds) :: rest, r => (holds → FirstFails rest r) ∧ (¬holds → r = some (table, entry))

/-! The numbers of names in frames. -/

/-- A named value stands in a frame as its position in the list of its owning rule, unless a rule gives codes (R191). -/
def NamesByPosition : Prop :=
  [Mode.init, .parked, .dig, .walkPrep, .walking, .testing, .tripped].map Mode.code = List.range 7
    ∧ [InitReason.none, .badStation, .noTables, .holdRecords, .waiting].map InitReason.code = List.range 5
    ∧ [Target.dig, .walk, .park].map Target.code = List.range 3
    ∧ (∀ d, [Wait.dwell d, .brakes, .homePhase].map Wait.code = List.range 3)
    ∧ [Refused.none, .illegalTransition, .tripActive, .stationNotFresh, .analogSettling, .attrPrefail, .testRunning,
        .noTables, .walkPrepTimeout, .holdRecords, .brakesNotSet, .latchedActive, .shelveTripClass,
        .directLimit].map Refused.code = List.range 14
    ∧ [ChanState.set, .releasePending, .releasing, .released, .setPending, .setting, .fault].map ChanState.code
        = List.range 7
    ∧ [Line.energised, .deEnergised].map Line.code = List.range 2
    ∧ [TestStatus.neverRun, .inProgress, .suspended, .passed, .failedSlip, .failedNoTorque, .failedStale,
        .abortedOperator, .abortedTrip].map TestStatus.code = List.range 9
    ∧ [StoreState.idle, .committing, .saving].map StoreState.code = List.range 3
    ∧ [StoreResult.none, .ok, .storeFailed].map StoreResult.code = List.range 3
    ∧ [PState.normal, .delaying, .activeUnack, .activeAck, .returnedUnack, .shelved, .disarmed].map PState.code
        = List.range 7
    ∧ [PClass.trip, .warning, .advisory].map PClass.code = List.range 3
    ∧ [TripAction.field, .both].map TripAction.code = List.range 2
    ∧ [Fresh.fresh, .stale, .lost].map Fresh.code = List.range 3
    ∧ [Role.console, .drive, .sensor, .manager].map Role.code = List.range 4
    ∧ [AttrClass.prefail, .advisory].map AttrClass.code = List.range 2
    ∧ [SegOutcome.pass, .fail, .noTorque, .notFinished].map SegOutcome.code = List.range 4
    ∧ [some Phase.home, some .lower, some .lift, some .stride, some .setdown, some .raise, none].map phaseCode
        = List.range 7
    ∧ [Axis.hoist, .drag, .swing, .walkLeft, .walkRight].map axisPos = List.range 5
    ∧ [Chan.hoist, .drag, .swing, .walk].map chanPos = List.range 4
    ∧ [Status.ok, .badRequest, .badIndex, .wrongMode, .busy, .notAuthorised, .checkFailed, .storeFailed].map Status.code
        = List.range 8
    ∧ [Cause.none, .init, .mode, .stale, .envelope, .tightline, .zone, .walkPhase, .skewTrim, .walkDirection, .brake,
        .trip, .test, .parking].map Cause.code = List.range 14


end Sys2Proof.Machine
end

