-- ==== Sys2Proof/Certificates/Slice0/Obligations.lean ====
section
/-!
DEFINITION. The statements for the provers. Each is about every state and every operand that meets its premises; a frame
clause gives the next state as the state before with the named parts replaced. A time in a statement stands on the count
without a bound of log 1, and where a statement names the entry of a station or of an axis without spelling it, that is
the entry of log 56.
-/

open Sys2Proof Sys2Proof.Machine

/-! The step and the reset. -/

/-- A step with a command at the front of the queue is that command's effect with the queue's rest. That commands wait
in a queue that a step serves from the front is the model's choice (log 36). -/
def Obligations.StepRunsFrontCommand : Prop :=
  ∀ (c : Instr) (rest : List Instr) (s : State), s.pending = c :: rest → step s = exec c { s with pending := rest }

/-- A step with an empty queue lets one millisecond pass and queues, each once, exactly the expiries of the timers that
stand and have run out by then; no command touches the queue of waiting commands. That the tick is what a step does on
an empty queue, and that an expiry waits in the queue, is the model's choice (log 2). The count of milliseconds has no
bound (log 1), and a reset leaves the waiting commands (log 22). -/
def Obligations.TickAndQueue : Prop :=
  (∀ s : State, s.pending = [] →
    ∃ t, step s = .next t
      ∧ t = { s with now := s.now + 1, pending := t.pending, freeIdx := t.freeIdx }
      ∧ t.pending.Nodup ∧ ∀ c, c ∈ t.pending ↔ IsDue { s with now := s.now + 1 } c)
    ∧ (∀ (s : State) (c : Instr), c ∈ s.due ↔ IsDue s c)
    ∧ ∀ (i : Instr) (s : State), ∃ t, exec i s = .next t ∧ t.pending = s.pending

/-- The state right after reset, as the rules of each chapter give it, with nothing in the store (logs 4, 7). -/
def Obligations.ResetState : Prop :=
  State.reset.mode = .init ∧ State.reset.ctl.reason = .noTables ∧ State.reset.ctl.slot = none
    ∧ State.reset.ctl.hold = .none ∧ State.reset.ctl.refusal = .none ∧ State.reset.ctl.parkTimer = none
    ∧ (∀ c, State.reset.brakes.get c = resetChannel)
    ∧ State.reset.trip.field = .deEnergised ∧ State.reset.trip.brake = .deEnergised
    ∧ State.reset.trip.queue = [] ∧ State.reset.trip.next = 1 ∧ State.reset.trip.notStored = 0
    ∧ (∀ c, State.reset.counter c = 0#32) ∧ State.reset.ring.fwd = [] ∧ State.reset.ring.consec = 0
    ∧ (∀ x, State.reset.feedback.get x = emptyFeedback)
    ∧ (∀ ch : Fin 4, State.reset.analog[ch] = resetAin) ∧ State.reset.tester.status = .neverRun
    ∧ State.reset.tables.valid = false ∧ State.reset.store.state = .idle ∧ State.reset.pending = []

/-- A power-on reset in any state (R201): the clock, the ring interface with its queues, counters and silence timer
(R26), the stations (R21), the feedback and sensor records, the channels, the tightline and walk records, the trip
lines, the tester and the store as after reset, with the Status Notice built; the tables those of the store region when
it passes its check, the wear and level records those of the attributes region when it passes its own, worked out afresh
(R179). The sources hold their first updates, all 79 (R123), and where no enabled point watches one of these, every
point, the active list and the owed set are as R143 gives. While no first update trips the machine, the trip record
queue is empty and the mode record as at reset with its reason worked out. A region that holds no image or table set
counts as failing its check (log 7), a region's values are taken as they stand, a quotient by 0 being a free value (logs
49, 50), and the levels at the pins and the waiting commands stand (logs 5, 22). That is stated with no frame taken
before steps 3 to 5. Frames taken before them, which the model makes an operand of the command, are handled one after
the other in the state of steps 1 and 2, with no table in force and no station entry in use, and steps 3 to 5 are one
event after them that leaves what they did to the ring interface (R26, R201; log 32). The Status Notice is built at the
end of the command, with the fields as they then stand (log 6). -/
def Obligations.PowerOnReset : Prop :=
  (∀ (straps : BitVec 6) (s : State),
    ∃ t, exec (.powerOnReset straps []) s = .next t
      ∧ StartedUp (if s.store.state = .committing then .unfinished else s.store.tablesRegion) t
      ∧ AttrsFrom (if s.store.state = .saving then .unfinished else s.store.attrsRegion) t
      ∧ t.pins = { s.pins with straps := straps }
      ∧ (t.mode = .init →
          t.trip.queue = [] ∧ t.trip.next = 1 ∧ t.trip.notStored = 0
            ∧ t.source 54 = { value := 0, valid := true } ∧ t.source 55 = { value := 0, valid := true })
      ∧ t.tester = resetTester ∧ t.store.last = .none ∧ t.pending = s.pending)
    ∧ ∀ (straps : BitVec 6) (early : List (List Byte)) (s : State),
        ∃ v w t, BeforeTables s v ∧ v.pins = { s.pins with straps := straps }
          ∧ v.trip.queue = [] ∧ v.trip.next = 1 ∧ v.trip.notStored = 0 ∧ v.tester = resetTester
          ∧ v.store.last = .none
          ∧ FramesTaken early v w ∧ exec (.powerOnReset straps early) s = .next t
          ∧ StartEnds w t ∧ AttrsFrom w.store.attrsRegion t

/-! Frames. -/

/-- The bytes received are a frame exactly when they are the bytes that it goes out as and its payload fits (R2, R3): the
five header bytes, kind and life in one, the payload and the check over both, high byte first. The check starts at all
ones, takes the bytes most significant bit first, and is not inverted (R2). Every frame row does what FRAME_TAKEN_AT_IN
does with the bytes of the frame it spells (log 9). -/
def Obligations.WireBytes : Prop :=
  (∀ (bytes : List Byte) (f : Frame), parseFrame bytes = some f ↔ f.payload.length ≤ 48 ∧ bytes = wireBytes f)
    ∧ (∀ (f : Frame) (body : List Byte),
        body = [f.dst, f.src, byte (f.kind.toNat * 16 + f.life.toNat), f.seq, byte f.payload.length] ++ f.payload →
        wireBytes f = body ++ [byte ((crc16 body).toNat / 256), byte (crc16 body).toNat])
    ∧ crc16 [] = 0xFFFF#16
    ∧ (∀ (bs : List Byte) (b : Byte), crc16 (bs ++ [b]) =
        (fun c : BitVec 16 => if c.getLsbD 15 then (c <<< 1) ^^^ 0x1021#16 else c <<< 1)^[8]
          (crc16 bs ^^^ b.setWidth 16 <<< 8))
    ∧ ∀ (i : Instr) (f : Frame) (s : State), rowFrame i = some f → f.payload.length ≤ 48 →
    exec i s = exec (.frameTakenAtIn (wireBytes f)) s

/-- A frame that fails its check or form, carries the M4's own source, has life 0, or repeats its source's sequence is
removed under its counter: no station record, queue or feedback record changes, and nothing is forwarded (R8, R9). The
silence timer is restarted by it as by every frame, and where it was stopped source 78 is handed with 0 (R24). The
addresses that pass the check (R2, R3), and the payloads of kinds 1 to 4 that are well formed (R4, R5, R6), with what an
Operator Action's bytes read as (R6, R191). -/
def Obligations.FramesRemovedByStage : Prop :=
  (∀ f : Frame, frameOk f = true ↔
    (1 ≤ f.dst.toNat ∧ f.dst.toNat ≤ 63) ∧ (1 ≤ f.src.toNat ∧ f.src.toNat ≤ 62) ∧ f.payload.length ≤ 48)
    ∧ (∀ f : Frame, formOk f = true ↔ GoodPayload f)
    ∧ (∀ (bs : List Byte) (a : Action), parseAction bs = some a ↔ ActionReads bs a)
    ∧ ∀ (bytes : List Byte) (s : State) (c : Counter),
    ((parseFrame bytes = none ∧ c = .removedCheck)
      ∨ ∃ f, parseFrame bytes = some f ∧
          (((frameOk f && formOk f) = false ∧ c = .removedCheck)
            ∨ ((frameOk f && formOk f) = true ∧ f.src = s.ownByte ∧ c = .returnedOwn)
            ∨ ((frameOk f && formOk f) = true ∧ f.src ≠ s.ownByte ∧ f.life = 0#4 ∧ c = .removedLife)
            ∨ ((frameOk f && formOk f) = true ∧ f.src ≠ s.ownByte ∧ f.life ≠ 0#4 ∧ c = .removedDuplicate
                ∧ ∃ e r, s.sourceRun f = some (e, r) ∧ r.lastSeq = some f.seq))) →
    ∃ t, exec (.frameTakenAtIn bytes) s = .next t
      ∧ t.counter .taken = bumpWord (s.counter .taken) ∧ t.counter c = bumpWord (s.counter c)
      ∧ (∀ d, d ≠ .taken → d ≠ c → t.counter d = s.counter d)
      ∧ t.ring.fwd = s.ring.fwd ∧ t.ring.silence = some (s.now + 50)
      ∧ (s.ring.silence = none → t.source 78 = { value := 0, valid := true })
      ∧ (s.ring.silence ≠ none → t.source 78 = s.source 78)
      ∧ t.stations = s.stations ∧ t.feedback = s.feedback ∧ t.sensors = s.sensors ∧ t.tables = s.tables
      ∧ t.store = s.store ∧ t.attrs = s.attrs
      ∧ (s.ring.silence.isSome = true → OnlyRing s t)

/-- A frame of no kind the M4 reads, not addressed to it, joins the forward queue with its life lowered by 1 and its
payload as taken, or is removed when the queue holds 8 frames; nothing but the ring interface changes beyond the
arrival (R10, R12, R15). -/
def Obligations.PassingFramesAreForwarded : Prop :=
  ∀ (bytes : List Byte) (f : Frame) (s : State),
    parseFrame bytes = some f → s.passes f = true → (received f s).addressed f = false →
    (received f s).takesGeneralCall f = false → f.kind ≠ 1#4 → f.kind ≠ 2#4 → f.kind ≠ 3#4 →
    ∃ t, exec (.frameTakenAtIn bytes) s = .next t
      ∧ OnlyRing (received f s) t
      ∧ (s.ring.fwd.length < 8 →
          t.ring.fwd = s.ring.fwd ++ [{ frame := { f with life := f.life - 1#4 }, taken := f.payload }])
      ∧ (8 ≤ s.ring.fwd.length →
          t.ring.fwd = s.ring.fwd
            ∧ t.counter .removedForwardFull = bumpWord ((received f s).counter .removedForwardFull))

/-- An arrival makes its source's entry FRESH with expiry count 0, its last sequence and arrival time set, its timer
restarted, and a gap counted when the sequence is not the next (R9, R22). The freshness timer's expiries: count 1 STALE,
count 2 STALE, count 3 LOST with the last sequence absent and the timer stopped (R22); a drive entry lost in DIG,
WALK_PREP, WALKING or TESTING trips the machine (R23). A drive that goes STALE, step by step (in the order of log 20):
the freshness source handed with 1; the ring sensor values the entry wrote no longer valid, their sources INVALID (R14,
R23); the three sources of its axis INVALID with their values kept (R125); the skew source again (R108); the set request
to its channel (R64); a test that runs on the channel ended FAILED_STALE (R23, R189); walk preparation tested again
(R117). What a SENSOR, CONSOLE or MANAGER entry hands on going STALE, what every entry hands on at LOST, a lost drive's
trip where the mode takes one, and at its return to FRESH by an arrival, a drive's with the test of R33 (R23, R33,
R117); of a drive entry with no axis, what names no axis (log 55). That an expiry before its time leaves all but the
ring interface as it is, is the model's choice (log 2). That INIT_TO_PARKED makes the test of R33 again is log 10's. -/
def Obligations.Freshness : Prop :=
  (∀ (f : Frame) (s : State) (e : Fin 16) (r : StationRun), s.sourceRun f = some (e, r) →
    (received f s).stations[e] = some
        { fresh := .fresh, expiries := 0, timer := some (s.now + (s.act.stations[e]).timeout), lastSeq := some f.seq,
          gaps := if isGap r f.seq then min 65535 (r.gaps + 1) else r.gaps, lastArrival := some s.now }
      ∧ (∀ d : Fin 16, d ≠ e → (received f s).stations[d] = s.stations[d])
      ∧ (received f s).counter .seqGaps
          = (if isGap r f.seq then bumpWord (s.counter .seqGaps) else s.counter .seqGaps)
      ∧ (isGap r f.seq = true ↔ ∃ q, r.lastSeq = some q ∧ f.seq ≠ q + 1#8))
    ∧ (∀ (e : Fin 16) (s : State) (r : StationRun), s.stations[e] = some r →
        ∃ t, exec (.freshnessTimerExpiry e) s = .next t
          ∧ (∀ d : Fin 16, d ≠ e → t.stations[d] = s.stations[d])
          ∧ (s.expired r.timer = true → r.expiries = 0 →
              t.stations[e] = some { r with expiries := 1, fresh := .stale,
                                            timer := some (s.now + (s.act.stations[e]).timeout) })
          ∧ (s.expired r.timer = true → r.expiries = 1 →
              t.stations[e] = some { r with expiries := 2, timer := some (s.now + (s.act.stations[e]).timeout) }
                ∧ OnlyRing { s with stations := t.stations } t)
          ∧ (s.expired r.timer = true → r.expiries = 2 →
              t.stations[e] = some { r with expiries := 3, fresh := .lost, timer := none, lastSeq := none })
          ∧ (s.expired r.timer = false → OnlyRing s t)
          ∧ t.feedback = s.feedback ∧ t.tables = s.tables)
    ∧ (∀ (e : Fin 16) (s : State) (r : StationRun) (x : Axis),
        s.stations[e] = some r → s.expired r.timer = true → r.expiries = 2 → s.heldTrips = [] →
        (s.act.stations[e]).role = .drive → (s.act.stations[e]).axis = some x →
        (s.mode = .dig ∨ s.mode = .walkPrep ∨ s.mode = .walking ∨ s.mode = .testing) →
        ∃ t, exec (.freshnessTimerExpiry e) s = .next t ∧ t.mode = .tripped ∧ t.trip.field = .deEnergised)
    ∧ (∀ (e : Fin 16) (s k : State) (r q : StationRun) (x : Axis),
        s.stations[e] = some r → s.expired r.timer = true → r.expiries = 0 → r.fresh = .fresh →
        (s.act.stations[e]).role = .drive → (s.act.stations[e]).axis = some x →
        q = { r with expiries := 1, fresh := .stale, timer := some (s.now + (s.act.stations[e]).timeout) } →
        k = feed (38 + e.val) 1 true none { s with stations := s.stations.set e (some q) } →
        exec (.freshnessTimerExpiry e) s = .next (finish (prepRetest (testStale (chanOf x) (staleSet (chanOf x)
          (skewAgain x (dropAxis x (dropSensors e k))))))))
    ∧ (∀ (e : Fin 16) (s k : State) (r q : StationRun) (role : Role),
        s.stations[e] = some r → s.expired r.timer = true → r.expiries = 0 → r.fresh = .fresh →
        role = (s.act.stations[e]).role →
        q = { r with expiries := 1, fresh := .stale, timer := some (s.now + (s.act.stations[e]).timeout) } →
        k = feed (38 + e.val) 1 true none { s with stations := s.stations.set e (some q) } →
        ((role = .sensor ∨ (role = .drive ∧ (s.act.stations[e]).axis = none)) →
            exec (.freshnessTimerExpiry e) s = .next (finish (prepRetest (dropSensors e k))))
        ∧ ((role = .console ∨ role = .manager) →
            exec (.freshnessTimerExpiry e) s = .next (finish (dropSensors e k))))
    ∧ (∀ (e : Fin 16) (s k : State) (r : StationRun) (role : Role),
        s.stations[e] = some r → s.expired r.timer = true → r.expiries = 2 → r.fresh = .stale →
        role = (s.act.stations[e]).role →
        k = feed (38 + e.val) 2 true none { s with
          stations := s.stations.set e
            (some { r with expiries := 3, fresh := .lost, timer := none, lastSeq := none }) } →
        (role = .sensor → exec (.freshnessTimerExpiry e) s = .next (finish (prepRetest k)))
        ∧ ((role = .console ∨ role = .manager) → exec (.freshnessTimerExpiry e) s = .next (finish k))
        ∧ (role = .drive → ∀ w : State,
            ((∃ x, (s.act.stations[e]).axis = some x ∧ w = skewAgain x (dropAxis x k))
              ∨ ((s.act.stations[e]).axis = none ∧ w = k)) →
            ((w.mode = .dig ∨ w.mode = .walkPrep ∨ w.mode = .walking ∨ w.mode = .testing) →
              exec (.freshnessTimerExpiry e) s = .next (finish (prepRetest
                (handTrip { cause := .stationLost e, action := .both, frame := none } w))))
            ∧ ((w.mode = .init ∨ w.mode = .parked ∨ w.mode = .tripped) →
                exec (.freshnessTimerExpiry e) s = .next (finish (prepRetest w)))))
    ∧ (∀ (f : Frame) (s v k : State) (e : Fin 16) (r q : StationRun) (role : Role),
        s.sourceRun f = some (e, r) → role = (s.act.stations[e]).role →
        v = (if isGap r f.seq then bump .seqGaps (heard s) else heard s) →
        q = { fresh := .fresh, expiries := 0, timer := some (s.now + (s.act.stations[e]).timeout), lastSeq := some f.seq
              gaps := if isGap r f.seq then min 65535 (r.gaps + 1) else r.gaps, lastArrival := some s.now } →
        k = feed (38 + e.val) 0 true none { v with stations := v.stations.set e (some q) } →
        (r.fresh = .fresh → received f s = { v with stations := v.stations.set e (some q) })
        ∧ (r.fresh ≠ .fresh →
            ((role = .console ∨ role = .manager) → received f s = k)
            ∧ (role = .sensor → received f s = prepRetest k)
            ∧ (role = .drive → ∀ x, (s.act.stations[e]).axis = some x →
                received f s = prepRetest (initTest (skewAgain x k)))
            ∧ (role = .drive → (s.act.stations[e]).axis = none → received f s = prepRetest (initTest k))))
    ∧ (∀ s : State, exec .initToParked s = .next (finish (initTest s)))
    ∧ (∀ (e : Fin 16) (n : Nat) (s : State), (feed (38 + e.val) n true none s).source (38 + e.val)
        = { value := n, valid := true })
    ∧ (∀ (e : Fin 16) (s t : State), t = dropSensors e s →
        (∀ ch : Fin 16, (s.sensors[ch]).valid = true → (s.sensors[ch]).writer = some e →
          s.pointsOn (20 + ch.val) = []) →
        t = { s with sensors := t.sensors, alarm := { s.alarm with sources := t.alarm.sources } }
          ∧ ∀ ch : Fin 16,
              ((s.sensors[ch]).valid = true → (s.sensors[ch]).writer = some e →
                t.sensors[ch] = { (s.sensors[ch]) with valid := false }
                  ∧ t.source (20 + ch.val) = { value := (s.source (20 + ch.val)).value, valid := false })
              ∧ (((s.sensors[ch]).valid = false ∨ (s.sensors[ch]).writer ≠ some e) →
                  t.sensors[ch] = s.sensors[ch] ∧ t.source (20 + ch.val) = s.source (20 + ch.val)))
    ∧ (∀ (x : Axis) (s t : State) (n : Nat), t = dropAxis x s → n = 1 + 3 * axisPos x →
        s.pointsOn n = [] → s.pointsOn (n + 1) = [] → s.pointsOn (n + 2) = [] →
        t = { s with alarm := { s.alarm with sources := t.alarm.sources } }
          ∧ ∀ m, t.source m =
              if n ≤ m ∧ m ≤ n + 2 then { value := (s.source m).value, valid := false } else s.source m)
    ∧ (∀ (x : Axis) (s : State), (isCam x = true → skewAgain x s = feedSkew none s)
        ∧ (isCam x = false → skewAgain x s = s))
    ∧ (∀ (c : Chan) (s t : State), t = staleSet c s →
        StaleSet s c (s.brakes.get c) (t.brakes.get c) ∧ (∀ d, d ≠ c → t.brakes.get d = s.brakes.get d)
          ∧ t = { s with brakes := t.brakes, statusOwed := t.statusOwed })
    ∧ ∀ (c : Chan) (s t : State), t = testStale c s →
        ((s.testRuns = false ∨ s.testChan ≠ some c) → t = s)
        ∧ (s.testRuns = true → s.testChan = some c → s.mode = .testing → s.heldTrips = [] →
            ∃ rs, EndResults s rs ∧ TestEnded s t .failedStale (some c) rs ∧ t.testQueued = false
              ∧ t.tester.secondFinal = none ∧ t.brakes = s.brakes ∧ t.trip = s.trip ∧ t.attrs = s.attrs)

/-- Frames addressed to the M4 that it turns away (R10, R11, R191). An Operator Action from a station that may not send
it, a request without room, and a frame of a kind the M4 does not take are removed and counted; a request with an
unknown code, a wrong length or an argument out of range is answered BAD_REQUEST, one from no MANAGER NOT_AUTHORISED.
Which requests are well formed is spelled by GoodRequest: with READ_TRIP, READ_TABLE and the others whose rule names
BAD_INDEX, the position, table or id is not looked at here (log 29). In the answer to a payload shorter than three bytes
the code and tag bytes that it lacks are free values (log 11). -/
def Obligations.TurnedAwayAtTheM4 : Prop :=
  (∀ (bytes : List Byte) (f : Frame) (s : State) (c : Counter),
    parseFrame bytes = some f → s.passes f = true → (received f s).addressed f = true →
    ((f.kind ≠ 4#4 ∧ f.kind ≠ 5#4 ∧ c = .removedMisaddressed)
      ∨ (f.kind = 4#4 ∧ (received f s).consoleOk f = false ∧ c = .removedUnauthorised)
      ∨ (f.kind = 5#4 ∧ (received f s).freeCount < 2 ∧ c = .requestsNotTaken)) →
    ∃ t, exec (.frameTakenAtIn bytes) s = .next t
      ∧ OnlyRing (received f s) t ∧ t.counter c = bumpWord ((received f s).counter c)
      ∧ t.ring.fwd = s.ring.fwd ∧ t.ring.reserved = s.ring.reserved)
    ∧ (∀ f : Frame, requestOf f = none ↔
        ¬∃ (c a b : Byte) (args : List Byte), f.payload = c :: a :: b :: args ∧ GoodRequest c.toNat args)
    ∧ ∀ (h : Header) (payload : List Byte) (s u : State) (f : Frame),
        f = frameOf h 5#4 payload → u = admitted f s →
        (s.requests f = true → requestOf f = none →
          ∃ t, exec (.unknownRequest h payload) s = .next t ∧ Answered (s.asker f) .badRequest [] t ∧ OnlyRing u t)
        ∧ (s.passes f = true → (received f s).addressed f = true → 2 ≤ (received f s).freeCount →
            (received f s).managerOk f = false →
            ∃ t, exec (.unknownRequest h payload) s = .next t ∧ Answered (s.asker f) .notAuthorised [] t
              ∧ OnlyRing u t)

/-! The reference limiter. -/

/-- A Reference that is forwarded (R68, R80): axis and lever leave as they came, the brake field, the speed, the torque
limit and the cause as the stages give them one after the other, and the life lowered by 1 (R12); the speed is no larger
in magnitude and never of the opposite sign, the torque limit no larger (R69). The stages: the mode stage caps a
permitted axis's speed at the cap of the mode table, with cause MODE when it lowers (R75), the freshness stage passes a
drive that is FRESH and heard from (R76), and the cause is the first blocking one, else that of the last stage that
lowered (R70). Which payloads are a Reference, and with which fields (R4); and which References pass the source and the
destination stage: those of a CONSOLE entry's station, addressed to the station of the DRIVE entry of their axis (R72,
R73; log 56). -/
def Obligations.ForwardedReferenceIsNeverRaised : Prop :=
  (∀ (bs : List Byte) (r : Ref), parseRef bs = some r ↔ ∃ w, RefBytes bs w ∧ RefReads w r)
    ∧ (∀ (h : Header) (w : RefWire) (r : Ref), parseRef (refFrame h w).payload = some r ↔ RefReads w r)
    ∧ (∀ (f : Frame) (r : Ref) (s : State), s.refAddressed f r = true ↔
        (∃ e, IsEntry s (fun c => c.number = f.src.toNat) e ∧ (s.act.stations[e]).role = .console)
          ∧ IsDriveStation s f.dst r.axis)
    ∧ (∀ (h : Header) (w : RefWire) (s u k : State) (f : Frame) (r : Ref) (e : Eval),
    f = refFrame h w → parseRef f.payload = some r → s.passes f = true → (received f s).addressed f = false →
    (received f s).tables.valid = true → (received f s).refAddressed f r = true → u = standingStage r (received f s) →
    u.segmentRuns (chanOf r.axis) = false → s.ring.fwd.length < 8 →
    k = brakeRequest r.axis r.brake r.lever.toInt u →
    e = torqueStage r.axis u (brakeStage r.axis k (speedStages r.axis u (Eval.start r))) →
    ∃ t, exec (.reference h w) s = .next t
      ∧ t.ring.fwd = s.ring.fwd ++
          [{ frame := { f with
              life := f.life - 1#4
              payload := [w.axis, byte e.brake] ++ Half.bytes w.lever ++ encInt 2 e.speed ++ encNat 2 e.torque
                ++ [byte e.cause.code] },
             taken := f.payload }]
      ∧ e.speed.natAbs ≤ w.speed.toInt.natAbs ∧ 0 ≤ e.speed * w.speed.toInt ∧ e.torque ≤ w.torque.toNat)
    ∧ (∀ (x : Axis) (s : State) (e : Eval), speedStages x s e = limitStage x s (freshStage x s (modeStage x s e)))
    ∧ (∀ (x : Axis) (s : State) (e o : Eval), o = modeStage x s e → permits s.mode x = true →
        s.held (chanOf x) = false →
        (s.act.mode.cap.get x < e.speed.natAbs →
          o.speed.natAbs = s.act.mode.cap.get x ∧ 0 ≤ o.speed * e.speed ∧ o.lower = .mode)
        ∧ (e.speed.natAbs ≤ s.act.mode.cap.get x → o.speed = e.speed ∧ o.lower = e.lower)
        ∧ o.block = e.block ∧ o.torque = e.torque)
    ∧ (∀ (x : Axis) (s : State) (e : Eval), s.driveFresh x = true → (s.feedback.get x).updated = true →
        freshStage x s e = e)
    ∧ ∀ e : Eval, (∀ c, e.block = some c → e.cause = c) ∧ (e.block = none → e.cause = e.lower)

/-- While the active tables are not valid every Reference is forwarded with speed 0, HOLD, its torque limit, and cause
INIT, and touches nothing but the forward queue; it is removed only when that queue is full (R71). -/
def Obligations.ReferencesWithoutTables : Prop :=
  ∀ (h : Header) (w : RefWire) (s : State) (f : Frame) (r : Ref),
    f = refFrame h w → parseRef f.payload = some r → s.passes f = true → (received f s).addressed f = false →
    (received f s).tables.valid = false →
    ∃ t, exec (.reference h w) s = .next t
      ∧ OnlyRing (received f s) t
      ∧ (s.ring.fwd.length < 8 →
          t.ring.fwd = s.ring.fwd ++
            [{ frame := { f with
                life := f.life - 1#4
                payload := [w.axis, 0#8] ++ Half.bytes w.lever ++ [0#8, 0#8] ++ Half.bytes w.torque ++ [1#8] },
               taken := f.payload }])
      ∧ (8 ≤ s.ring.fwd.length →
          t.ring.fwd = s.ring.fwd
            ∧ t.counter .removedForwardFull = bumpWord ((received f s).counter .removedForwardFull))

/-- A Reference from no CONSOLE station, or not to the drive station of its axis, is removed and counted, and the
refused-reference source takes the new count, while it is not saturated (R72, R73, R25); where no point watches that
source nothing else changes. One for the channel of a running test segment is removed and counted (R74). Which
References pass both stages is spelled: the source is the station of an entry of role CONSOLE, the destination that of
the DRIVE entry of the axis (R72, R73; log 56). -/
def Obligations.ReferencesTurnedAway : Prop :=
  (∀ (f : Frame) (r : Ref) (s : State), s.refAddressed f r = true ↔
    (∃ e, IsEntry s (fun c => c.number = f.src.toNat) e ∧ (s.act.stations[e]).role = .console)
      ∧ IsDriveStation s f.dst r.axis)
  ∧ ∀ (h : Header) (w : RefWire) (s : State) (f : Frame) (r : Ref),
    f = refFrame h w → parseRef f.payload = some r → s.passes f = true → (received f s).addressed f = false →
    (received f s).tables.valid = true →
    ((received f s).refAddressed f r = false →
      ∃ t, exec (.reference h w) s = .next t ∧ t.ring.fwd = s.ring.fwd
        ∧ t.counter .removedRefusedRef = bumpWord ((received f s).counter .removedRefusedRef)
        ∧ ((received f s).counter .removedRefusedRef ≠ BitVec.allOnes 32 →
            t.source 79 = { value := ((received f s).counter .removedRefusedRef + 1#32).toNat, valid := true })
        ∧ ((received f s).counter .removedRefusedRef = BitVec.allOnes 32 →
            t.source 79 = (received f s).source 79 ∧ OnlyRing (received f s) t)
        ∧ t.feedback = s.feedback ∧ t.attrs = (received f s).attrs
        ∧ ((received f s).pointsOn 79 = [] →
            t = { (received f s) with
                  ring := t.ring, alarm := { (received f s).alarm with sources := t.alarm.sources }, owed := t.owed
                  statusOwed := t.statusOwed }
              ∧ ∀ code, code ≠ 79 → t.source code = (received f s).source code))
    ∧ ((received f s).refAddressed f r = true →
        (standingStage r (received f s)).segmentRuns (chanOf r.axis) = true →
        ∃ t, exec (.reference h w) s = .next t ∧ t.ring.fwd = s.ring.fwd
          ∧ OnlyRing (standingStage r (received f s)) t
          ∧ t.counter .removedSuperseded = bumpWord ((received f s).counter .removedSuperseded))

/-- The first blocking condition gives speed 0 and its cause: the mode's where the mode does not permit the axis, else
PARKING under the hold, else STALE (R70, R75, R76). The modes permit the axes, and the parking hold covers the channels,
that the tables of R27 and R28 give. -/
def Obligations.BlockedReferenceCause : Prop :=
  (∀ (x : Axis) (s u : State) (r : Ref) (o : Eval),
    o = torqueStage x s (brakeStage x u (speedStages x s (Eval.start r))) →
    (permits s.mode x = false → o.speed = 0 ∧ o.cause = blockCause s.mode)
    ∧ (permits s.mode x = true → s.held (chanOf x) = true → o.speed = 0 ∧ o.cause = .parking)
    ∧ (permits s.mode x = true → s.held (chanOf x) = false →
        (s.driveFresh x = false ∨ (s.feedback.get x).updated = false) → o.speed = 0 ∧ o.cause = .stale))
    ∧ (∀ (m : Mode) (x : Axis), permits m x = true ↔
        (m = .dig ∧ (x = .hoist ∨ x = .drag ∨ x = .swing)) ∨ (m = .walking ∧ (x = .walkLeft ∨ x = .walkRight)))
    ∧ (blockCause .init = .init ∧ blockCause .parked = .mode ∧ blockCause .dig = .mode ∧ blockCause .walkPrep = .mode
        ∧ blockCause .walking = .mode ∧ blockCause .testing = .test ∧ blockCause .tripped = .trip)
    ∧ ∀ (s : State) (c : Chan), s.held c = true ↔
        (s.ctl.hold = .digChannels ∧ c ≠ .walk) ∨ (s.ctl.hold = .walkChannel ∧ c = .walk)

/-- What a console Reference does to the channel of its axis: it writes the standing request, and in RELEASED the
autoset-armed flag (R49); asking for release on a SET channel it enters RELEASE_PENDING with its due time fixed, or
RELEASING at once, where the mode, the hold, freshness, the feedback records and the bars allow it, and leaves the
channel SET otherwise (R50); HOLD returns RELEASE_PENDING to SET (R52) and begins to set a RELEASED channel (R54); the
speed it leaves with is recorded and quietness tested (R56; log 21); in every other state it is recorded alone. The
other channels stand. The brake field and the speed forcing of the brake stage follow the channel's state (R65, R66,
R78). Beyond the channel, a lever other than 0 restarts the park timer in DIG (R44, R74), and in TESTING the lever goes
to a running test: into its memory, ending or suspending it by the policy, starting or stopping the resume timer (R187,
R188). A park timer code above 168, which only a loaded region can hold, is used as the number it is (log 50). -/
def Obligations.BrakeStageForcesSpeed : Prop :=
  (∀ (x : Axis) (s : State) (e o : Eval), o = brakeStage x s e →
    (∀ st, st = (s.brakes.get (chanOf x)).state →
      ((st = .set ∨ st = .setting ∨ st = .fault) → o.brake = 0)
      ∧ (st = .releasePending → o.brake = 3)
      ∧ ((st = .releasing ∨ st = .released ∨ st = .setPending) → o.brake = 1)
      ∧ (st ≠ .released → o.speed = 0)
      ∧ (st ≠ .released → e.speed ≠ 0 → o.lower = if s.held (chanOf x) then .parking else .brake)
      ∧ (st = .released → o.speed = e.speed ∧ o.lower = e.lower))
    ∧ o.torque = e.torque ∧ o.block = e.block)
    ∧ (∀ s : State, s.proving .hoist = s.act.brake.hoist.proving ∧ s.proving .drag = s.act.brake.drag.proving
        ∧ s.proving .swing = 0 ∧ s.proving .walk = 0)
    ∧ (∀ (r : Ref) (v u : State), u = standingStage r v →
        (v.mode ≠ .testing →
          u = { v with brakes := u.brakes, ctl := { v.ctl with parkTimer := u.ctl.parkTimer }
                       statusOwed := u.statusOwed }
            ∧ u.ctl.parkTimer = (if v.mode = .dig ∧ r.lever.toInt ≠ 0 then
                (parkLength v.act.mode.parkCode).map (fun n => v.now + n) else v.ctl.parkTimer))
        ∧ (v.mode = .testing → v.testRuns = false → u = { v with brakes := u.brakes, statusOwed := u.statusOwed })
        ∧ (v.mode = .testing → v.testRuns = true →
            LeverTaken v r.lever.toInt (v.tester.levers.set r.axis r.lever.toInt) u))
    ∧ (∀ code : Nat, (code = 0 → parkLength code = none)
        ∧ (1 ≤ code → code ≤ 120 → parkLength code = some (code * 5000))
        ∧ (120 < code → parkLength code = some ((code - 120) * 900000)))
    ∧ ∀ (h : Header) (w : RefWire) (s v u : State) (f : Frame) (r : Ref) (c : Chan) (old ch : Channel),
        f = refFrame h w → parseRef f.payload = some r → s.passes f = true → v = received f s →
        v.addressed f = false → v.tables.valid = true → v.refAddressed f r = true → s.heldTrips = [] →
        c = chanOf r.axis → u = standingStage r v → u.segmentRuns c = false →
        old = v.brakes.get c → ch = u.brakes.get c →
        (old.state ≠ .released → ch = { old with standing := r.brake })
        ∧ (old.state = .released →
            (old.armed = decide (r.brake = .releaseAutoset) → ch = { old with standing := r.brake })
            ∧ (old.armed ≠ decide (r.brake = .releaseAutoset) →
                QuietTested v c { old with standing := r.brake, armed := decide (r.brake = .releaseAutoset) } ch))
        ∧ (∀ d, d ≠ c → u.brakes.get d = v.brakes.get d)
        ∧ ∃ (t : State) (ch' : Channel), exec (.reference h w) s = .next t ∧ ch' = t.brakes.get c
          ∧ t = { u with brakes := t.brakes, ring := t.ring, owed := t.owed, statusOwed := t.statusOwed }
          ∧ (∀ d, d ≠ c → t.brakes.get d = u.brakes.get d)
          ∧ (ch.state = .set → AsksRelease r → Releasable u r.axis → ¬Barred u c →
              ∃ due, DueAt u c due
                ∧ (due ≤ u.now → u.proving c = 0 →
                    ch' = { ch.stopTimers with
                      state := .releasing, due := none, proved := true, confirm := ⟨false, false⟩
                      tRelease := some (u.now + (u.act.brake.get c).releaseConfirm)
                      lastSpeed := ch.lastSpeed.set r.axis 0 })
                ∧ ((u.now < due ∨ u.proving c ≠ 0) →
                    ch' = { ch.stopTimers with
                      state := .releasePending, due := some due, proved := decide (u.proving c = 0)
                      tProve := some (u.now + (u.act.brake.get c).prove)
                      tDue := if due ≤ u.now then none else some due
                      lastSpeed := ch.lastSpeed.set r.axis 0 }))
          ∧ (ch.state = .set → (¬AsksRelease r ∨ ¬Releasable u r.axis ∨ Barred u c) →
              ch' = { ch with lastSpeed := ch.lastSpeed.set r.axis 0, tAutoset := none })
          ∧ (ch.state = .releasePending → HoldStands u c →
              ch' = { ch.stopTimers with
                state := .set, due := none, proved := false, lastSpeed := ch.lastSpeed.set r.axis 0 })
          ∧ (ch.state = .released → HoldStands u c →
              BeginsToSet u c { ch with lastSpeed := ch.lastSpeed.set r.axis 0 } ch')
          ∧ (ch.state = .released → ¬HoldStands u c →
              QuietTested u c
                { ch with lastSpeed := ch.lastSpeed.set r.axis (speedStages r.axis u (Eval.start r)).speed } ch')
          ∧ ((ch.state = .releasing ∨ ch.state = .setPending ∨ ch.state = .setting ∨ ch.state = .fault
                ∨ (ch.state = .releasePending ∧ ¬HoldStands u c)) →
              ch' = { ch with lastSpeed := ch.lastSpeed.set r.axis 0, tAutoset := none })

/-- The hoist envelope (R82, R83). The row in force is the last in use whose drag start is at or below the drag payout.
-/
def Obligations.HoistEnvelope : Prop :=
  (∀ (s : State) (drag : Nat) (row : EnvRow), s.envelopeRow drag = some row ↔
    RowInForce s.act.rows s.act.drag.rows EnvRow.dragStart drag row)
  ∧ ∀ (s : State) (e o : Eval), o = limitStage .hoist s e →
    (s.feedback.drag.updated = false → e.speed ≠ 0 → o.speed = 0 ∧ o.lower = .envelope)
    ∧ (s.feedback.drag.updated = true → ∀ row, s.envelopeRow s.feedback.drag.position = some row →
        ∀ p, p = s.feedback.hoist.position →
          ((e.speed < 0 → p ≤ row.hoistMin → o.speed = 0 ∧ o.lower = .envelope)
          ∧ (e.speed < 0 → row.hoistMin < p → p < row.hoistMin + row.band → row.slow < e.speed.natAbs →
              o.speed = -(row.slow : Int) ∧ o.lower = .envelope)
          ∧ (e.speed < 0 → row.hoistMin < p → p < row.hoistMin + row.band → e.speed.natAbs ≤ row.slow → o = e)
          ∧ (e.speed < 0 → row.hoistMin < p → row.hoistMin + row.band ≤ p → o = e)
          ∧ (0 < e.speed → row.hoistMax ≤ p → o.speed = 0 ∧ o.lower = .envelope)
          ∧ (0 < e.speed → p < row.hoistMax → row.hoistMax < p + row.band → row.slow < e.speed.natAbs →
              o.speed = row.slow ∧ o.lower = .envelope)
          ∧ (0 < e.speed → p < row.hoistMax → row.hoistMax < p + row.band → e.speed.natAbs ≤ row.slow → o = e)
          ∧ (0 < e.speed → p < row.hoistMax → p + row.band ≤ row.hoistMax → o = e)))
    ∧ (e.speed = 0 → o = e)

/-- The drag envelope, whole (R84). -/
def Obligations.DragEnvelope : Prop :=
  ∀ (s : State) (e o : Eval) (g : DragCfg) (p : Nat),
    o = limitStage .drag s e → g = s.act.drag → p = s.feedback.drag.position →
    (e.speed < 0 → p ≤ g.dragMin → o.speed = 0 ∧ o.lower = .envelope)
    ∧ (e.speed < 0 → g.dragMin < p → p < g.dragMin + g.band → g.slow < e.speed.natAbs →
        o.speed = -(g.slow : Int) ∧ o.lower = .envelope)
    ∧ (e.speed < 0 → g.dragMin < p → p < g.dragMin + g.band → e.speed.natAbs ≤ g.slow → o = e)
    ∧ (e.speed < 0 → g.dragMin < p → g.dragMin + g.band ≤ p → o = e)
    ∧ (0 < e.speed → g.dragMax ≤ p → o.speed = 0 ∧ o.lower = .envelope)
    ∧ (0 < e.speed → p < g.dragMax → g.dragMax < p + g.band → g.slow < e.speed.natAbs →
        o.speed = g.slow ∧ o.lower = .envelope)
    ∧ (0 < e.speed → p < g.dragMax → g.dragMax < p + g.band → e.speed.natAbs ≤ g.slow → o = e)
    ∧ (0 < e.speed → p < g.dragMax → p + g.band ≤ g.dragMax → o = e)
    ∧ (e.speed = 0 → o = e)
    ∧ ∀ fb : Feedback, limitStage .drag { s with feedback := { s.feedback with hoist := fb } } e = o

/-- The swing zones (R92 to R96). The cap of one zone: none when unused; inside a SLOW zone its slow speed in both
directions; inside a NO_ENTRY zone by the nearer edge; outside, its slow speed when the motion is toward it within the
approach band. The smallest of the caps the zones give is applied, with cause ZONE when it lowers. -/
def Obligations.SwingZones : Prop :=
  (∀ (z : ZoneCfg) (a : Nat) (v : Int), v ≠ 0 →
    (z.kind = .unused → zoneCap z a v = none)
    ∧ (z.kind = .slow → z.inside a = true → zoneCap z a v = some z.slow)
    ∧ (z.kind = .noEntry → z.inside a = true →
        (angleDiff z.stop a < angleDiff a z.start → zoneCap z a v = some (if 0 < v then z.slow else 0))
        ∧ (angleDiff a z.start < angleDiff z.stop a → zoneCap z a v = some (if 0 < v then 0 else z.slow))
        ∧ (angleDiff a z.start = angleDiff z.stop a → zoneCap z a v = some z.slow))
    ∧ (z.kind ≠ .unused → z.inside a = false →
        (0 < v → zoneCap z a v = if angleDiff z.start a ≤ z.band then some z.slow else none)
        ∧ (v < 0 → zoneCap z a v = if angleDiff a z.stop ≤ z.band then some z.slow else none)))
    ∧ (∀ (z : ZoneCfg) (a : Nat), z.inside a = true ↔ Covers z a)
    ∧ (∀ a b : Nat, (angleDiff a b : Int) = ((a : Int) - b) % 3600)
    ∧ ∀ (s : State) (e o : Eval), o = limitStage .swing s e →
        (e.speed = 0 → o = e)
        ∧ (e.speed ≠ 0 → ∀ n : Nat,
          (∃ i : Fin 8, zoneCap s.act.zones[i] s.feedback.swing.position e.speed = some n) →
          (∀ i : Fin 8, ∀ m, zoneCap s.act.zones[i] s.feedback.swing.position e.speed = some m → n ≤ m) →
          (n < e.speed.natAbs → o.speed.natAbs = n ∧ 0 ≤ o.speed * e.speed ∧ o.lower = .zone)
          ∧ (e.speed.natAbs ≤ n → o = e))
        ∧ (e.speed ≠ 0 → (∀ i : Fin 8, zoneCap s.act.zones[i] s.feedback.swing.position e.speed = none) → o = e)

/-- A walk arrival (R107): in order the progress, the skew, lagging cam, phase and tub-raised flag; in WALKING the
reversal, skew, step and HOME tests; the re-test of walk preparation; the skew source. Each step: the sector in force
and what is worked out (R105, R107), the reversal mark and its source (R109), the skew trip (R110), the steps counted
(R111), the HOME report (R112), the skew source and its validity (R108). The leading cam is
the one that does not lag; of two equal progresses WALK_LEFT lags (R107). The walk limits in order: a speed of 0 stands; a
reverse one becomes 0 with cause WALK_DIRECTION; a forward one is capped by its own cam's sector, with cause WALK_PHASE
when that lowers it, and then trimmed, with cause SKEW_TRIM when that lowers it, where a skew is worked out that exceeds
the trim limit and the axis is the leading cam; a trim percent of 0 lowers nothing (R113 to R115). That a position with no
sector in force has no cap, and what a trim percent above 100 leaves, is log 50's. -/
def Obligations.WalkLimitsInOrder : Prop :=
  (∀ (x : Axis) (trig : List Byte) (s : State),
    walkArrival x trig s =
      feedSkew (some trig) (prepRetest
        (inWalking (homeTest s.walk.phase) (inWalking stepTest (inWalking (skewTest trig)
          (inWalking (reversalTest x (s.walk.progress x)) (workWalk (putProgress x s))))))))
  ∧ (∀ (f : State → State) (s : State),
      (s.mode = .walking → inWalking f s = f s) ∧ (s.mode ≠ .walking → inWalking f s = s))
  ∧ (∀ (s : State) (angle : Nat) (sec : SectorCfg), s.sectorOf angle = some sec ↔
      RowInForce s.act.sectors s.act.walk.sectors SectorCfg.start angle sec)
  ∧ (∀ (x : Axis) (s u : State), isCam x = true → u = workWalk (putProgress x s) →
      u = { s with walk := u.walk }
      ∧ u.walk.progress x = some ((s.feedback.get x).turns * 3600 + (s.feedback.get x).position)
      ∧ u.walk.progress (otherCam x) = s.walk.progress (otherCam x)
      ∧ u.walk = { s.walk with left := u.walk.left, right := u.walk.right, lagging := u.walk.lagging,
                               skew := u.walk.skew, phase := u.walk.phase, tubRaised := u.walk.tubRaised }
      ∧ (∀ l r, u.walk.left = some l → u.walk.right = some r →
          u.walk.skew = some (max l r - min l r)
          ∧ (∀ lag, lag = (if l ≤ r then Axis.walkLeft else Axis.walkRight) →
              u.walk.lagging = some lag
              ∧ u.walk.phase = (s.sectorOf (s.feedback.get lag).position).map fun c => c.phase)
          ∧ (u.leading .walkRight = true ↔ l ≤ r) ∧ (u.leading .walkLeft = true ↔ r < l)
          ∧ (u.walk.tubRaised = true ↔
              u.walk.phase = some .lift ∨ u.walk.phase = some .stride ∨ u.walk.phase = some .setdown))
      ∧ ((u.walk.left = none ∨ u.walk.right = none) →
          u.walk.lagging = s.walk.lagging ∧ u.walk.skew = s.walk.skew ∧ u.walk.phase = s.walk.phase
            ∧ u.walk.tubRaised = s.walk.tubRaised))
  ∧ (∀ (x : Axis) (s t : State) (old : Option Nat) (new : Nat), isCam x = true → s.walk.progress x = some new →
      s.pointsOn 77 = [] → t = reversalTest x old s →
      t = { s with walk := { s.walk with reversal := t.walk.reversal }
                   alarm := { s.alarm with sources := t.alarm.sources } }
      ∧ t.walk.reversal.get (otherCam x) = s.walk.reversal.get (otherCam x)
      ∧ (∀ p, old = some p → s.act.walk.reversal < p - new → t.walk.reversal.get x = true)
      ∧ (∀ p, old = some p → p < new → t.walk.reversal.get x = false)
      ∧ (∀ p, old = some p → p - new ≤ s.act.walk.reversal → new ≤ p →
          t.walk.reversal.get x = s.walk.reversal.get x)
      ∧ (old = none → t.walk.reversal = s.walk.reversal)
      ∧ (t.walk.camReversal ≠ s.walk.camReversal →
          t.source 77 = { value := if t.walk.camReversal then 1 else 0, valid := true })
      ∧ (t.walk.camReversal = s.walk.camReversal → t.alarm = s.alarm)
      ∧ (t.walk.camReversal = true ↔ t.walk.reversal.first = true ∨ t.walk.reversal.second = true))
  ∧ (∀ (trig : List Byte) (s t : State) (k : Nat), t = skewTest trig s → s.walk.skew = some k →
      (k ≤ s.act.walk.tripLimit → t = s)
      ∧ (s.act.walk.tripLimit < k → s.mode ≠ .tripped → s.heldTrips = [] →
          t.mode = .tripped ∧ t.trip.field = .deEnergised ∧ t.trip.brake = .deEnergised
            ∧ (s.trip.queue.length < 32 → TripRecorded s .skew (some trig) t)))
  ∧ (∀ s t : State, t = stepTest s → s.pointsOn 62 = [] → ∀ lag p m, s.walk.lagging = some lag →
      s.walk.progress lag = some p → s.walk.stepMark = some m →
      (p / 3600 ≤ m → t = s)
      ∧ (m < p / 3600 → s.mode = .walking →
          t.walk = { s.walk with
            steps := min 65535 (s.walk.steps + (p / 3600 - m))
            distance := min 4294967295 (s.walk.distance + (p / 3600 - m) * s.act.walk.stride)
            stepMark := some (p / 3600) }
          ∧ (t.attrs.recs[walkCam]).raw = min 281474976710655 ((s.attrs.recs[walkCam]).raw + (p / 3600 - m))
          ∧ t.statusOwed = true
          ∧ t = { s with walk := t.walk, attrs := t.attrs, statusOwed := true
                         alarm := { s.alarm with sources := t.alarm.sources } }))
  ∧ (∀ (prior : Option Phase) (s : State),
      (s.walk.phase = some .home → prior ≠ some .home → s.mode = .walking →
        s.ctl.slot = some { target := .park, wait := .homePhase } → homeTest prior s = endHomeWait s)
      ∧ ((s.walk.phase ≠ some .home ∨ prior = some .home ∨ s.mode ≠ .walking
            ∨ s.ctl.slot ≠ some { target := .park, wait := .homePhase }) → homeTest prior s = s))
  ∧ (∀ (trig : Option (List Byte)) (s t : State) (ok : Bool), t = feedSkew trig s →
      (ok = true ↔ s.walk.left.isSome = true ∧ s.walk.right.isSome = true ∧ s.driveFresh .walkLeft = true
        ∧ s.driveFresh .walkRight = true) →
      t.source 36 = { value := if ok then min 65535 (s.walk.skew.getD 0) else (s.source 36).value, valid := ok })
  ∧ (∀ (s : State) (y : Axis), s.leading y = true ↔ ∃ lag, s.walk.lagging = some lag ∧ lag ≠ y)
  ∧ ∀ (s : State) (x : Axis) (e o : Eval), isCam x = true → o = limitStage x s e →
    (e.speed = 0 → o = e)
    ∧ (e.speed < 0 → o.speed = 0 ∧ o.lower = .walkDirection)
    ∧ (0 < e.speed → ∀ (cap : Option SectorCfg) (m : Nat) (c : Cause),
        cap = s.sectorOf (s.feedback.get x).position →
        ((∃ sec, cap = some sec ∧ sec.cap < e.speed.natAbs ∧ m = sec.cap ∧ c = .walkPhase)
          ∨ ((∀ sec, cap = some sec → e.speed.natAbs ≤ sec.cap) ∧ m = e.speed.natAbs ∧ c = e.lower)) →
        ∀ (trims : Prop) (n : Nat),
          (trims ↔ ∃ k lag, s.walk.skew = some k ∧ s.act.walk.trimLimit < k ∧ s.walk.lagging = some lag ∧ lag ≠ x) →
          n = m * (100 - s.act.walk.trimPercent) / 100 →
          (¬trims → o.speed = m ∧ o.lower = c)
          ∧ (trims → o.speed = n ∧ (n < m → o.lower = .skewTrim) ∧ (m ≤ n → o.lower = c))
          ∧ (s.act.walk.trimPercent = 0 → o.speed = m ∧ o.lower = c))
    ∧ o.block = e.block ∧ o.torque = e.torque ∧ o.brake = e.brake

/-- The torque stage, whole (R79). -/
def Obligations.TorqueStage : Prop :=
  ∀ (x : Axis) (s : State) (e o : Eval), o = torqueStage x s e →
    (x = .drag → s.tight.reduction = true → s.act.options.tightTorque < e.torque →
      o = { e with torque := s.act.options.tightTorque, lower := .tightline })
    ∧ (x = .drag → (s.tight.reduction = false ∨ e.torque ≤ s.act.options.tightTorque) → o = e)
    ∧ (x ≠ .drag → o = e)

/-! Feedback and sensors. -/

/-- A Drive Status from the drive station of its axis updates that axis's feedback record and no other, is handed to its
receivers in order (brake channel, walk sequencer or walk preparation, tightline check, brake tester, rope wear, the
three sources of the axis) and is forwarded unchanged; from any other source it changes no record (R13). The rope record
of HOIST or DRAG gains the travel times the load factor, saturating, and its normalised value is worked out again (R171,
R173, R174). Which payloads are a Drive Status, and with which fields (R5), and which station is the drive station of an
axis (R13; log 56). The sources of the axis, codes 1 to 15 in groups of three, are handed its speed, position and current in
that order, VALID, with the frame (R124, R125). A quotient by a life of 0, which only a loaded region can hold, is a
free value (log 50). -/
def Obligations.DriveStatusUpdatesFeedback : Prop :=
  (∀ (h : Header) (w : StatusWire) (s : State) (f : Frame) (d : DriveStat),
    f = statusFrame h w → parseStatus f.payload = some d → s.passes f = true →
    (received f s).addressed f = false →
    ∃ t, exec (.driveStatus h w) s = .next t
      ∧ (s.ring.fwd.length < 8 →
          t.ring.fwd = s.ring.fwd ++ [{ frame := { f with life := f.life - 1#4 }, taken := f.payload }])
      ∧ ((received f s).isDriveOf f.src d.axis = true →
          t.feedback.get d.axis =
            { brake := d.brake, ready := d.ready, speed := d.speed, position := d.position,
              previous := if (s.feedback.get d.axis).updated then some (s.feedback.get d.axis).position else none,
              turns := d.turns, current := d.current, updated := true }
          ∧ (∀ y, y ≠ d.axis → t.feedback.get y = s.feedback.get y)
          ∧ ∀ (x : Axis) (trig : List Byte), x = d.axis → trig = bodyBytes f →
              t = finish (forward f f.payload (axisSources x trig (ropeArrival x (testArrival x (tightReceiver x
                    (walkReceiver x trig (channelArrival x trig (putFeedback d (received f s)))))))))
              ∧ (isCam x = true → walkReceiver x trig = walkArrival x trig)
              ∧ (isCam x = false → walkReceiver x trig = prepRetest)
              ∧ ((x = .hoist ∨ x = .drag) → tightReceiver x = tightArrival)
              ∧ (x ≠ .hoist → x ≠ .drag → ∀ u, tightReceiver x u = u ∧ ropeArrival x u = u))
      ∧ ((received f s).isDriveOf f.src d.axis = false → OnlyRing (received f s) t))
    ∧ (∀ (bs : List Byte) (d : DriveStat), parseStatus bs = some d ↔ ∃ w, StatusBytes bs w ∧ StatusReads w d)
    ∧ (∀ (h : Header) (w : StatusWire) (d : DriveStat), parseStatus (statusFrame h w).payload = some d ↔ StatusReads w d)
    ∧ (∀ (s : State) (station : Byte) (x : Axis), s.isDriveOf station x = true ↔ IsDriveStation s station x)
    ∧ (∀ n d : Nat, d ≠ 0 → quotient n d = n / d)
    ∧ (∀ (x : Axis) (i : Fin 13) (s t : State) (g : Feedback) (n : Nat),
        ((x = .hoist ∧ i = 0) ∨ (x = .drag ∧ i = 1)) → t = ropeArrival x s → g = s.feedback.get x →
        (g.previous = none → n = 0) →
        (∀ p, g.previous = some p →
          n = ((g.position : Int) - p).natAbs * (if g.current.natAbs / 25 = 0 then 1 else g.current.natAbs / 25)) →
        (n = 0 → t = s)
        ∧ (n ≠ 0 →
            (t.attrs.recs[i]).raw = min 281474976710655 ((s.attrs.recs[i]).raw + n)
              ∧ (t.attrs.recs[i]).norm = min (s.attrs.recs[i]).norm
                  (max 1 (min 100 (100 - quotient (99 * (t.attrs.recs[i]).raw) (s.act.attrs[i]).life)))
              ∧ (∀ j : Fin 13, j ≠ i → t.attrs.recs[j] = s.attrs.recs[j]) ∧ t.feedback = s.feedback
              ∧ ((t.attrs.recs[i]).norm ≠ (s.attrs.recs[i]).norm →
                  t.source (56 + i.val) = { value := (t.attrs.recs[i]).norm, valid := true })
              ∧ (s.pointsOn (56 + i.val) = [] →
                  t = { s with attrs := t.attrs, alarm := { s.alarm with sources := t.alarm.sources } })))
    ∧ ∀ (x : Axis) (trig : List Byte) (s t : State) (g : Feedback) (n : Nat),
        t = axisSources x trig s → g = s.feedback.get x →
        ((x = .hoist ∧ n = 1) ∨ (x = .drag ∧ n = 4) ∨ (x = .swing ∧ n = 7) ∨ (x = .walkLeft ∧ n = 10)
          ∨ (x = .walkRight ∧ n = 13)) →
        t = feed (n + 2) g.current true (some trig) (feed (n + 1) g.position true (some trig)
              (feed n g.speed true (some trig) s))
        ∧ t.source n = { value := g.speed, valid := true }
        ∧ t.source (n + 1) = { value := g.position, valid := true }
        ∧ t.source (n + 2) = { value := g.current, valid := true }
        ∧ (s.pointsOn n = [] → s.pointsOn (n + 1) = [] → s.pointsOn (n + 2) = [] →
            t = { s with alarm := { s.alarm with sources := t.alarm.sources } })

/-- A Sensor Report from a SENSOR station sets the value, writer and valid mark of each channel it names, the later pair
standing, and no other; then each channel written hands its source, code 20 and up (in the order of log 26), and walk
preparation is tested again (R14, R117). From any other source no value changes. Either way the frame is forwarded
unchanged (R12). Which payloads are a Sensor Report, and with which pairs (R6), and which entry is that of a source (log
56 where several hold its number). -/
def Obligations.SensorReportSetsValues : Prop :=
  (∀ (bs : List Byte) (l : List (Fin 16 × Int)), parseReport bs = some l ↔
    ∃ ps : List (Byte × Half), bs = ps.flatMap (fun p => p.1 :: Half.bytes p.2) ∧ PairsRead ps l)
  ∧ (∀ (h : Header) (ps : List (Byte × Half)) (l : List (Fin 16 × Int)),
      parseReport (sensorFrame h ps).payload = some l ↔ PairsRead ps l)
  ∧ (∀ (s : State) (station : Byte) (e : Fin 16), s.entryOf station = some e ↔
      IsEntry s (fun c => c.number = station.toNat) e)
  ∧ ∀ (h : Header) (ps : List (Byte × Half)) (s : State) (f : Frame) (l : List (Fin 16 × Int)),
    f = sensorFrame h ps → parseReport f.payload = some l → s.passes f = true →
    (received f s).addressed f = false →
    ∃ t, exec (.sensorReport h ps) s = .next t
      ∧ (∀ e, (received f s).entryOf f.src = some e → ((received f s).act.stations[e]).role = .sensor →
          ∀ ch : Fin 16,
            (∀ v, (l.reverse.find? fun p => p.1 == ch) = some (ch, v) →
              t.sensors[ch] = { value := v, writer := some e, valid := true })
            ∧ ((l.find? fun p => p.1 == ch) = none → t.sensors[ch] = (received f s).sensors[ch]))
      ∧ (s.ring.fwd.length < 8 →
          t.ring.fwd = s.ring.fwd ++ [{ frame := { f with life := f.life - 1#4 }, taken := f.payload }])
      ∧ (∀ e, (received f s).entryOf f.src = some e → ((received f s).act.stations[e]).role = .sensor →
          ∀ (v : State) (cs : List (Fin 16)), v = l.foldl (fun k p => putSensor e p k) (received f s) →
            cs = channelsOf l →
            cs.Nodup ∧ (∀ ch, ch ∈ cs ↔ ∃ n, (ch, n) ∈ l)
              ∧ t = finish (forward f f.payload (prepRetest (cs.foldl (fun k ch =>
                  feed (20 + ch.val) (k.sensors[ch]).value (k.sensors[ch]).valid none k) v)))
              ∧ (∀ ch ∈ cs, t.source (20 + ch.val) = { value := (t.sensors[ch]).value, valid := true }))
      ∧ ((received f s).hasRole f.src .sensor = false → OnlyRing (received f s) t)

/-! Operator actions. -/

/-- A DIG or WALK request that passes its checks in PARKED with the dwell run changes the mode at once (R34, R35, R31),
WALK to WALK_PREP with its timers or, with a confirm time of 0 and the conditions holding, to WALKING (R117, R118, R42);
before the dwell has run it waits in the slot, in place of a different target held there (R37, R38). Every change of
mode re-arms the alarm points by their masks: NORMAL and DELAYING points that the new mode does not arm become DISARMED,
and DISARMED ones that it arms NORMAL; the others stand (R135). That is stated where no point watches what the change
itself hands, the duration of a tightline episode that it ends (R89) and the cam-reversal flag (R120). A
walk-preparation condition on a sensor channel above 15, which only a loaded region can hold, fails (log 50). -/
def Obligations.DigAndWalkRequests : Prop :=
  (∀ (m : Mode) (s t : State), t = modeSteps m s → (s.mode = .dig → s.tight.start = none ∨ s.pointsOn 37 = []) →
    (m = .walking → s.walk.camReversal = false ∨ s.pointsOn 77 = []) →
    t.mode = m ∧ Rearmed s t ∧ (∀ p : Fin 48, t.alarm.points[p] ≠ s.alarm.points[p] → t.owed[p] = true)
      ∧ (s.heldTrips = [] → t.heldTrips = [] → changeMode m s = t))
  ∧ ∀ (h : Header) (g : Target) (s u : State),
    u = actedOn (actionFrame h 0#8 [targetByte g]) s → s.acts (actionFrame h 0#8 [targetByte g]) = true →
    u.mode = .parked → u.heldTrips = [] → g ≠ .park → u.pendingTarget g = false → u.requestCheck = none →
    ∃ t, exec (.modeRequest h (targetByte g)) s = .next t
      ∧ (g = .dig → u.dwellMet u.act.mode.parkedDwell = true →
          t.mode = .dig ∧ t.ctl.slot = none ∧ t.ctl.hold = .none ∧ t.ctl.entryTime = u.now
            ∧ t.ctl.parkTimer = (parkLength u.act.mode.parkCode).map (fun n => u.now + n)
            ∧ Rearmed u t
            ∧ t = { u with ctl := t.ctl
                           alarm := { u.alarm with points := t.alarm.points, list := t.alarm.list }
                           ring := t.ring, owed := t.owed, statusOwed := t.statusOwed })
      ∧ (g = .walk → u.dwellMet u.act.mode.parkedDwell = true → WalkTaken u t)
      ∧ (u.dwellMet u.act.mode.parkedDwell = false →
          t.ctl = { u.ctl with
              slot := some { target := g, wait := .dwell (u.ctl.entryTime + u.act.mode.parkedDwell) }, hold := .none }
            ∧ t = { u with ctl := t.ctl, ring := t.ring, owed := t.owed, statusOwed := t.statusOwed })

/-- A mode request that is refused records its cause and changes nothing else (R34, R36), a request equal to the one
pending included (log 18). The cause in PARKED is the first of R35's six conditions that refuses; in INIT it follows the
INIT reason (R34), and is ILLEGAL_TRANSITION under the reasons NONE and BAD_STATION (log 23). A DRIVE entry with no axis
counts among those that must be FRESH (log 55). -/
def Obligations.ModeRequestRefused : Prop :=
  (∀ (h : Header) (g : Target) (s u : State) (r : Refused),
    u = actedOn (actionFrame h 0#8 [targetByte g]) s → s.acts (actionFrame h 0#8 [targetByte g]) = true →
    ((u.mode = .init ∧ r = u.initCause) ∨ (u.mode = .testing ∧ r = .testRunning)
      ∨ (u.mode = .tripped ∧ r = .illegalTransition) ∨ (u.mode = .dig ∧ g = .walk ∧ r = .illegalTransition)
      ∨ ((u.mode = .walkPrep ∨ u.mode = .walking) ∧ g = .dig ∧ r = .illegalTransition)
      ∨ (u.mode = .parked ∧ g ≠ .park ∧ u.requestCheck = some r)) →
    ∃ t, exec (.modeRequest h (targetByte g)) s = .next t ∧ t.ctl = { u.ctl with refusal := r }
      ∧ t = { u with ctl := t.ctl, ring := t.ring, owed := t.owed, statusOwed := t.statusOwed })
    ∧ (∀ u : State,
        (TripPointStands u → u.requestCheck = some .tripActive)
        ∧ (¬TripPointStands u →
            (LatchedPointStands u → u.requestCheck = some .latchedActive)
            ∧ (¬LatchedPointStands u →
                (PrefailStands u → u.requestCheck = some .attrPrefail)
                ∧ (¬PrefailStands u →
                    (DriveNotFresh u → u.requestCheck = some .stationNotFresh)
                    ∧ (¬DriveNotFresh u →
                        (AnalogSettles u → u.requestCheck = some .analogSettling)
                        ∧ (¬AnalogSettles u →
                            (BrakeNotSet u → u.requestCheck = some .brakesNotSet)
                            ∧ (¬BrakeNotSet u → u.requestCheck = none)))))))
    ∧ ∀ u : State,
        (u.ctl.reason = .noTables → u.initCause = .noTables)
        ∧ (u.ctl.reason = .holdRecords → u.initCause = .holdRecords)
        ∧ (u.ctl.reason = .waiting →
            (BrakeNotSet u → u.initCause = .brakesNotSet)
            ∧ (¬BrakeNotSet u → DriveNotFresh u → u.initCause = .stationNotFresh)
            ∧ (¬BrakeNotSet u → ¬DriveNotFresh u → u.initCause = .analogSettling))
        ∧ ((u.ctl.reason = .none ∨ u.ctl.reason = .badStation) → u.initCause = .illegalTransition)

/-- Parking begins (R39, R45, R62). A PARK taken in DIG with the dwell run: the slot waits for the brakes, the hold
stands on the dig channels, and no channel stays RELEASE_PENDING or RELEASED; where the set-all leaves all four channels
SET, the mode is PARKED at once, with the points re-armed (R40, R135; stated with no tightline episode, or no point on its
duration). The park timer's expiry stops it; with no
PARK pending a PARK is taken, which waits for the dwell or begins parking; with one pending nothing more happens. The
other requests of the table of R34 that are taken: one for the current mode empties the slot and lifts the hold, and
restarts the park timer where a PARK was pending in DIG; PARK in WALK_PREP changes the mode to PARKED with both timers
stopped; PARK in DIG or WALKING waits for the dwell, in WALKING then for HOME or, at HOME, for the brakes (R38, R41); a
PARK equal to the one pending changes nothing. -/
def Obligations.ParkingBegins : Prop :=
  (∀ (h : Header) (s u : State),
    u = actedOn (actionFrame h 0#8 [0#8]) s → s.acts (actionFrame h 0#8 [0#8]) = true →
    u.mode = .dig → u.pendingTarget .park = false → u.dwellMet u.act.mode.digDwell = true →
    (parkingSetAll u).allSet = false →
    ∃ t, exec (.modeRequest h 0#8) s = .next t
      ∧ t.mode = .dig ∧ t.ctl.slot = some { target := .park, wait := .brakes } ∧ t.ctl.hold = .digChannels
      ∧ (∀ c, (t.brakes.get c).state ≠ .releasePending ∧ (t.brakes.get c).state ≠ .released)
      ∧ (∀ c, (u.brakes.get c).state ≠ .releasePending → (u.brakes.get c).state ≠ .released →
          t.brakes.get c = u.brakes.get c)
      ∧ t = { u with ctl := t.ctl, brakes := t.brakes, ring := t.ring, owed := t.owed, statusOwed := t.statusOwed })
    ∧ (∀ (h : Header) (s u : State),
        u = actedOn (actionFrame h 0#8 [0#8]) s → s.acts (actionFrame h 0#8 [0#8]) = true →
        u.mode = .dig → u.pendingTarget .park = false → u.dwellMet u.act.mode.digDwell = true →
        (parkingSetAll u).allSet = true → u.heldTrips = [] → (u.tight.start = none ∨ u.pointsOn 37 = []) →
        ∃ t, exec (.modeRequest h 0#8) s = .next t ∧ ParkedAtOnce u t)
    ∧ (∀ (h : Header) (g : Target) (s u : State),
        u = actedOn (actionFrame h 0#8 [targetByte g]) s → s.acts (actionFrame h 0#8 [targetByte g]) = true →
        ∃ t, exec (.modeRequest h (targetByte g)) s = .next t
          ∧ (((u.mode = .parked ∧ g = .park) ∨ (u.mode = .dig ∧ g = .dig)
                ∨ ((u.mode = .walkPrep ∨ u.mode = .walking) ∧ g = .walk)) →
              t = { u with ctl := t.ctl, ring := t.ring, owed := t.owed, statusOwed := t.statusOwed }
                ∧ t.ctl = { u.ctl with
                    slot := none, hold := .none
                    parkTimer := if u.mode = .dig ∧ u.pendingTarget .park = true then
                        (parkLength u.act.mode.parkCode).map (fun n => u.now + n)
                      else u.ctl.parkTimer })
          ∧ (g = .park → u.mode = .walkPrep → u.heldTrips = [] →
              t.mode = .parked ∧ t.ctl.slot = none ∧ t.ctl.hold = .none ∧ t.ctl.refusal = u.ctl.refusal
                ∧ t.walk.tConfirm = none ∧ t.walk.tTimeout = none ∧ t.brakes = u.brakes ∧ t.trip = u.trip)
          ∧ (g = .park → (u.mode = .dig ∨ u.mode = .walking) → u.pendingTarget .park = true → OnlyRing u t)
          ∧ (g = .park → ∀ dwell, ((u.mode = .dig ∧ dwell = u.act.mode.digDwell)
                ∨ (u.mode = .walking ∧ dwell = u.act.mode.walkingDwell)) →
              u.pendingTarget .park = false → u.now < u.ctl.entryTime + dwell →
              t.ctl = { u.ctl with
                  slot := some { target := .park, wait := .dwell (u.ctl.entryTime + dwell) }, hold := .none }
                ∧ t = { u with ctl := t.ctl, ring := t.ring, owed := t.owed, statusOwed := t.statusOwed })
          ∧ (g = .park → u.mode = .walking → u.pendingTarget .park = false →
              u.ctl.entryTime + u.act.mode.walkingDwell ≤ u.now →
              (u.walk.phase ≠ some .home →
                t.ctl = { u.ctl with slot := some { target := .park, wait := .homePhase } }
                  ∧ t = { u with ctl := t.ctl, ring := t.ring, owed := t.owed, statusOwed := t.statusOwed })
              ∧ (u.walk.phase = some .home → (parkingSetAll u).allSet = false →
                  t.ctl = { u.ctl with slot := some { target := .park, wait := .brakes }, hold := .walkChannel }
                    ∧ t.brakes = (parkingSetAll u).brakes
                    ∧ t = { u with ctl := t.ctl, brakes := t.brakes, ring := t.ring, owed := t.owed,
                                   statusOwed := t.statusOwed })
              ∧ (u.walk.phase = some .home → (parkingSetAll u).allSet = true → u.heldTrips = [] → ParkedAtOnce u t)))
    ∧ ∀ s : State, s.mode = .dig → s.expired s.ctl.parkTimer = true →
        ∃ t, exec .parkTimerExpiry s = .next t ∧ t.ctl.refusal = s.ctl.refusal
          ∧ (s.pendingTarget .park = true →
              t.ctl = { s.ctl with parkTimer := none }
                ∧ t = { s with ctl := t.ctl, ring := t.ring, owed := t.owed, statusOwed := t.statusOwed })
          ∧ (s.pendingTarget .park = false → s.dwellMet s.act.mode.digDwell = false →
              t.ctl.parkTimer = none ∧ t.mode = .dig
                ∧ t.ctl.slot = some { target := .park, wait := .dwell (s.ctl.entryTime + s.act.mode.digDwell) })
          ∧ (s.pendingTarget .park = false → s.dwellMet s.act.mode.digDwell = true →
              (parkingSetAll s).allSet = false →
              t.ctl.parkTimer = none ∧ t.mode = .dig ∧ t.ctl.hold = .digChannels
                ∧ t.ctl.slot = some { target := .park, wait := .brakes } ∧ t.brakes = (parkingSetAll s).brakes)
          ∧ (s.pendingTarget .park = false → s.dwellMet s.act.mode.digDwell = true →
              (parkingSetAll s).allSet = true → s.heldTrips = [] → (s.tight.start = none ∨ s.pointsOn 37 = []) →
              ParkedAtOnce s t ∧ t.ctl.parkTimer = none)

/-- ACK of a point and of every point (R133), and RESET_LATCHED (R134). -/
def Obligations.AckAndResetPoints : Prop :=
  ((∀ (h : Header) (p : Fin 48) (s u : State),
    u = actedOn (actionFrame h 1#8 [byte (p.val + 1)]) s → s.acts (actionFrame h 1#8 [byte (p.val + 1)]) = true →
    ∃ t, exec (.ack h (byte (p.val + 1))) s = .next t ∧ OnlyPoints u t
      ∧ (∀ q : Fin 48, q ≠ p → t.alarm.points[q] = u.alarm.points[q])
      ∧ ((u.alarm.points[p]).state = .activeUnack →
          (t.alarm.points[p]).state = .activeAck ∧ (t.alarm.points[p]).mark = (u.alarm.points[p]).mark)
      ∧ ((u.alarm.points[p]).state = .returnedUnack →
          (t.alarm.points[p]).state = (if u.armed p then .normal else .disarmed) ∧ p ∉ t.alarm.list)
      ∧ ((u.alarm.points[p]).state ≠ .activeUnack → (u.alarm.points[p]).state ≠ .returnedUnack →
          t.alarm = u.alarm))
    ∧ ∀ (h : Header) (s u : State),
        u = actedOn (actionFrame h 1#8 [0#8]) s → s.acts (actionFrame h 1#8 [0#8]) = true →
        ∃ t, exec (.ack h 0#8) s = .next t ∧ OnlyPoints u t
          ∧ ∀ p : Fin 48,
              ((u.alarm.points[p]).state = .activeUnack →
                (t.alarm.points[p]).state = .activeAck ∧ (t.alarm.points[p]).mark = (u.alarm.points[p]).mark)
              ∧ ((u.alarm.points[p]).state = .returnedUnack →
                  (t.alarm.points[p]).state = (if u.armed p then .normal else .disarmed) ∧ p ∉ t.alarm.list)
              ∧ ((u.alarm.points[p]).state ≠ .activeUnack → (u.alarm.points[p]).state ≠ .returnedUnack →
                  t.alarm.points[p] = u.alarm.points[p]))
    ∧ ∀ (h : Header) (s u : State),
        u = actedOn (actionFrame h 4#8 []) s → s.acts (actionFrame h 4#8 []) = true →
        ∃ t, exec (.resetLatched h) s = .next t ∧ OnlyPoints u t
          ∧ t.alarm.list = u.alarm.list.filter (fun p =>
              !((u.act.points[p]).latching && (u.alarm.points[p]).mark && (u.alarm.points[p]).state == .activeAck))
          ∧ ∀ p : Fin 48,
              ((u.act.points[p]).latching = true → (u.alarm.points[p]).mark = true →
                ((u.alarm.points[p]).state = .activeAck →
                  (t.alarm.points[p]).state = (if u.armed p then .normal else .disarmed)
                    ∧ (t.alarm.points[p]).mark = false)
                ∧ ((u.alarm.points[p]).state = .activeUnack →
                    (t.alarm.points[p]).state = .returnedUnack ∧ (t.alarm.points[p]).mark = false))
              ∧ (((u.act.points[p]).latching = false ∨ (u.alarm.points[p]).mark = false) →
                  t.alarm.points[p] = u.alarm.points[p])

/-- SHELVE of a point (R136): not enabled, nothing; of class TRIP, refused; else SHELVED for its minutes. A SHELVED
point leaves its shelf at UNSHELVE and at the shelf timer's expiry: NORMAL if armed, else DISARMED (R137). That a shelf
expiry before its time has no effect is the model's choice (log 2). -/
def Obligations.ShelveAndUnshelve : Prop :=
  (∀ (h : Header) (p : Fin 48) (m : Half) (s u : State), 1 ≤ m.toNat → m.toNat ≤ 480 →
    u = actedOn (actionFrame h 2#8 (byte (p.val + 1) :: Half.bytes m)) s →
    s.acts (actionFrame h 2#8 (byte (p.val + 1) :: Half.bytes m)) = true →
    ∃ t, exec (.shelve h (byte (p.val + 1)) m) s = .next t
      ∧ ((u.act.points[p]).enabled = false → OnlyRing u t)
      ∧ ((u.act.points[p]).enabled = true → (u.act.points[p]).cls = .trip →
          t.ctl = { u.ctl with refusal := .shelveTripClass }
            ∧ t = { u with ctl := t.ctl, ring := t.ring, owed := t.owed, statusOwed := t.statusOwed })
      ∧ ((u.act.points[p]).enabled = true → (u.act.points[p]).cls ≠ .trip →
          OnlyPoints u t ∧ (t.alarm.points[p]).state = .shelved
            ∧ (t.alarm.points[p]).tShelf = some (u.now + m.toNat * 60000)
            ∧ ((u.alarm.points[p]).state ≠ .shelved →
                (t.alarm.points[p]).mark = false ∧ (t.alarm.points[p]).tDelay = none ∧ p ∉ t.alarm.list)
            ∧ ∀ q : Fin 48, q ≠ p → t.alarm.points[q] = u.alarm.points[q]))
    ∧ (∀ (h : Header) (p : Fin 48) (s u : State),
        u = actedOn (actionFrame h 3#8 [byte (p.val + 1)]) s → s.acts (actionFrame h 3#8 [byte (p.val + 1)]) = true →
        ∃ t, exec (.unshelve h (byte (p.val + 1))) s = .next t ∧ OnlyPoints u t
          ∧ ((u.alarm.points[p]).state = .shelved →
              (t.alarm.points[p]).state = (if u.armed p then .normal else .disarmed)
                ∧ (t.alarm.points[p]).tShelf = none)
          ∧ ((u.alarm.points[p]).state ≠ .shelved → OnlyRing u t)
          ∧ ∀ q : Fin 48, q ≠ p → t.alarm.points[q] = u.alarm.points[q])
    ∧ ∀ (p : Fin 48) (s : State),
        ∃ t, exec (.shelfExpiry p) s = .next t ∧ OnlyPoints s t
          ∧ ((s.alarm.points[p]).state = .shelved → s.expired (s.alarm.points[p]).tShelf = true →
              (t.alarm.points[p]).state = (if s.armed p then .normal else .disarmed))
          ∧ (((s.alarm.points[p]).state ≠ .shelved ∨ s.expired (s.alarm.points[p]).tShelf = false) → OnlyRing s t)

/-- RESET_TRIP (R168, R169): in TRIPPED with no condition against it the mode becomes PARKED with both lines energised;
else the first condition's cause is recorded and nothing else changes. The conditions are a TRIP-class point active, a
channel with its limit enabled that is SETTLING or whose beyond count is 1 or more (R154), a channel not SET, and records
held under the trip-hold option. The points are re-armed for PARKED (R135). -/
def Obligations.ResetTrip : Prop :=
  (∀ u : State,
    (u.tripPointActive = true ↔ TripPointStands u)
    ∧ (u.directHold = true ↔ ∃ ch : Fin 4, (u.act.analog[ch]).limitOn = true
        ∧ ((u.analog[ch]).ready = false ∨ 1 ≤ (u.analog[ch]).beyond))
    ∧ (u.allSet = true ↔ ¬BrakeNotSet u)
    ∧ (u.tripHold = true ↔ u.tables.valid = true ∧ u.act.options.tripHold = true))
  ∧ ∀ (h : Header) (s u : State),
    u = actedOn (actionFrame h 5#8 []) s → s.acts (actionFrame h 5#8 []) = true →
    ∃ t, exec (.resetTrip h) s = .next t
      ∧ (u.mode = .tripped → u.heldTrips = [] → u.tripPointActive = false → u.directHold = false →
          u.allSet = true → (u.tripHold = false ∨ u.trip.queue = []) →
          t.mode = .parked ∧ t.trip = { u.trip with field := .energised, brake := .energised }
            ∧ t.brakes = u.brakes ∧ t.tester = u.tester ∧ t.attrs = u.attrs ∧ Rearmed u t)
      ∧ (u.mode = .tripped → ∀ r,
          ((u.tripPointActive = true ∧ r = .tripActive)
            ∨ (u.tripPointActive = false ∧ u.directHold = true ∧ r = .directLimit)
            ∨ (u.tripPointActive = false ∧ u.directHold = false ∧ u.allSet = false ∧ r = .brakesNotSet)
            ∨ (u.tripPointActive = false ∧ u.directHold = false ∧ u.allSet = true ∧ u.tripHold = true
                ∧ u.trip.queue ≠ [] ∧ r = .holdRecords)) →
          t.ctl = { u.ctl with refusal := r }
            ∧ t = { u with ctl := t.ctl, ring := t.ring, owed := t.owed, statusOwed := t.statusOwed })
      ∧ (u.mode ≠ .tripped →
          t.ctl = { u.ctl with refusal := .illegalTransition }
            ∧ t = { u with ctl := t.ctl, ring := t.ring, owed := t.owed, statusOwed := t.statusOwed })

/-- What a test start leaves: mode TESTING, test number taken, segment 1 in RAMP with a test Reference out (R182,
R183). -/
def testStarted (u t : State) (c : Chan) : Prop :=
  t.mode = .testing ∧ t.tester.status = .inProgress ∧ t.tester.number = some u.tester.nextNumber
    ∧ t.tester.nextNumber = min 65535 (u.tester.nextNumber + 1) ∧ t.tester.completed = 0
    ∧ t.tester.count = u.act.test.segments.length ∧ t.tester.results = [] ∧ t.tester.segment = some 0
    ∧ t.tester.phase = some .ramp ∧ t.tester.tRamp = some (u.now + 2000) ∧ t.tester.tPeriod = some (u.now + 50)
    ∧ t.tester.levers = ⟨0, 0, 0, 0, 0⟩
    ∧ (∃ x, chanOf x = c ∧ TestRefOut x (if isCam x then 50 else -50) u.act.test.torque t)
    ∧ t.brakes = u.brakes ∧ t.trip = u.trip ∧ t.attrs = u.attrs

/-- What a test start with a drive of the first segment not FRESH leaves: the test ended FAILED_STALE with that channel
failing and no result, its number used and its descriptor written, and the mode PARKED again (R183, R189, R190). -/
def testStartStale (u t : State) (c : Chan) : Prop :=
  t.mode = .parked ∧ t.tester.status = .failedStale ∧ t.tester.number = none ∧ t.tester.segment = none
    ∧ t.tester.nextNumber = min 65535 (u.tester.nextNumber + 1) ∧ t.tester.results = []
    ∧ t.tester.pointer = (if u.tester.pointer = 12 then 1 else u.tester.pointer + 1)
    ∧ t.tester.log = u.tester.log.setIfInBounds (t.tester.pointer - 1)
        (some { number := u.tester.nextNumber, status := .failedStale, minutes := u.attrs.minutes, failing := some c,
                results := [] })
    ∧ t.brakes = u.brakes ∧ t.trip = u.trip ∧ t.attrs = u.attrs

/-- What a test start leaves while a final Reference of the test before is queued or still to be built: TESTING, the
test number taken, segment 1 in WAITING (R182, R186). -/
def testWaits (u t : State) : Prop :=
  t.mode = .testing ∧ t.tester.status = .inProgress ∧ t.tester.number = some u.tester.nextNumber
    ∧ t.tester.nextNumber = min 65535 (u.tester.nextNumber + 1) ∧ t.tester.completed = 0
    ∧ t.tester.count = u.act.test.segments.length ∧ t.tester.results = [] ∧ t.tester.segment = some 0
    ∧ t.tester.phase = some .waiting ∧ t.tester.secondFinal = u.tester.secondFinal
    ∧ t.tester.levers = ⟨0, 0, 0, 0, 0⟩ ∧ t.brakes = u.brakes ∧ t.trip = u.trip ∧ t.attrs = u.attrs

/-- TEST_START and START_BRAKE_TEST (R182, R183, R43): in PARKED, with the first segment's drives FRESH and no final
Reference of the test before left, the test starts; with one left it starts in WAITING; with a drive not FRESH it ends
FAILED_STALE at once; elsewhere TEST_START is refused and START_BRAKE_TEST answered WRONG_MODE. -/
def Obligations.BrakeTestStarts : Prop :=
  (∀ (h : Header) (s u : State) (c : Chan),
    u = actedOn (actionFrame h 6#8 []) s → s.acts (actionFrame h 6#8 []) = true →
    ∃ t, exec (.testStart h) s = .next t
      ∧ (u.mode = .parked → u.heldTrips = [] → u.act.test.segments[0]? = some c → u.chanFresh c = true →
          u.testQueued = false → u.tester.secondFinal = none → testStarted u t c)
      ∧ (u.mode = .parked → u.heldTrips = [] → u.act.test.segments[0]? = some c → u.chanFresh c = false →
          u.testQueued = false → u.tester.secondFinal = none → testStartStale u t c)
      ∧ (u.mode = .parked → u.heldTrips = [] → (u.testQueued = true ∨ u.tester.secondFinal ≠ none) → testWaits u t)
      ∧ (∀ k, u.chanFresh k = true ↔ ∀ x ∈ axesOf k, u.driveFresh x = true)
      ∧ (u.mode = .testing → t.ctl = { u.ctl with refusal := .testRunning } ∧ t.tester = u.tester)
      ∧ (u.mode ≠ .parked → u.mode ≠ .testing →
          t.ctl = { u.ctl with refusal := .illegalTransition } ∧ t.tester = u.tester))
    ∧ ∀ (h : Header) (tag : Half) (s u : State) (c : Chan),
        u = admitted (requestFrame h 14#8 tag []) s → s.requests (requestFrame h 14#8 tag []) = true →
        ∃ t, exec (.startBrakeTest h tag) s = .next t
          ∧ (u.mode = .parked → u.heldTrips = [] → u.act.test.segments[0]? = some c → u.chanFresh c = true →
              u.testQueued = false → u.tester.secondFinal = none →
              testStarted u t c ∧ Answered (s.asker (requestFrame h 14#8 tag [])) .ok [] t)
          ∧ (u.mode = .parked → u.heldTrips = [] → u.act.test.segments[0]? = some c → u.chanFresh c = false →
              u.testQueued = false → u.tester.secondFinal = none →
              testStartStale u t c ∧ Answered (s.asker (requestFrame h 14#8 tag [])) .ok [] t)
          ∧ (u.mode = .parked → u.heldTrips = [] → (u.testQueued = true ∨ u.tester.secondFinal ≠ none) →
              testWaits u t ∧ Answered (s.asker (requestFrame h 14#8 tag [])) .ok [] t)
          ∧ (u.mode ≠ .parked →
              Answered (s.asker (requestFrame h 14#8 tag [])) .wrongMode [] t ∧ OnlyRing u t)

/-- What an abort of a running test leaves: the test ended ABORTED_OPERATOR with its descriptor written, mode PARKED, no
test Reference queued (R189, R190). -/
def testAborted (u t : State) : Prop :=
  (∃ rs, EndResults u rs ∧ TestEnded u t .abortedOperator none rs)
    ∧ t.testQueued = false ∧ t.attrs = u.attrs ∧ t.trip = u.trip ∧ t.brakes = u.brakes

/-- TEST_ABORT and ABORT_BRAKE_TEST end a running test: its results, with NOT_FINISHED for a segment reached and not
finished, go with its number, ending and service minutes into the next slot of the test log (R189, R190). With none
running TEST_ABORT has no effect and ABORT_BRAKE_TEST is answered WRONG_MODE. -/
def Obligations.BrakeTestAborts : Prop :=
  (∀ (h : Header) (s u : State),
    u = actedOn (actionFrame h 7#8 []) s → s.acts (actionFrame h 7#8 []) = true →
    ∃ t, exec (.testAbort h) s = .next t
      ∧ (u.testRuns = true → u.mode = .testing → u.heldTrips = [] → testAborted u t)
      ∧ (u.testRuns = false → OnlyRing u t))
    ∧ ∀ (h : Header) (tag : Half) (s u : State),
        u = admitted (requestFrame h 15#8 tag []) s → s.requests (requestFrame h 15#8 tag []) = true →
        ∃ t, exec (.abortBrakeTest h tag) s = .next t
          ∧ (u.testRuns = true → u.mode = .testing → u.heldTrips = [] →
              testAborted u t ∧ Answered (s.asker (requestFrame h 15#8 tag [])) .ok [] t)
          ∧ (u.testRuns = false →
              Answered (s.asker (requestFrame h 15#8 tag [])) .wrongMode [] t ∧ OnlyRing u t)

/-! Management requests. -/

/-- The reading requests are answered at once from the state as it stands, and change nothing (R191, R192, R194, R203,
R164, R190): IDENTIFY, READ_STATUS, READ_TABLE, READ_ATTRIBUTES, READ_ACTIVE_LIST, READ_TRIP, READ_TEST_LOG and
READ_STATION. The encodings of optional parts and timers (log 16), BAD_INDEX for a test-log age above 12 and a list
position above 48 (log 29), the record number first in every part of READ_TRIP (log 35), a time of more than 32 bits
that reads modulo 2^32 (log 1), the positions of the axes and channels (log 12), the cut of a longer answer at the 44
result bytes (log 42), the ASCII codes of OPM4 (log 58), and first-out, tub raised and crossed sent as marks (log 60)
are the model's choices or readings. The results field by field: the identity (R203), the parts of READ_STATUS,
READ_ATTRIBUTES, READ_ACTIVE_LIST and READ_STATION (R192), the three parts of a trip record (R161, R162, R164) and the
test descriptor (R190). -/
def Obligations.ReadingRequestsChangeNothing : Prop :=
  (∀ (h : Header) (tag : Half) (s : State) (i : Instr) (f : Frame) (u : State) (st : Status) (results : List Byte),
    rowFrame i = some f → s.requests f = true → u = admitted f s →
    ((i = .identify h tag ∧ st = .ok ∧ results = u.identity)
      ∨ (∃ p : Byte, (p = 1#8 ∨ p = 2#8) ∧ i = .readStatus h tag p ∧ st = .ok ∧ results = u.statusPart p.toNat)
      ∨ (∃ (c t e : Byte) (fs : List FieldBytes), (c = 0#8 ∨ c = 1#8) ∧ i = .readTable h tag c t e
          ∧ entryFields (if c = 1#8 then u.tables.staging else u.act) t.toNat e.toNat = some fs ∧ st = .ok
          ∧ results = (entryBytes fs).take 44)
      ∨ (∃ c t e : Byte, (c = 0#8 ∨ c = 1#8) ∧ i = .readTable h tag c t e
          ∧ entryFields (if c = 1#8 then u.tables.staging else u.act) t.toNat e.toNat = none ∧ st = .badIndex
          ∧ results = [])
      ∨ (∃ p : Byte, 1 ≤ p.toNat ∧ p.toNat ≤ 5 ∧ i = .readAttributes h tag p ∧ st = .ok
          ∧ results = u.attrsPart p.toNat)
      ∨ (∃ k : Byte, k ≠ 0#8 ∧ (k.toNat ≤ u.alarm.list.length ∨ k = 1#8) ∧ i = .readActiveList h tag k ∧ st = .ok
          ∧ results = u.listPart k.toNat)
      ∨ (∃ k : Byte, k ≠ 0#8 ∧ k ≠ 1#8 ∧ u.alarm.list.length < k.toNat ∧ i = .readActiveList h tag k
          ∧ st = .badIndex ∧ results = [byte u.alarm.list.length])
      ∨ (∃ (k p : Byte) (r : TripRecord), 1 ≤ p.toNat ∧ p.toNat ≤ 3 ∧ k ≠ 0#8 ∧ i = .readTrip h tag k p
          ∧ u.trip.queue[k.toNat - 1]? = some r ∧ st = .ok ∧ results = encNat 4 r.number ++ tripPart r p.toNat)
      ∨ (∃ k p : Byte, 1 ≤ p.toNat ∧ p.toNat ≤ 3 ∧ (k = 0#8 ∨ u.trip.queue.length < k.toNat)
          ∧ i = .readTrip h tag k p ∧ st = .badIndex ∧ results = [byte u.trip.queue.length])
      ∨ (∃ (a : Byte) (d : Descriptor), a ≠ 0#8 ∧ i = .readTestLog h tag a ∧ u.tester.aged a.toNat = some d
          ∧ st = .ok ∧ results = (descriptorBytes d).take 44)
      ∨ (∃ a : Byte, a ≠ 0#8 ∧ i = .readTestLog h tag a ∧ u.tester.aged a.toNat = none ∧ st = .badIndex
          ∧ results = [])
      ∨ (∃ e : Byte, 1 ≤ e.toNat ∧ e.toNat ≤ 16 ∧ i = .readStation h tag e ∧ st = .ok
          ∧ results = u.stationPart e.toNat)) →
    ∃ t, exec i s = .next t ∧ Answered (s.asker f) st results t ∧ OnlyRing u t)
    ∧ (∀ s : State, s.identity =
        [0x4F#8, 0x50#8, 0x4D#8, 0x34#8, s.ring.own.setWidth 8, flagByte s.tables.valid, flagByte s.tables.committed,
          byte s.store.state.code] ++ encNat 4 (crc32 (tablesBytes s.tables.active)).toNat
          ++ encNat 4 s.attrs.minutes)
    ∧ (∀ s : State, s.statusPart 1 =
        s.statusFields ++ encNat 4 s.walk.distance ++ [byte s.store.last.code, flagByte s.tables.committed])
    ∧ (∀ s : State, s.statusPart 2 = (List.finRange 4).flatMap fun ch =>
        byte (if (s.analog[ch]).ready then 1 else 0)
          :: ((match (s.analog[ch]).lastRaw with | none => [0#8] | some n => 1#8 :: encNat 2 n)
            ++ (match (s.analog[ch]).lastScaled with | none => [0#8] | some v => 1#8 :: encInt 3 v)
            ++ [byte (s.analog[ch]).beyond]))
    ∧ (∀ (s : State) (p : Nat), s.attrsPart p =
        encNat 4 s.attrs.minutes ++ ((List.finRange 13).filter fun i => i.val / 3 + 1 == p).flatMap fun i =>
          encNat 6 (s.attrs.recs[i]).raw
            ++ [byte (s.attrs.recs[i]).norm, byte (s.attrs.recs[i]).worst, byte (s.act.attrs[i]).threshold,
              byte (s.act.attrs[i]).cls.code,
              if (s.attrs.recs[i]).norm ≤ (s.act.attrs[i]).threshold then 1#8 else 0#8]
            ++ (if 9 ≤ i.val then [flagByte (s.attrs.recs[i]).never] else []))
    ∧ (∀ (s : State) (k : Nat) (l : List (Fin 48)), l = (s.alarm.list.drop (k - 1)).take 5 → s.listPart k =
        [byte s.alarm.list.length, byte l.length] ++ l.flatMap fun p =>
          [byte (p.val + 1), byte (s.alarm.points[p]).state.code, flagByte (s.alarm.points[p]).mark,
              byte (s.act.points[p]).cls.code] ++ encNat 4 ((s.alarm.points[p]).since.getD 0 % 4294967296))
    ∧ (∀ r : TripRecord,
        tripPart r 1 = encNat 4 r.number ++ encNat 4 r.time ++ encNat 4 r.minutes
          ++ [byte r.cause.kind, byte r.cause.index, byte r.action.code, flagByte r.firstOut, byte r.mode.code]
          ++ (match r.phase with | none => [0#8] | some p => [1#8, byte (phaseCode p)])
          ++ (match r.tubRaised with | none => [0#8] | some b => [1#8, flagByte b])
          ++ byte r.coActive.length :: r.coActive.map (fun p => byte (p.val + 1))
        ∧ tripPart r 2 = [Axis.hoist, .drag, .swing, .walkLeft, .walkRight].flatMap (fun x =>
            encInt 2 (r.snapshots.get x).speed ++ encNat 2 (r.snapshots.get x).position
              ++ encInt 2 (r.snapshots.get x).current
              ++ [byte (r.snapshots.get x).chan.code, flagByte (r.snapshots.get x).stale])
        ∧ (r.frame = none → tripPart r 3 = [0#8]) ∧ (∀ bs, r.frame = some bs → tripPart r 3 = 1#8 :: bs))
    ∧ (∀ d : Descriptor, descriptorBytes d =
        encNat 2 d.number ++ [byte d.status.code] ++ encNat 4 d.minutes
          ++ (match d.failing with | none => [0#8] | some c => [1#8, byte (chanPos c)])
          ++ byte d.results.length :: d.results.flatMap fun r =>
              byte (chanPos r.chan) :: ((match r.slip with | none => [0#8] | some n => 1#8 :: encNat 4 n)
                ++ [byte r.outcome.code]))
    ∧ (∀ (t : Tester) (age : Nat), t.aged age =
        if h : 1 ≤ age ∧ age ≤ 12 then t.log[(t.pointer + 12 - age) % 12]'(Nat.mod_lt _ (by decide)) else none)
    ∧ ∀ (s : State) (e : Fin 16) (c : StationCfg), c = s.act.stations[e] → s.stationPart (e.val + 1) =
        [byte c.number, byte c.role.code]
          ++ (match c.axis with | none => [0#8] | some x => [1#8, byte (axisPos x)]) ++ encNat 2 c.timeout
          ++ match s.stations[e] with
             | none => []
             | some r => [byte r.fresh.code, byte r.expiries]
                ++ (match r.timer with | none => [0#8] | some d => 1#8 :: encNat 2 (d - s.now))
                ++ (match r.lastSeq with | none => [0#8] | some q => [1#8, q]) ++ encNat 2 r.gaps
                ++ (match r.lastArrival with | none => [0#8] | some d => 1#8 :: encNat 4 (d % 4294967296))

/-- READ_COUNTERS (R192, R25): part 1 takes the snapshot, clears with its flag, and answers the first ten counters; the
clear sets the refused-reference source to 0; part 2 answers the other six from the latest snapshot. -/
def Obligations.ReadCountersSnapshot : Prop :=
  ∀ (h : Header) (tag : Half) (s : State),
    (∀ (clear : Bool) (f : Frame) (u : State), f = requestFrame h 17#8 tag [1#8, flagByte clear] →
      s.requests f = true → u = admitted f s →
      ∃ t, exec (.readCounters h tag 1#8 (flagByte clear)) s = .next t
        ∧ Answered (s.asker f) .ok ((u.ring.counters.toList.take 10).flatMap fun w => encNat 4 w.toNat) t
        ∧ t.ring.snapshot = u.ring.counters
        ∧ (clear = true → (∀ c, t.counter c = 0#32) ∧ t.source 79 = { value := 0, valid := true })
        ∧ (clear = false → t.ring.counters = u.ring.counters ∧ OnlyRing u t)
        ∧ t.ring.fwd = s.ring.fwd ∧ t.tables = u.tables ∧ t.attrs = u.attrs ∧ t.feedback = u.feedback)
    ∧ ∀ (f : Frame) (u : State), f = requestFrame h 17#8 tag [2#8, 0#8] → s.requests f = true → u = admitted f s →
      ∃ t, exec (.readCounters h tag 2#8 0#8) s = .next t
        ∧ Answered (s.asker f) .ok ((u.ring.snapshot.toList.drop 10).flatMap fun w => encNat 4 w.toNat) t
        ∧ t.ring.snapshot = u.ring.snapshot ∧ OnlyRing u t

/-- WRITE_TABLE changes one staging entry, or nothing when it is rejected; COPY_ACTIVE_TO_STAGING makes both copies
equal (R194, R195). It is accepted exactly when the mask marks, the write mode and the values fit the entry's fields,
one byte a mark (log 31), and each field then stands as WRITE, SET, CLEAR or TOGGLE gives it (R195); the entry reads
back those bytes, and every other entry of every table as before. A segment list of any count up to 255 is a value of
its field (log 42). -/
def Obligations.StagingEdits : Prop :=
  (∀ (h : Header) (tag : Half) (t e w : Byte) (m v : List Byte) (s u : State) (f : Frame) (fs : List FieldBytes)
      (bs : List (List Byte)) (n : TableSet),
    f = requestFrame h 3#8 tag (t :: e :: (m ++ w :: v)) → s.requests f = true → u = admitted f s →
    entryFields u.tables.staging t.toNat e.toNat = some fs → writeFields fs (m ++ w :: v) = some bs →
    setEntry u.tables.staging t.toNat e.toNat bs = some n →
    ∃ x, exec (.writeTable h tag t e m w v) s = .next x ∧ Answered (s.asker f) .ok [] x
      ∧ x = { u with tables := { u.tables with staging := n }, ring := x.ring, owed := x.owed,
                     statusOwed := x.statusOwed })
    ∧ (∀ (h : Header) (tag : Half) (t e w : Byte) (m v : List Byte) (s u : State) (f : Frame),
        f = requestFrame h 3#8 tag (t :: e :: (m ++ w :: v)) → s.requests f = true → u = admitted f s →
        entryFields u.tables.staging t.toNat e.toNat = none →
        ∃ x, exec (.writeTable h tag t e m w v) s = .next x ∧ Answered (s.asker f) .badIndex [] x ∧ OnlyRing u x)
    ∧ (∀ (h : Header) (tag : Half) (t e w : Byte) (m v : List Byte) (s u : State) (f : Frame) (fs : List FieldBytes),
        f = requestFrame h 3#8 tag (t :: e :: (m ++ w :: v)) → s.requests f = true → u = admitted f s →
        entryFields u.tables.staging t.toNat e.toNat = some fs → writeFields fs (m ++ w :: v) = none →
        ∃ x, exec (.writeTable h tag t e m w v) s = .next x ∧ Answered (s.asker f) .badRequest [] x
          ∧ OnlyRing u x)
    ∧ (∀ (fs : List FieldBytes) (m v : List Byte) (w : Byte) (bs : List (List Byte)), m.length = fs.length →
        (writeFields fs (m ++ w :: v) = some bs ↔ w.toNat < 4 ∧ Written w.toNat fs m v bs))
    ∧ (∀ (a : TableSet) (t e : Nat) (fs : List FieldBytes) (rest : List Byte) (bs : List (List Byte)),
        entryFields a t e = some fs → writeFields fs rest = some bs →
        ∃ n, setEntry a t e bs = some n
          ∧ (entryFields n t e).map (fun gs => gs.map Prod.snd) = some bs
          ∧ ∀ t' e', (t' ≠ t ∨ e' ≠ e) → entryFields n t' e' = entryFields a t' e')
    ∧ ∀ (h : Header) (tag : Half) (s u : State) (f : Frame),
        f = requestFrame h 4#8 tag [] → s.requests f = true → u = admitted f s →
        ∃ x, exec (.copyActiveToStaging h tag) s = .next x ∧ Answered (s.asker f) .ok [] x
          ∧ x = { u with tables := { u.tables with staging := u.tables.active }, ring := x.ring, owed := x.owed,
                         statusOwed := x.statusOwed }

/-- ACTIVATE (R196, R197): refused by mode, store and checks in that order with nothing changed. When every test passes
the staging tables are in force, valid and not committed; an entry renumbered starts anew and the others' running states
stand (R21); and the four things that R197 leaves stand: the trip record queue with every record, the test log, the raw
values and, but for what a trip raised by a first hand-off sets (R63), the brake channel records. Every point is in the
owed set or has its notice out (R144). An analog channel whose reference, gain or offset changed settles anew with its
source INVALID, and any other keeps its record but for the counts and marks of the fields that changed (R147, R149);
every normalised value is worked out again and its change handed (R172, R173). In PARKED with no point on a source
handed after the reset of R144, or on the skew, the channels, the trip unit, the mode record and what the tester holds
are as before, and every point and the list are as R144 gives. The tests behind a refusal are spelled table by table, in
order (R196; logs 14, 15, 30, 43), the proving current of SWING and WALK checked against 0..200 as that of HOIST and
DRAG is (log 13); a quotient by 0 is a free value (log 50), and no table set that passes holds such a divisor. -/
def Obligations.ActivateInstallsStaging : Prop :=
  (∀ s : State, FirstFails s.activateTests s.activateFailure)
  ∧ ∀ (h : Header) (tag : Half) (s u : State) (f : Frame),
    f = requestFrame h 5#8 tag [] → s.requests f = true → u = admitted f s →
    ∃ t, exec (.activate h tag) s = .next t
      ∧ (u.mode ≠ .init → u.mode ≠ .parked → Answered (s.asker f) .wrongMode [] t ∧ OnlyRing u t)
      ∧ ((u.mode = .init ∨ u.mode = .parked) → u.store.state ≠ .idle →
          Answered (s.asker f) .busy [] t ∧ OnlyRing u t)
      ∧ ((u.mode = .init ∨ u.mode = .parked) → u.store.state = .idle → ∀ a e, u.activateFailure = some (a, e) →
          Answered (s.asker f) .checkFailed [byte a, byte e] t ∧ OnlyRing u t)
      ∧ ((u.mode = .init ∨ u.mode = .parked) → u.store.state = .idle → u.activateFailure = none →
          Answered (s.asker f) .ok [] t
            ∧ t.tables = { active := u.tables.staging, staging := u.tables.staging, valid := true,
                           committed := false }
            ∧ (∀ i : Fin 13, (t.attrs.recs[i]).raw = (u.attrs.recs[i]).raw)
            ∧ t.feedback = u.feedback ∧ t.tester.log = u.tester.log ∧ t.store = u.store
            ∧ u.trip.queue <+: t.trip.queue
            ∧ (∀ c, ((u.brakes.get c).state = .set ∨ (u.brakes.get c).state = .setting
                  ∨ (u.brakes.get c).state = .fault) → t.brakes.get c = u.brakes.get c)
            ∧ (∀ e : Fin 16, (u.act.stations[e]).number = (u.tables.staging.stations[e]).number →
                t.stations[e] = u.stations[e])
            ∧ (∀ e : Fin 16, (u.act.stations[e]).number ≠ (u.tables.staging.stations[e]).number →
                t.stations[e] =
                  if (u.tables.staging.stations[e]).number = 0 then none
                  else some { fresh := .stale, expiries := 1
                              timer := some (u.now + (u.tables.staging.stations[e]).timeout), lastSeq := none
                              gaps := 0, lastArrival := none })
            ∧ (∀ (ch : Fin 4) (o n : AnalogCfg) (r : AinRun), o = u.act.analog[ch] → n = u.tables.staging.analog[ch] →
                r = u.analog[ch] →
                ((o.ref ≠ n.ref ∨ o.gain ≠ n.gain ∨ o.offset ≠ n.offset) →
                  t.analog[ch] = { ready := false, settle := 0, lastRaw := none, lastScaled := none, beyond := 0
                                   limitMark := false, high := false }
                    ∧ t.source (16 + ch.val) = { value := (u.source (16 + ch.val)).value, valid := false })
                ∧ (o.ref = n.ref → o.gain = n.gain → o.offset = n.offset →
                    t.source (16 + ch.val) = u.source (16 + ch.val)
                      ∧ ∀ (limit fatigue : Bool),
                          (limit = true ↔ o.limitOn ≠ n.limitOn ∨ o.dir ≠ n.dir ∨ o.rawLimit ≠ n.rawLimit
                            ∨ o.persistence ≠ n.persistence) →
                          (fatigue = true ↔ o.role ≠ n.role ∨ o.fatigue ≠ n.fatigue ∨ o.reset ≠ n.reset) →
                          t.analog[ch] = { r with
                            beyond := if limit then 0 else r.beyond
                            limitMark := if limit then false else r.limitMark
                            high := if fatigue then false else r.high }))
            ∧ (∀ (i : Fin 13) (r : AttrRun), r = u.attrs.recs[i] →
                ∃ n : Nat,
                  t.attrs.recs[i] = { raw := r.raw, norm := n, never := r.never
                                      worst := if n = r.norm then r.worst else min r.worst n }
                  ∧ (∀ c, marginOf c = i → n = if r.never then 100 else
                      max 1 (min 100 (100 - quotient (99 * r.raw) (u.tables.staging.test.slip.get c))))
                  ∧ ((∀ c, marginOf c ≠ i) → n = min r.norm
                      (max 1 (min 100 (100 - quotient (99 * r.raw) (u.tables.staging.attrs[i]).life))))
                  ∧ (n ≠ r.norm → t.source (56 + i.val) = { value := n, valid := true }))
            ∧ (∀ p : Fin 48, t.owed[p] = true ∨ (∃ e ∈ t.ring.ins, e.cls = .alarm p)
                ∨ ∃ g, t.ring.sending = some (.inserted (.alarm p) g))
            ∧ (u.mode = .parked → u.heldTrips = [] →
                (∀ (p : Fin 48) (n : Nat), (u.tables.staging.points[p]).enabled = true →
                  n = (u.tables.staging.points[p]).source →
                  n ≠ 36 ∧ (n < 16 ∨ 19 < n) ∧ (n < 38 ∨ 53 < n) ∧ (n < 56 ∨ 68 < n)) →
                t.brakes = u.brakes ∧ t.trip = u.trip ∧ t.ctl = u.ctl ∧ t.tester = u.tester ∧ t.tight = u.tight
                  ∧ t.walk = u.walk ∧ t.alarm.list = []
                  ∧ ∀ (p : Fin 48) (c : PointCfg), c = u.tables.staging.points[p] →
                      ∀ src : Source, src = (if c.enabled then t.source c.source else { value := 0, valid := false }) →
                      t.alarm.points[p] =
                        { state := if c.enabled = true ∧ c.mask.getLsbD Mode.parked.code = true then .normal
                                   else .disarmed
                          mark := false, tDelay := none, tShelf := none, since := none
                          chValue := src.value, chValid := src.valid, chTime := u.now }))

/-- COMMIT and its completion (R199). The region then holds the bytes read back (log 38), and a completion with no
COMMIT in flight changes nothing (log 17). After a completion the store is IDLE, or an autosave held over the COMMIT
begins (R199, R200). -/
def Obligations.CommitWritesTables : Prop :=
  (∀ (h : Header) (tag : Half) (s u : State) (f : Frame),
    f = requestFrame h 6#8 tag [] → s.requests f = true → u = admitted f s →
    ∃ t, exec (.commit h tag) s = .next t
      ∧ (u.tables.valid = false → Answered (s.asker f) .wrongMode [] t ∧ OnlyRing u t)
      ∧ (u.tables.valid = true → u.store.state ≠ .idle → Answered (s.asker f) .busy [] t ∧ OnlyRing u t)
      ∧ (u.tables.valid = true → u.store.state = .idle →
          t.store.state = .committing ∧ t.store.image = regionBytes (tablesBytes u.act)
            ∧ t.store.answer = some (s.asker f) ∧ t.ring.reserved = s.ring.reserved + 1
            ∧ t = { u with store := t.store, ring := t.ring, owed := t.owed, statusOwed := t.statusOwed }))
    ∧ ∀ (readBack : List Byte) (s : State),
        ∃ t, exec (.commitCompletion readBack) s = .next t
          ∧ (s.store.state ≠ .committing → OnlyRing s t)
          ∧ (s.store.state = .committing →
              t.store.tablesRegion = .bytes readBack
                ∧ (readBack = s.store.image → t.store.last = .ok ∧ t.tables.committed = true)
                ∧ (readBack ≠ s.store.image → t.store.last = .storeFailed ∧ t.tables.committed = false)
                ∧ (s.store.held = false → t.store.state = .idle)
                ∧ (s.store.held = true → t.store.state = .saving ∧ t.store.held = false
                    ∧ t.store.image = regionBytes s.saveImage ∧ t.store.answer = none)
                ∧ ∀ rq, s.store.answer = some rq →
                    Answered rq (if readBack = s.store.image then .ok else .storeFailed) [] t)

/-- SAVE_ATTRIBUTES, the autosave, the minute that makes one fall due, and the completion (R178, R200). The region then
holds the bytes read back (log 38), a completion with no save in flight changes nothing (log 17), and a minute expiry
before its time has no effect (log 2). After the completion the store is IDLE, or a held autosave begins (R200). That
the command AUTOSAVE is an autosave falling due is log 10's. -/
def Obligations.AttributeSaves : Prop :=
  (∀ (h : Header) (tag : Half) (s u : State) (f : Frame),
    f = requestFrame h 7#8 tag [] → s.requests f = true → u = admitted f s →
    ∃ t, exec (.saveAttributes h tag) s = .next t
      ∧ (u.store.state ≠ .idle → Answered (s.asker f) .busy [] t ∧ OnlyRing u t)
      ∧ (u.store.state = .idle →
          t.store.state = .saving ∧ t.store.image = regionBytes u.saveImage ∧ t.store.answer = some (s.asker f)
            ∧ t = { u with store := t.store, ring := t.ring, owed := t.owed, statusOwed := t.statusOwed }))
    ∧ (∀ s : State, ∃ t, exec .autosave s = .next t
        ∧ (s.store.state = .idle → t.store.state = .saving ∧ t.store.image = regionBytes s.saveImage
            ∧ t.store.answer = none)
        ∧ (s.store.state ≠ .idle → t.store = { s.store with held := true })
        ∧ t = { s with store := t.store, ring := t.ring, owed := t.owed, statusOwed := t.statusOwed })
    ∧ (∀ s : State, ∃ t, exec .minuteTimerExpiry s = .next t
        ∧ (s.expired s.attrs.tMinute = true →
            t.attrs.minutes = min 4294967295 (s.attrs.minutes + 1) ∧ t.attrs.tMinute = some (s.now + 60000)
              ∧ t.attrs.recs = s.attrs.recs
              ∧ (t.attrs.minutes % 60 = 0 → s.attrs.minutes < 4294967295 → s.store.state = .idle →
                  t.store.state = .saving)
              ∧ (t.attrs.minutes % 60 ≠ 0 → t.store = s.store))
        ∧ (s.expired s.attrs.tMinute = false → OnlyRing s t))
    ∧ ∀ (readBack : List Byte) (s : State),
        ∃ t, exec (.saveCompletion readBack) s = .next t
          ∧ (s.store.state ≠ .saving → OnlyRing s t)
          ∧ (s.store.state = .saving →
              t.store.attrsRegion = .bytes readBack ∧ t.tables = s.tables ∧ t.attrs = s.attrs
                ∧ (readBack = s.store.image → t.store.last = .ok ∧ t.store.attrsLost = false)
                ∧ (readBack ≠ s.store.image →
                    t.store.last = .storeFailed ∧ t.store.attrsLost = s.store.attrsLost)
                ∧ (s.store.held = false → t.store.state = .idle)
                ∧ (s.store.held = true → t.store.state = .saving ∧ t.store.held = false
                    ∧ t.store.image = regionBytes s.saveImage ∧ t.store.answer = none)
                ∧ ∀ rq, s.store.answer = some rq →
                    Answered rq (if readBack = s.store.image then .ok else .storeFailed) [] t)

/-- RENEW_ATTRIBUTE (R177): an id outside 1..13 is BAD_INDEX; outside PARKED WRONG_MODE; else the record is renewed and
no other record changes. That a renewed WEAR record also reads never-measured is the model's choice (log 37). -/
def Obligations.RenewAttribute : Prop :=
  ∀ (h : Header) (tag : Half) (id : Byte) (s u : State) (f : Frame),
    f = requestFrame h 9#8 tag [id] → s.requests f = true → u = admitted f s →
    ∃ t, exec (.renewAttribute h tag id) s = .next t
      ∧ ((id.toNat = 0 ∨ 13 < id.toNat) → Answered (s.asker f) .badIndex [] t ∧ OnlyRing u t)
      ∧ (∀ i : Fin 13, i.val + 1 = id.toNat →
          (u.mode ≠ .parked → Answered (s.asker f) .wrongMode [] t ∧ OnlyRing u t)
          ∧ (u.mode = .parked →
              Answered (s.asker f) .ok [] t
                ∧ t.attrs.recs[i] = { raw := 0, norm := 100, worst := 100, never := true }
                ∧ t.source (56 + i.val) =
                    (if (u.attrs.recs[i]).norm = 100 then u.source (56 + i.val) else { value := 100, valid := true })
                ∧ (∀ j : Fin 13, j ≠ i → t.attrs.recs[j] = u.attrs.recs[j])
                ∧ t.attrs.minutes = u.attrs.minutes ∧ t.store = u.store ∧ t.tables = u.tables))

/-- CONSUME_TRIPS (R165, R166), in every mode: the n oldest records leave, the answer counts them, and the count of
records not stored is cleared when the queue is empty after the request. What the change of the two sources hands on can
trip the machine, whose record is then appended; where no point watches them and no trip is held, each source that
changed is handed with its new value, and outside INIT, or where the queue's length stands, nothing more changes. In
INIT a change of the length makes the test of R33: with its conditions holding the machine is PARKED with both lines
energised, and else the INIT reason is worked out anew (R32). A DRIVE entry with no axis counts among those that must be
FRESH (log 55). -/
def Obligations.ConsumeTrips : Prop :=
  ∀ (h : Header) (tag : Half) (n : Byte) (s u : State) (f : Frame) (q : List TripRecord),
    f = requestFrame h 12#8 tag [n] → s.requests f = true → u = admitted f s → q = u.trip.queue.drop n.toNat →
    ∃ t, exec (.consumeTrips h tag n) s = .next t
      ∧ Answered (s.asker f) .ok
          [byte (min n.toNat u.trip.queue.length), byte (u.trip.queue.length - n.toNat)] t
      ∧ q <+: t.trip.queue
      ∧ (u.pointsOn 54 = [] → u.pointsOn 55 = [] → (u.mode = .init → u.heldTrips = []) →
          t.trip.queue = q ∧ t.trip.notStored = (if q = [] then 0 else u.trip.notStored)
            ∧ t.trip.next = u.trip.next
            ∧ (∀ code, code ≠ 54 → code ≠ 55 → t.source code = u.source code)
            ∧ (q ≠ u.trip.queue → t.source 54 = { value := q.length, valid := true })
            ∧ (q = u.trip.queue → t.source 54 = u.source 54)
            ∧ (t.trip.notStored ≠ u.trip.notStored → t.source 55 = { value := 0, valid := true })
            ∧ (t.trip.notStored = u.trip.notStored → t.source 55 = u.source 55)
            ∧ ((u.mode ≠ .init ∨ q = u.trip.queue) →
                t.trip.field = u.trip.field ∧ t.trip.brake = u.trip.brake
                  ∧ t = { u with trip := t.trip, alarm := { u.alarm with sources := t.alarm.sources }, ring := t.ring
                                 owed := t.owed, statusOwed := t.statusOwed })
            ∧ (u.mode = .init → q ≠ u.trip.queue →
                ∀ k : State, k = { u with trip := { u.trip with queue := q, notStored := t.trip.notStored } } →
                ((StationGood k ∧ k.tables.valid = true ∧ ¬RecordsHeld k ∧ ¬BrakeNotSet k ∧ ¬DriveNotFresh k
                    ∧ ¬AnalogSettles k) →
                  t.mode = .parked ∧ t.trip = { k.trip with field := .energised, brake := .energised }
                    ∧ t.ctl.reason = .none ∧ t.ctl.slot = none ∧ t.ctl.hold = .none ∧ t.ctl.entryTime = u.now
                    ∧ Rearmed u t
                    ∧ t = { u with ctl := t.ctl, trip := t.trip, alarm := t.alarm, ring := t.ring, owed := t.owed
                                   statusOwed := t.statusOwed })
                ∧ (¬(StationGood k ∧ k.tables.valid = true ∧ ¬RecordsHeld k ∧ ¬BrakeNotSet k ∧ ¬DriveNotFresh k
                    ∧ ¬AnalogSettles k) →
                  t.ctl = { u.ctl with reason := k.workedReason } ∧ t.trip = k.trip
                    ∧ t = { u with ctl := t.ctl, trip := t.trip, alarm := { u.alarm with sources := t.alarm.sources }
                                   ring := t.ring, owed := t.owed, statusOwed := t.statusOwed })))

/-- RESTART is answered BUSY during a store operation or a pending RESTART, else OK; when the sending of that answer
completes the restart takes effect, and trip records, test log, wear records, service minutes, the last store result and
the attributes-lost flag are kept (R202). The steps of R201 run but for the loading of the attributes: all else is as
after a power-on reset, the tables are loaded again from the store region (log 7 for one that holds no table set), and
the normalised and worst values of the records kept are worked out afresh under them (R179), a quotient by 0 being a
free value (log 50); the next record number and the count of records not stored are kept. What a reset leaves as it
stands is log 22's. RESTART_TAKES_EFFECT is that completion; with no answer to RESTART being sent it only builds the
notices that are owed (log 28). That is stated with no frame taken before the tables are loaded again; frames taken
before that are handled with no table in force and no station entry in use (R26, R201; log 32). The Status Notice is
built at the end of the command, with the fields as they then stand (log 6). -/
def Obligations.Restart : Prop :=
  (∀ (h : Header) (tag : Half) (s u : State) (f : Frame),
    f = requestFrame h 18#8 tag [] → s.requests f = true → u = admitted f s →
    ∃ t, exec (.restart h tag) s = .next t
      ∧ ((u.store.state ≠ .idle ∨ u.store.restartPending = true) →
          Answered (s.asker f) .busy [] t ∧ OnlyRing u t)
      ∧ (u.store.state = .idle → u.store.restartPending = false →
          Answered (s.asker f) .ok [] t ∧ t.store.restartPending = true
            ∧ t = { u with store := { u.store with restartPending := true }, ring := t.ring, owed := t.owed,
                           statusOwed := t.statusOwed }))
    ∧ (∀ s : State, s.sendsRestart = true →
        ∃ t, exec (.restartTakesEffect []) s = .next t ∧ exec .sendingComplete s = .next t
          ∧ t.now = 0 ∧ (t.mode = .init ∨ t.mode = .tripped)
          ∧ s.trip.queue <+: t.trip.queue
          ∧ t.tester.log = s.tester.log ∧ t.tester.pointer = s.tester.pointer
          ∧ t.tester.nextNumber = s.tester.nextNumber
          ∧ (∀ i : Fin 13, (t.attrs.recs[i]).raw = (s.attrs.recs[i]).raw
              ∧ (t.attrs.recs[i]).never = (s.attrs.recs[i]).never)
          ∧ t.attrs.minutes = s.attrs.minutes
          ∧ t.store.last = s.store.last ∧ t.store.attrsLost = s.store.attrsLost
          ∧ (∀ c, t.brakes.get c = resetChannel) ∧ (∀ c, t.counter c = 0#32) ∧ t.ring.fwd = []
          ∧ StartedUp (if s.store.state = .committing then .unfinished else s.store.tablesRegion) t
          ∧ KeptOver s t ∧ t.pins = s.pins ∧ t.pending = s.pending)
    ∧ (∀ (early : List (List Byte)) (s : State), s.sendsRestart = true →
        ∃ v w t, BeforeTables s v ∧ v.pins = s.pins
          ∧ v.trip.queue = s.trip.queue ∧ v.trip.next = s.trip.next ∧ v.trip.notStored = s.trip.notStored
          ∧ v.tester.log = s.tester.log ∧ v.tester.pointer = s.tester.pointer
          ∧ v.tester.nextNumber = s.tester.nextNumber
          ∧ v.attrs.recs = s.attrs.recs ∧ v.attrs.minutes = s.attrs.minutes
          ∧ v.store.last = s.store.last ∧ v.store.attrsLost = s.store.attrsLost
          ∧ FramesTaken early v w ∧ exec (.restartTakesEffect early) s = .next t
          ∧ StartEnds w t ∧ AttrsKept w t ∧ t.store.attrsLost = w.store.attrsLost)
    ∧ ∀ (early : List (List Byte)) (s : State), s.sendsRestart = false →
        exec (.restartTakesEffect early) s = .next (finish s)

/-! OUT and the notices. -/

/-- The OUT arbiter's choice (R19, R20); and at the completion of a sending a forwarded frame leaves its queue, counted
FORWARDED, and REWRITTEN when its payload differs, an inserted one is counted INSERTED (R12, R15), and the frame that
OUT sends next is the arbiter's choice from the queues that are left: the oldest entry of the first class of the insert
queue where the forward queue is empty or has had 8 frames in a row, with the next insert sequence, else the forward
queue's head (R19). SENDING_COMPLETE while OUT is idle changes nothing but notices (log 17). -/
def Obligations.OutArbiter : Prop :=
  (∀ s : State,
    (∀ e rest, s.ring.ins = e :: rest → (s.ring.fwd = [] ∨ s.ring.consec = 8) →
      choose s = { s with ring := { s.ring with
        ins := rest, consec := 0, insSeq := s.ring.insSeq + 1#8,
        sending := some (.inserted e.cls { dst := e.dst, src := e.src, kind := e.kind, life := e.life,
                                           seq := s.ring.insSeq, payload := e.payload }) } })
    ∧ (s.ring.fwd ≠ [] → (s.ring.ins = [] ∨ s.ring.consec ≠ 8) →
        choose s = { s with ring := { s.ring with sending := some .forward, consec := min 8 (s.ring.consec + 1) } })
    ∧ (s.ring.fwd = [] → s.ring.ins = [] → choose s = { s with ring := { s.ring with sending := none } }))
    ∧ ∀ s : State, s.sendsRestart = false →
        ∃ t, exec .sendingComplete s = .next t
          ∧ (s.ring.sending = some .forward → ∀ e rest, s.ring.fwd = e :: rest →
              t.ring.fwd = rest ∧ t.counter .forwarded = bumpWord (s.counter .forwarded)
                ∧ t.counter .rewritten =
                    (if e.frame.payload = e.taken then s.counter .rewritten else bumpWord (s.counter .rewritten)))
          ∧ (∀ c f, s.ring.sending = some (.inserted c f) →
              t.ring.fwd = s.ring.fwd ∧ t.counter .inserted = bumpWord (s.counter .inserted))
          ∧ (s.ring.sending = none → OnlyRing s t)
          ∧ (s.ring.sending ≠ none → ∀ q, q = (if s.ring.sending = some .forward then s.ring.fwd.tail else s.ring.fwd) →
              (∀ e rest, s.ring.ins = e :: rest → (q = [] ∨ s.ring.consec = 8) →
                t.ring.sending = some (.inserted e.cls { dst := e.dst, src := e.src, kind := e.kind, life := e.life,
                                                         seq := s.ring.insSeq, payload := e.payload })
                  ∧ t.ring.insSeq = s.ring.insSeq + 1#8 ∧ t.ring.consec = 0)
              ∧ (q ≠ [] → (s.ring.ins = [] ∨ s.ring.consec ≠ 8) →
                  t.ring.sending = some .forward ∧ t.ring.fwd = q ∧ t.ring.insSeq = s.ring.insSeq
                    ∧ t.ring.consec = min 8 (s.ring.consec + 1)))
          ∧ t.feedback = s.feedback ∧ t.stations = s.stations ∧ t.tables = s.tables ∧ t.attrs = s.attrs

/-- Notices are built when there is room: the Status Notice first, with its fields as they stand, and then the Alarm
Notice of the lowest point owed; nothing but the ring interface and the owed marks changes (R18). The fields of the
Status Notice (R204) and of an Alarm Notice (R142), one after the other; a name stands as its position in the list of
its rule, a number high byte first, and a signed one in two's complement (R191); the widths are log 16's, the positions
of axes and channels log 12's, and a change time of more than 32 bits reads modulo 2^32 (log 1). The percent remaining
with a segment count of 0 is a free value (log 50). That an Alarm Notice's source valid is sent as a mark, 1 for VALID,
is the model's choice (log 59). That the two commands make the test of R18 again is log 10's, and that notices are built
at the end of a command log 6's. -/
def Obligations.NoticesBuilt : Prop :=
  (∀ s : State, s.noticeRoom = true → s.statusBuildable = true →
    ∃ t, exec .statusNotice s = .next t ∧ t.statusOwed = false ∧ OnlyRing s t
      ∧ Inserted .status 63#8 8#4 s.statusFields t)
    ∧ (∀ (s : State) (p : Fin 48), s.noticeRoom = true → s.statusBuildable = false →
        s.alarmBuildable = some p →
        ∃ t, exec .alarmNotice s = .next t ∧ t.owed[p] = false ∧ OnlyRing s t
          ∧ Inserted (.alarm p) 63#8 7#4 (s.alarmFields p) t)
    ∧ (∀ s : State, s.ownValid = false →
        exec .statusNotice s = .next s ∧ exec .alarmNotice s = .next s)
    ∧ (∀ s : State, s.statusFields =
        [byte s.mode.code, byte s.ctl.reason.code]
          ++ (match s.ctl.slot with | none => [0#8] | some v => [1#8, byte v.target.code, byte v.wait.code])
          ++ [byte s.ctl.refusal.code, byte s.brakes.hoist.state.code, byte s.brakes.drag.state.code,
              byte s.brakes.swing.state.code, byte s.brakes.walk.state.code, byte s.trip.field.code,
              byte s.trip.brake.code, byte s.trip.queue.length] ++ encNat 2 s.trip.notStored
          ++ [byte s.alarm.list.length,
              byte ((List.finRange 48).filter fun p => (s.alarm.points[p]).state == .activeUnack
                || (s.alarm.points[p]).state == .returnedUnack).length,
              byte s.tester.status.code,
              byte (if s.tester.status = .neverRun then 100
                    else (100 - quotient (100 * s.tester.completed) s.tester.count) / 10 * 10)]
          ++ encNat 2 s.walk.steps ++ [byte s.store.state.code, flagByte s.store.attrsLost])
    ∧ (∀ (s : State) (p : Fin 48), s.alarmFields p =
        [byte (p.val + 1), byte (s.alarm.points[p]).state.code, flagByte (s.alarm.points[p]).mark]
          ++ (if (s.act.points[p]).enabled then [1#8, byte (s.act.points[p]).cls.code] else [0#8])
          ++ encInt 5 (s.alarm.points[p]).chValue ++ [flagByte (s.alarm.points[p]).chValid]
          ++ encNat 4 ((s.alarm.points[p]).chTime % 4294967296))
    ∧ NamesByPosition
    ∧ (∀ n v : Nat, encNat n v = (List.range n).map fun i => byte (v / 256 ^ (n - 1 - i)))
    ∧ (∀ (n : Nat) (v : Int), encInt n v = encNat n (v % (256 ^ n : Nat)).toNat)
    ∧ flagByte true = 1#8 ∧ flagByte false = 0#8

/-! The mode controller's events. -/

/-- The reactions that lead to PARKED. In INIT, with the start conditions of R33 holding, both lines are energised and
PARKED follows; else the INIT reason is worked out anew, the first of R32's that applies. With a PARK waiting for the
brakes and all four channels SET the mode becomes PARKED (R40). The HOME report ends a wait for HOME: the wait becomes
BRAKES and the hold stands on the WALK channel, asked to set (R41); with all four channels SET then, the mode is PARKED
at once (R40). That the three commands make again the tests of the events that complete these conditions is log 10's,
and a DRIVE entry with no axis counts among those that must be FRESH (log 55). -/
def Obligations.ParkedIsEntered : Prop :=
  (∀ s : State, s.mode = .init → s.heldTrips = [] →
    ∃ t, exec .initToParked s = .next t
      ∧ (s.startReady = true →
          t.mode = .parked ∧ t.trip = { s.trip with field := .energised, brake := .energised }
            ∧ t.ctl.reason = .none ∧ t.ctl.slot = none ∧ t.brakes = s.brakes ∧ t.feedback = s.feedback
            ∧ Rearmed s t)
      ∧ (s.startReady = false →
          t.ctl = { s.ctl with reason := s.workedReason }
            ∧ t = { s with ctl := t.ctl, ring := t.ring, owed := t.owed, statusOwed := t.statusOwed }))
    ∧ (∀ s : State, s.startReady = true ↔
        StationGood s ∧ s.tables.valid = true ∧ ¬RecordsHeld s ∧ ¬BrakeNotSet s ∧ ¬DriveNotFresh s ∧ ¬AnalogSettles s)
    ∧ (∀ s : State,
        (¬StationGood s → s.workedReason = .badStation)
        ∧ (StationGood s → s.tables.valid = false → s.workedReason = .noTables)
        ∧ (StationGood s → s.tables.valid = true → RecordsHeld s → s.workedReason = .holdRecords)
        ∧ (StationGood s → s.tables.valid = true → ¬RecordsHeld s → s.workedReason = .waiting))
    ∧ (∀ s : State, s.ctl.slot = some { target := .park, wait := .brakes } → s.heldTrips = [] →
        ∃ t, exec .parkingComplete s = .next t
          ∧ (s.allSet = true →
              (s.mode = .walking ∨ (s.mode = .dig ∧ (s.tight.start = none ∨ s.pointsOn 37 = []))) →
              t.mode = .parked ∧ t.ctl.slot = none ∧ t.ctl.hold = .none ∧ t.ctl.entryTime = s.now
                ∧ t.trip = s.trip ∧ t.brakes = s.brakes ∧ Rearmed s t)
          ∧ (s.allSet = false → OnlyRing s t))
    ∧ ∀ s : State, s.mode = .walking → s.ctl.slot = some { target := .park, wait := .homePhase } →
        ∃ t, exec .homeWaitEnd s = .next t
          ∧ (s.walk.phase = some .home → (parkingSetAll s).allSet = false →
              t.mode = .walking ∧ t.ctl.slot = some { target := .park, wait := .brakes } ∧ t.ctl.hold = .walkChannel
                ∧ t.brakes.walk.state ≠ .released ∧ t.brakes.walk.state ≠ .releasePending
                ∧ t = { s with ctl := t.ctl, brakes := t.brakes, ring := t.ring, owed := t.owed,
                               statusOwed := t.statusOwed })
          ∧ (s.walk.phase = some .home → (parkingSetAll s).allSet = true → s.heldTrips = [] → ParkedAtOnce s t)
          ∧ (s.walk.phase ≠ some .home → OnlyRing s t)

/-- The end of a DWELL wait (R38). In PARKED the request is checked again and carried out, or refused with the slot
emptied. A PARK in DIG begins parking: the wait becomes BRAKES, the hold stands on the dig channels and a parking
set-all is handed over (R39). A PARK in WALKING begins the wait for HOME, which ends at once when the phase is HOME
(R41). Where a set-all leaves all four channels SET the mode is PARKED at once, with the points re-armed (R40, R135;
stated in DIG with no tightline episode, or no point on its duration). That an expiry before its time has no effect is
the model's choice (log 2). A walk-preparation condition on a sensor channel above 15, which only a loaded region can
hold, fails (log 50). -/
def Obligations.DwellExpires : Prop :=
  (∀ (s : State) (g : Target) (d : Nat), s.mode = .parked → s.ctl.slot = some { target := g, wait := .dwell d } →
    s.heldTrips = [] → g ≠ .park →
    ∃ t, exec .dwellExpiry s = .next t
      ∧ (d ≤ s.now → s.requestCheck = none → g = .dig → t.mode = .dig ∧ t.ctl.slot = none)
      ∧ (d ≤ s.now → s.requestCheck = none → g = .walk → WalkTaken s t)
      ∧ (d ≤ s.now → ∀ r, s.requestCheck = some r →
          t.ctl = { s.ctl with refusal := r, slot := none }
            ∧ t = { s with ctl := t.ctl, ring := t.ring, owed := t.owed, statusOwed := t.statusOwed })
      ∧ (s.now < d → OnlyRing s t))
    ∧ ∀ (s : State) (d : Nat), (s.mode = .dig ∨ s.mode = .walking) →
        s.ctl.slot = some { target := .park, wait := .dwell d } →
        ∃ t, exec .dwellExpiry s = .next t
          ∧ (s.now < d → OnlyRing s t)
          ∧ (d ≤ s.now → s.mode = .dig →
              ((parkingSetAll s).allSet = false →
                t.ctl = { s.ctl with slot := some { target := .park, wait := .brakes }, hold := .digChannels }
                  ∧ t.brakes = (parkingSetAll s).brakes
                  ∧ (∀ c, (t.brakes.get c).state ≠ .releasePending ∧ (t.brakes.get c).state ≠ .released)
                  ∧ t = { s with ctl := t.ctl, brakes := t.brakes, ring := t.ring, owed := t.owed,
                                 statusOwed := t.statusOwed })
              ∧ ((parkingSetAll s).allSet = true → s.heldTrips = [] → (s.tight.start = none ∨ s.pointsOn 37 = []) →
                  ParkedAtOnce s t))
          ∧ (d ≤ s.now → s.mode = .walking →
              (s.walk.phase ≠ some .home →
                t.ctl = { s.ctl with slot := some { target := .park, wait := .homePhase } }
                  ∧ t = { s with ctl := t.ctl, ring := t.ring, owed := t.owed, statusOwed := t.statusOwed })
              ∧ (s.walk.phase = some .home → (parkingSetAll s).allSet = false →
                  t.ctl = { s.ctl with slot := some { target := .park, wait := .brakes }, hold := .walkChannel }
                    ∧ t.brakes = (parkingSetAll s).brakes
                    ∧ t = { s with ctl := t.ctl, brakes := t.brakes, ring := t.ring, owed := t.owed,
                                   statusOwed := t.statusOwed })
              ∧ (s.walk.phase = some .home → (parkingSetAll s).allSet = true → s.heldTrips = [] → ParkedAtOnce s t))

/-- The end of walk preparation (R42, R118, R119, R120): confirmed, WALKING with a new session, or PARKED with
ATTRIBUTE_PREFAIL; failed at the last test, the confirm timer stops; timed out, PARKED with WALK_PREP_TIMEOUT. At the
entry to WALKING a set cam-reversal flag is cleared and handed, and a skew above its limit trips the machine. The
conditions are those of R116 with the heading check of R99. A re-test in WALK_PREP starts a stopped confirm timer when
they hold, or confirms at once with a confirm time of 0, and stops a running one when they fail; in any other mode it
does nothing (R117, R118). The record of the SKEW trip holds the time modulo 2^32 (log 1), and a condition on a sensor
channel above 15, which only a loaded region can hold, fails (log 50). -/
def Obligations.WalkPreparationEnds : Prop :=
  (∀ s : State, s.prepHolds = true ↔ PrepReady s)
  ∧ (∀ s t : State, t = prepRetest s →
      (s.mode ≠ .walkPrep → t = s)
      ∧ (s.mode = .walkPrep →
          (s.walk.tConfirm = none → ¬PrepReady s → t = s)
          ∧ (s.walk.tConfirm = none → PrepReady s → s.act.walk.prepConfirm ≠ 0 →
              t = { s with walk := { s.walk with tConfirm := some (s.now + s.act.walk.prepConfirm) } })
          ∧ (s.walk.tConfirm = none → PrepReady s → s.act.walk.prepConfirm = 0 → s.heldTrips = [] →
              (¬PrefailStands s →
                t = changeMode .walking s ∧ WalkEntered s t ∧ (WalkClear s → WalkBegun s t))
              ∧ (PrefailStands s →
                  t.mode = .parked ∧ t.ctl.refusal = .attrPrefail ∧ t.walk.tTimeout = none ∧ t.brakes = s.brakes))
          ∧ (∀ d, s.walk.tConfirm = some d →
              (PrepReady s → t = s) ∧ (¬PrepReady s → t = { s with walk := { s.walk with tConfirm := none } }))))
  ∧ ∀ s : State, s.mode = .walkPrep → s.heldTrips = [] →
    (s.expired s.walk.tConfirm = true →
      ∃ t, exec .confirmTimerExpiry s = .next t
        ∧ (s.prepHolds = true → s.prefailCrossed = false → t = finish (changeMode .walking s) ∧ WalkEntered s t)
        ∧ (s.prepHolds = true → s.prefailCrossed = true →
            t.mode = .parked ∧ t.ctl.refusal = .attrPrefail ∧ t.walk.tTimeout = none ∧ t.brakes = s.brakes)
        ∧ (s.prepHolds = false → t.mode = .walkPrep ∧ t.walk = { s.walk with tConfirm := none }))
    ∧ (s.expired s.walk.tTimeout = true →
        ∃ t, exec .prepTimeoutExpiry s = .next t ∧ t.mode = .parked ∧ t.ctl.refusal = .walkPrepTimeout
          ∧ t.walk.tConfirm = none ∧ t.walk.tTimeout = none ∧ t.brakes = s.brakes ∧ t.trip = s.trip ∧ Rearmed s t)

/-! Channel timers. -/

/-- The release-due and prove timers (R51, R52), the prove-failed flag that the second sets and its source, handed with 1
where the flag changes (R67; log 19), and a Drive Status for a channel in RELEASE_PENDING: a proving arrival
sets the proved mark and, once the due time has been reached, completes the release, or returns the channel to SET when
it is barred; any other report that contradicts nothing leaves the channel as it is (R51, R59). -/
def Obligations.ReleaseDueAndProve : Prop :=
  (∀ (c : Chan) (s : State), (s.brakes.get c).state = .releasePending →
    (s.expired (s.brakes.get c).tDue = true →
      ∃ t, exec (.releaseDueExpiry c) s = .next t
        ∧ t = { s with brakes := t.brakes, ring := t.ring, owed := t.owed, statusOwed := t.statusOwed }
        ∧ (∀ d, d ≠ c → t.brakes.get d = s.brakes.get d)
        ∧ ((s.brakes.get c).proved = true → s.barred c = false → s.request c ≠ .hold →
            (t.brakes.get c).state = .releasing
              ∧ (t.brakes.get c).tRelease = some (s.now + (s.act.brake.get c).releaseConfirm)
              ∧ (t.brakes.get c).confirm = ⟨false, false⟩ ∧ (t.brakes.get c).tProve = none)
        ∧ ((s.brakes.get c).proved = true → (s.barred c = true ∨ s.request c = .hold) →
            (t.brakes.get c).state = .set ∧ (t.brakes.get c).setTime = (s.brakes.get c).setTime)
        ∧ ((s.brakes.get c).proved = false →
            t.brakes.get c = { (s.brakes.get c) with tDue := none }))
    ∧ (s.expired (s.brakes.get c).tProve = true →
        ∃ t, exec (.proveTimerExpiry c) s = .next t
          ∧ (t.brakes.get c).state = .set ∧ (t.brakes.get c).proveFailed = true
          ∧ (t.brakes.get c).setTime = (s.brakes.get c).setTime ∧ (t.brakes.get c).tProve = none
          ∧ ((s.brakes.get c).proveFailed = false →
              t.source (69 + chanPos c) = { value := 1, valid := true })
          ∧ ((s.brakes.get c).proveFailed = true → t.source (69 + chanPos c) = s.source (69 + chanPos c))
          ∧ t.feedback = s.feedback ∧ t.attrs = s.attrs ∧ t.stations = s.stations))
    ∧ ∀ (x : Axis) (trig : List Byte) (s t : State) (c : Chan) (ch : Channel) (due : Nat),
        c = chanOf x → ch = s.brakes.get c → ch.state = .releasePending → ch.due = some due → ¬Contradicts s x →
        t = channelArrival x trig s →
        t = { s with brakes := t.brakes, statusOwed := t.statusOwed }
        ∧ (∀ d, d ≠ c → t.brakes.get d = s.brakes.get d)
        ∧ ((c = .swing ∨ c = .walk ∨ -((s.act.brake.get c).proving : Int) < (s.feedback.get x).current) →
            t.brakes.get c = { ch with tAutoset := none })
        ∧ ((c = .hoist ∨ c = .drag) → (s.feedback.get x).current ≤ -((s.act.brake.get c).proving : Int) →
            (s.now < due → t.brakes.get c = { ch with proved := true, tAutoset := none })
            ∧ (due ≤ s.now → ¬Barred s c → ¬HoldStands s c →
                t.brakes.get c =
                  { ch.stopTimers with
                    state := .releasing, due := none, proved := true, confirm := ⟨false, false⟩
                    tRelease := some (s.now + (s.act.brake.get c).releaseConfirm) })
            ∧ (due ≤ s.now → (Barred s c ∨ HoldStands s c) →
                t.brakes.get c = { ch.stopTimers with state := .set, due := none, proved := false }))

/-- The release confirm, release dwell and autoset timers (R53, R55, R56), the first with the release-timeout flag set and
its source handed with 1 where the flag changes (R67; log 19), and what a Drive Status that is no brake
fault does to a channel in the states it waits in. RELEASING: it writes the axis's confirm mark, and with every mark set
the channel is RELEASED, its flags cleared, or begins to set under HOLD (R53). RELEASED and SET_PENDING: SET means the
drive has set its brake, and the channel is SETTING with that axis's mark, or SET when that completes the marks (R54;
log 34); any other report only tests quietness (R56). SETTING and FAULT: SET at standstill marks the axis, and with
every mark set the channel is SET and, from SETTING, wears by 10 after a hard set and by 1 otherwise (R57, R58, R61,
R175). -/
def Obligations.SettingTimers : Prop :=
  (∀ (c : Chan) (s : State),
    ((s.brakes.get c).state = .releasing → s.expired (s.brakes.get c).tRelease = true →
      ∃ t, exec (.releaseConfirmExpiry c) s = .next t
        ∧ (t.brakes.get c).state = .setting ∧ (t.brakes.get c).releaseTimeout = true
        ∧ (t.brakes.get c).tSet = some (s.now + (s.act.brake.get c).setConfirm)
        ∧ ((s.brakes.get c).releaseTimeout = false →
            t.source (73 + chanPos c) = { value := 1, valid := true })
        ∧ ((s.brakes.get c).releaseTimeout = true → t.source (73 + chanPos c) = s.source (73 + chanPos c))
        ∧ t.feedback = s.feedback ∧ t.attrs = s.attrs)
    ∧ ((s.brakes.get c).state = .setPending → s.expired (s.brakes.get c).tDwell = true →
        ∃ t, exec (.releaseDwellExpiry c) s = .next t
          ∧ t = { s with brakes := t.brakes, ring := t.ring, owed := t.owed, statusOwed := t.statusOwed }
          ∧ (∀ d, d ≠ c → t.brakes.get d = s.brakes.get d)
          ∧ (t.brakes.get c).state = .setting ∧ (t.brakes.get c).hardSet = s.moving c
          ∧ (t.brakes.get c).confirm = ⟨false, false⟩
          ∧ (t.brakes.get c).tSet = some (s.now + (s.act.brake.get c).setConfirm))
    ∧ ((s.brakes.get c).state = .released → s.expired (s.brakes.get c).tAutoset = true →
        ∃ t, exec (.autosetExpiry c) s = .next t
          ∧ t = { s with brakes := t.brakes, ring := t.ring, owed := t.owed, statusOwed := t.statusOwed }
          ∧ (∀ d, d ≠ c → t.brakes.get d = s.brakes.get d)
          ∧ (t.brakes.get c).armed = false
          ∧ ((s.brakes.get c).releasedTime.getD 0 + (s.act.brake.get c).minRelease ≤ s.now →
              (t.brakes.get c).state = .setting)
          ∧ (s.now < (s.brakes.get c).releasedTime.getD 0 + (s.act.brake.get c).minRelease →
              (t.brakes.get c).state = .setPending
                ∧ (t.brakes.get c).tDwell
                    = some ((s.brakes.get c).releasedTime.getD 0 + (s.act.brake.get c).minRelease))))
    ∧ ∀ (x : Axis) (trig : List Byte) (s t : State) (c : Chan) (ch : Channel) (b : DriveBrake),
        c = chanOf x → ch = s.brakes.get c → b = (s.feedback.get x).brake → t = channelArrival x trig s →
        (ch.state = .releasing → b ≠ .fault → ∀ marks, marks = ch.confirm.set x (decide (b = .released)) →
          (marks.all c = false →
            t.brakes.get c = { ch with confirm := marks, tAutoset := none }
              ∧ (∀ d, d ≠ c → t.brakes.get d = s.brakes.get d)
              ∧ t = { s with brakes := t.brakes, statusOwed := t.statusOwed })
          ∧ (marks.all c = true → s.pointsOn (69 + chanPos c) = [] → s.pointsOn (73 + chanPos c) = [] →
              ∀ rel : Channel, rel = { ch.stopTimers with
                  state := .released, confirm := marks, releasedTime := some s.now, proveFailed := false
                  releaseTimeout := false, armed := decide (ch.standing = .releaseAutoset) } →
              (¬HoldStands s c → QuietTested s c rel (t.brakes.get c))
              ∧ (HoldStands s c → BeginsToSet s c rel (t.brakes.get c))
              ∧ (ch.proveFailed = true → t.source (69 + chanPos c) = { value := 0, valid := true })
              ∧ (ch.releaseTimeout = true → t.source (73 + chanPos c) = { value := 0, valid := true })
              ∧ (∀ d, d ≠ c → t.brakes.get d = s.brakes.get d)
              ∧ t = { s with brakes := t.brakes, statusOwed := t.statusOwed
                             alarm := { s.alarm with sources := t.alarm.sources } }))
        ∧ ((ch.state = .released ∨ ch.state = .setPending) →
            (b ≠ .fault → b ≠ .set →
              QuietTested s c ch (t.brakes.get c) ∧ (∀ d, d ≠ c → t.brakes.get d = s.brakes.get d)
                ∧ t = { s with brakes := t.brakes, statusOwed := t.statusOwed })
            ∧ (b = .set → (c = .walk ∨ ¬Standstill s c x) → ∀ still : Bool, (still = true ↔ Standstill s c x) →
                EntersSetting s c (Pair.set ⟨false, false⟩ x still) ch (t.brakes.get c)
                  ∧ (∀ d, d ≠ c → t.brakes.get d = s.brakes.get d)
                  ∧ t = { s with brakes := t.brakes, statusOwed := t.statusOwed })
            ∧ (b = .set → c ≠ .walk → Standstill s c x →
                (t.brakes.get c).state = .set ∧ (t.brakes.get c).setTime = s.now
                  ∧ (t.attrs.recs[brakeWearOf c]).raw
                      = min 281474976710655 ((s.attrs.recs[brakeWearOf c]).raw + 1)))
        ∧ ((ch.state = .setting ∨ ch.state = .fault) → (ch.state = .setting → b ≠ .fault) →
            ∀ (still : Bool) (marks : Pair Bool), (still = true ↔ Standstill s c x) →
            marks = ch.confirm.set x (decide (b = .set) && still) →
            (marks.all c = false →
              t.brakes.get c = { ch with confirm := marks, tAutoset := none }
                ∧ (∀ d, d ≠ c → t.brakes.get d = s.brakes.get d)
                ∧ t = { s with brakes := t.brakes, statusOwed := t.statusOwed })
            ∧ (marks.all c = true →
                t.brakes.get c =
                    { ch.stopTimers with
                      state := .set, setTime := s.now, confirm := ⟨false, false⟩, hardSet := false }
                ∧ (ch.state = .setting →
                    (t.attrs.recs[brakeWearOf c]).raw
                      = min 281474976710655 ((s.attrs.recs[brakeWearOf c]).raw + if ch.hardSet then 10 else 1))
                ∧ (ch.state = .fault → t.attrs = s.attrs)
                ∧ (s.ctl.slot = some { target := .park, wait := .brakes } → s.heldTrips = [] →
                    (s.mode = .walking ∨ (s.mode = .dig ∧ s.tight.start = none)) →
                    s.pointsOn (56 + (brakeWearOf c).val) = [] → (∀ d, d ≠ c → (s.brakes.get d).state = .set) →
                    t.mode = .parked ∧ t.ctl.slot = none ∧ t.ctl.hold = .none)))

/-- A channel that does not confirm its set in time is in FAULT, and the machine trips with both lines de-energised and
a first-out record of cause BRAKE_FAULT with no triggering frame (R57, R61, R157, R163). So is one whose drive reports a
fault, or reports a released brake or, outside a running segment on the channel, a movement while the channel is SET or
RELEASE_PENDING; the record then carries that Drive Status (R59, R60, R61). What any trip's record captures, and what the
trip unit does with it: appended while the queue holds fewer than 32, with source 54 handed, and else counted as not
stored, with source 55 handed, its number used either way (R157, R158, R161, R162, R163, R166; the 32-bit time is log
1's), stated where no point watches what the trip hands. So is what else a first-out trip does: the change of mode with the
points re-armed (R31, R135), the set-all (R63), and in TESTING the test ended ABORTED_TRIP, its descriptor written and the
queued test Reference withdrawn (R157, R189, R190). -/
def Obligations.SetConfirmExpiryTrips : Prop :=
  (∀ (i : TripIn) (s t : State) (n : Nat), t = handTrip i s → n = s.trip.queue.length → s.heldTrips = [] →
    s.updates = none → TripUnwatched s →
    t.mode = .tripped ∧ t.trip.field = .deEnergised
      ∧ (i.action = .both → t.trip.brake = .deEnergised) ∧ (i.action = .field → t.trip.brake = s.trip.brake)
      ∧ (∃ r, Captured s i (decide (s.mode ≠ .tripped)) r ∧ RecordTaken s r t)
      ∧ (n < 32 → t.source 54 = { value := n + 1, valid := true } ∧ t.source 55 = s.source 55)
      ∧ (32 ≤ n → s.trip.notStored < 65535 →
          t.source 55 = { value := s.trip.notStored + 1, valid := true } ∧ t.source 54 = s.source 54)
      ∧ (32 ≤ n → 65535 ≤ s.trip.notStored → t.source 55 = s.source 55 ∧ t.source 54 = s.source 54)
      ∧ (s.mode = .tripped → t.brakes = s.brakes ∧ t.ctl = s.ctl)
      ∧ (s.mode ≠ .tripped →
          (∀ c, TripSet s c (s.brakes.get c) (t.brakes.get c)) ∧ Rearmed s t
            ∧ t.ctl = { s.ctl with
                mode := .tripped, entryTime := s.now, slot := none, hold := .none
                reason := if s.mode = .init then .none else s.ctl.reason
                parkTimer := if s.mode = .dig then none else s.ctl.parkTimer })
      ∧ (s.mode = .testing →
          (∃ rs, EndResults s rs ∧ TestStopped s t .abortedTrip none rs)
            ∧ t.ring = { s.ring with ins := s.ring.ins.filter (fun e => !e.isTest) } ∧ t.tester.secondFinal = none)
      ∧ (s.mode ≠ .testing → t.tester = s.tester ∧ t.ring = s.ring)
      ∧ t.attrs = s.attrs ∧ t.feedback = s.feedback ∧ t.tables = s.tables)
  ∧ (∀ (c : Chan) (s k : State), (s.brakes.get c).state = .setting → s.expired (s.brakes.get c).tSet = true →
      k = { s with brakes := s.brakes.set c { (s.brakes.get c).stopTimers with
              state := .fault, due := none, confirm := ⟨false, false⟩, armed := false }
                   statusOwed := true } →
      s.heldTrips = [] → s.updates = none → TripUnwatched s →
      ∃ t r, exec (.setConfirmExpiry c) s = .next t
        ∧ Captured k { cause := .brakeFault c, action := .both, frame := none } (decide (s.mode ≠ .tripped)) r
        ∧ RecordTaken s r t)
  ∧ (∀ (c : Chan) (s : State), (s.brakes.get c).state = .setting → s.expired (s.brakes.get c).tSet = true →
    s.mode ≠ .tripped → s.heldTrips = [] → s.trip.queue.length < 32 →
    ∃ t, exec (.setConfirmExpiry c) s = .next t
      ∧ (t.brakes.get c).state = .fault ∧ t.mode = .tripped
      ∧ t.trip.field = .deEnergised ∧ t.trip.brake = .deEnergised
      ∧ (∃ r ∈ t.trip.queue, r.cause = .brakeFault c ∧ r.action = .both ∧ r.firstOut = true ∧ r.frame = none
          ∧ r.mode = s.mode ∧ r.number = s.trip.next ∧ r.minutes = s.attrs.minutes)
      ∧ (∀ d, (t.brakes.get d).state ≠ .released ∧ (t.brakes.get d).state ≠ .releasing
          ∧ (t.brakes.get d).state ≠ .releasePending ∧ (t.brakes.get d).state ≠ .setPending))
    ∧ ∀ (x : Axis) (trig : List Byte) (s t : State) (c : Chan) (ch : Channel),
        c = chanOf x → ch = s.brakes.get c → t = channelArrival x trig s → s.heldTrips = [] →
        (((ch.state = .set ∨ ch.state = .releasePending) ∧ Contradicts s x)
          ∨ ((ch.state = .releasing ∨ ch.state = .released ∨ ch.state = .setPending ∨ ch.state = .setting)
              ∧ (s.feedback.get x).brake = .fault)) →
        t.brakes.get c =
            { ch.stopTimers with state := .fault, due := none, confirm := ⟨false, false⟩, armed := false }
          ∧ t.mode = .tripped ∧ t.trip.field = .deEnergised ∧ t.trip.brake = .deEnergised
          ∧ (s.trip.queue.length < 32 → TripRecorded s (.brakeFault c) (some trig) t)
          ∧ (s.mode ≠ .tripped → ∀ d, (t.brakes.get d).state ≠ .released ∧ (t.brakes.get d).state ≠ .releasing
              ∧ (t.brakes.get d).state ≠ .releasePending ∧ (t.brakes.get d).state ≠ .setPending)

/-! Stations, silence, tightline. -/

/-- The tightline check and two timers. The onset timer's expiry makes the reduction active while an episode runs (R87);
the ring silence timer's expiry stops it and hands source 78 with 1, and a frame taken at IN restarts it and, where it was
stopped, hands source 78 with 0 (R24). A HOIST or DRAG arrival begins, continues or
ends an episode as the condition of R86 holds or fails (R86, R89); where no point watches the two sources, it then hands
the duration source and the whole seconds not yet handed (R88); that the last duration has no bound is log 57's choice.
That an expiry of either timer before its time has no
effect is the model's choice (log 2). -/
def Obligations.OnsetAndSilenceExpire : Prop :=
  (∀ s : State,
    ∃ t, exec .onsetExpiry s = .next t
      ∧ t = { s with tight := t.tight, ring := t.ring, owed := t.owed, statusOwed := t.statusOwed }
      ∧ (s.tight.start.isSome = true → s.expired s.tight.onset = true →
          t.tight = { s.tight with onset := none, reduction := true })
      ∧ ((s.tight.start = none ∨ s.expired s.tight.onset = false) → t.tight = s.tight))
    ∧ (∀ s : State,
        ∃ t, exec .ringSilenceExpiry s = .next t
          ∧ (s.expired s.ring.silence = true → t.ring.silence = none ∧ t.source 78 = { value := 1, valid := true })
          ∧ (s.expired s.ring.silence = false → OnlyRing s t)
          ∧ t.stations = s.stations ∧ t.feedback = s.feedback ∧ t.ring.fwd = s.ring.fwd)
    ∧ (∀ s : State,
        (s.ring.silence = none →
          heard s = feed 78 0 true none { (bump .taken s) with ring := { (bump .taken s).ring with
            silence := some (s.now + 50) } }
          ∧ (heard s).source 78 = { value := 0, valid := true })
        ∧ (s.ring.silence ≠ none →
            heard s = { (bump .taken s) with ring := { (bump .taken s).ring with silence := some (s.now + 50) } })
        ∧ (heard s).ring.silence = some (s.now + 50))
    ∧ (∀ s : State, s.tightHolds = true ↔
        s.mode = .dig ∧ s.driveFresh .hoist = true ∧ s.driveFresh .drag = true
          ∧ s.feedback.hoist.current ≤ -(s.act.options.tightLevel : Int)
          ∧ s.feedback.drag.current ≤ -(s.act.options.tightLevel : Int)
          ∧ Standstill s .hoist .hoist ∧ Standstill s .drag .drag)
    ∧ (∀ s : State,
        (s.tight.start = none → s.tightHolds = false → tightTest s = s)
        ∧ (s.tight.start = none → s.tightHolds = true →
            tightTest s = { s with tight :=
              { start := some s.now
                onset := if s.act.options.onset = 0 then none else some (s.now + s.act.options.onset)
                reduction := decide (s.act.options.onset = 0), duration := 0, handed := 0 } })
        ∧ (∀ d, s.tight.start = some d → s.tightHolds = true →
            tightTest s = { s with tight := { s.tight with duration := s.now - d } })
        ∧ (s.tight.start.isSome = true → s.tightHolds = false →
            tightTest s = { s with tight :=
              { start := none, onset := none, reduction := false, duration := 0, handed := 0 } }))
    ∧ ∀ s u t : State, u = tightTest s → t = tightArrival s → s.pointsOn 37 = [] → s.pointsOn 64 = [] →
        t.source 37 =
          { value := (if u.tight.start.isSome then min 65535 u.tight.duration else 0 : Nat), valid := true }
        ∧ (u.tight.start.isSome = true → u.tight.handed < u.tight.duration / 1000 →
            t.tight = { u.tight with handed := u.tight.duration / 1000 }
              ∧ (t.attrs.recs[tightExposure]).raw = min 281474976710655
                  ((s.attrs.recs[tightExposure]).raw + (u.tight.duration / 1000 - u.tight.handed)))
        ∧ ((u.tight.start = none ∨ u.tight.duration / 1000 ≤ u.tight.handed) →
            t.tight = u.tight ∧ t.attrs = s.attrs)
        ∧ t = { s with tight := t.tight, attrs := t.attrs, alarm := { s.alarm with sources := t.alarm.sources } }

/-! Alarm points and analog channels. -/

/-- A source update: the record takes the value, or keeps it when INVALID (R123), and each enabled point on the source,
in order of id, acts by its state and the zone of the value (R128, R130, R132); a TRIP-class point that becomes
ACTIVE_UNACK hands a trip (R138), and where none on the source is of class TRIP the update does nothing more. A later
point that such a trip re-arms for TRIPPED is NORMAL after the update, which does not evaluate it, whatever the value:
it waits for the next one (R135; log 47; stated where no point watches what the trip itself hands). The on-delay timer's
expiry (R131, R138): a DELAYING point becomes ACTIVE_UNACK; of class WARNING or ADVISORY it joins the list's end and
nothing else happens; of class TRIP it trips the machine, with a record where there is room. That an expiry before its
time has no effect is the model's choice (log 2). That a value in both the met and the clear zone, which only the
thresholds of a loaded region leave, acts as met and not as clear is the model's choice too (log 50). -/
def Obligations.OnDelayExpires : Prop :=
  (∀ (s : State) (code : Nat) (v : Int) (ok : Bool), 1 ≤ code → code ≤ 79 →
    (s.setSource code v ok).source code = { value := if ok then v else (s.source code).value, valid := ok }
      ∧ (∀ n, n ≠ code → (s.setSource code v ok).source n = s.source n)
      ∧ s.setSource code v ok = { s with alarm := { s.alarm with sources := (s.setSource code v ok).alarm.sources } }
      ∧ (∀ p : Fin 48, p ∈ s.pointsOn code ↔ (s.act.points[p]).enabled = true ∧ (s.act.points[p]).source = code)
      ∧ (s.pointsOn code).Pairwise (· < ·))
  ∧ (∀ (s : State) (code : Nat) (v : Int) (ok : Bool) (trig : Option (List Byte)), s.heldTrips = [] →
      ((∀ p ∈ s.pointsOn code, (s.act.points[p]).cls ≠ .trip) →
        feed code v ok trig s = (s.pointsOn code).foldl (fun s p => evalPoint trig p s) (s.setSource code v ok))
      ∧ ∀ p, s.pointsOn code = [p] → (s.act.points[p]).cls = .trip → (s.act.points[p]).action = some .both →
          1 ≤ code → code ≤ 79 → (s.alarm.points[p]).state = .normal → (s.act.points[p]).onDelay = 0 → ok = true →
          MetZone s.act.points[p] v →
          (feed code v ok trig s).mode = .tripped ∧ (feed code v ok trig s).trip.field = .deEnergised
            ∧ (feed code v ok trig s).trip.brake = .deEnergised
            ∧ (s.trip.queue.length < 32 → TripRecorded s (.point p) trig (feed code v ok trig s)))
  ∧ (∀ (s : State) (code : Nat) (v : Int) (trig : Option (List Byte)) (p q : Fin 48) (rest : List (Fin 48)),
      1 ≤ code → code ≤ 79 → s.heldTrips = [] → TripUnwatched s → s.mode ≠ .tripped → s.pointsOn code = p :: rest →
      (s.act.points[p]).cls = .trip → (s.alarm.points[p]).state = .normal → (s.act.points[p]).onDelay = 0 →
      MetZone s.act.points[p] v → q ∈ rest → (s.alarm.points[q]).state = .disarmed →
      (s.act.points[q]).mask.getLsbD Mode.tripped.code = true →
      (feed code v true trig s).alarm.points[q] =
        { state := .normal, mark := false, tDelay := none, tShelf := none, since := none, chValue := v, chValid := true
          chTime := s.now })
  ∧ (∀ (trig : Option (List Byte)) (p : Fin 48) (s o : State) (c : PointCfg) (r : PointRun) (src : Source),
      o = evalPoint trig p s → c = s.act.points[p] → r = s.alarm.points[p] → src = s.source c.source →
      c.enabled = true →
      (src.valid = false →
        (r.state = .delaying → PointTakes s p .normal false o ∧ o.heldTrips = s.heldTrips)
        ∧ (r.state ≠ .delaying → o = s))
      ∧ (src.valid = true → ¬MetZone c src.value → ¬ClearZone c src.value → o = s)
      ∧ (src.valid = true → MetZone c src.value →
          (((r.state = .normal ∧ c.onDelay = 0) ∨ (r.state = .returnedUnack ∧ s.armed p = true)) →
            PointTakes s p .activeUnack false o
              ∧ (c.cls ≠ .trip → o.heldTrips = s.heldTrips)
              ∧ (c.cls = .trip → ∀ a, c.action = some a →
                  o.heldTrips = s.heldTrips ++ [{ cause := .point p, action := a, frame := trig }]))
          ∧ (r.state = .normal → c.onDelay ≠ 0 →
              PointTakes s p .delaying false o ∧ (o.alarm.points[p]).tDelay = some (s.now + c.onDelay)
                ∧ o.heldTrips = s.heldTrips)
          ∧ ((r.state = .activeUnack ∨ r.state = .activeAck) → c.latching = true →
              PointTakes s p r.state false o ∧ o.heldTrips = s.heldTrips)
          ∧ ((((r.state = .activeUnack ∨ r.state = .activeAck) ∧ c.latching = false) ∨ r.state = .delaying
                ∨ (r.state = .returnedUnack ∧ s.armed p = false) ∨ r.state = .shelved ∨ r.state = .disarmed) → o = s))
      ∧ (src.valid = true → ClearZone c src.value →
          (r.state = .delaying → PointTakes s p .normal false o ∧ o.heldTrips = s.heldTrips)
          ∧ ((r.state = .activeUnack ∨ r.state = .activeAck) → c.latching = true →
              PointTakes s p r.state true o ∧ o.heldTrips = s.heldTrips)
          ∧ (r.state = .activeUnack → c.latching = false →
              PointTakes s p .returnedUnack false o ∧ o.heldTrips = s.heldTrips)
          ∧ (r.state = .activeAck → c.latching = false →
              PointTakes s p (if s.armed p then .normal else .disarmed) false o ∧ o.heldTrips = s.heldTrips)
          ∧ ((r.state = .normal ∨ r.state = .returnedUnack ∨ r.state = .shelved ∨ r.state = .disarmed) → o = s)))
  ∧ ∀ (p : Fin 48) (s : State), s.heldTrips = [] →
    ∃ t, exec (.onDelayExpiry p) s = .next t
      ∧ ((s.alarm.points[p]).state = .delaying → s.expired (s.alarm.points[p]).tDelay = true →
          ((s.act.points[p]).cls ≠ .trip →
            (t.alarm.points[p]).state = .activeUnack ∧ t.alarm.list = s.alarm.list ++ [p]
              ∧ (t.alarm.points[p]).since = some s.now ∧ OnlyPoints s t)
          ∧ ((s.act.points[p]).cls = .trip →
              t.mode = .tripped ∧ t.trip.field = .deEnergised
                ∧ ((s.act.points[p]).action = some .both → t.trip.brake = .deEnergised)
                ∧ (s.trip.queue.length < 32 → ∃ r ∈ t.trip.queue, r.cause = .point p ∧ r.frame = none)))
      ∧ (((s.alarm.points[p]).state ≠ .delaying ∨ s.expired (s.alarm.points[p]).tDelay = false) → OnlyRing s t)

/-- A conversion of a SETTLING channel is discarded but for the settle count, and the 50th makes the channel READY with
its first value (R145, R146, R149, R150), after which in INIT the start conditions are tested (R149, R33): with the
channel the last to settle and every other condition holding, the mode becomes PARKED with both lines energised. A
conversion of a READY channel hands its source the scaled value (R152). The raw value is the fraction of the reference
times 4095, rounded down, 0 at or below ground and 4095 at or above the reference (R145); with a reference at or below 0
an input above 0 gives 4095 and one at or below 0 gives 0 (log 33). The levels at the pins, in microvolts, are the
model's (log 5). A DRIVE entry with no axis counts among those that must be FRESH (log 55). -/
def Obligations.ConversionsSettle : Prop :=
  RawValues ∧ ∀ (ch : Fin 4) (v w : Int) (s : State),
    ∃ t, exec (.conversionCompletion ch v w) s = .next t
      ∧ t.pins.ain[ch] = v ∧ t.pins.extRef = w
      ∧ (∀ d : Fin 4, d ≠ ch → t.analog[d] = s.analog[d])
      ∧ ((s.analog[ch]).ready = false → (s.analog[ch]).settle < 49 →
          t.analog[ch] = { (s.analog[ch]) with settle := (s.analog[ch]).settle + 1 }
            ∧ t = { s with pins := t.pins, analog := t.analog, ring := t.ring, owed := t.owed,
                           statusOwed := t.statusOwed })
      ∧ (((s.analog[ch]).ready = true ∨ 49 ≤ (s.analog[ch]).settle) →
          (t.analog[ch]).ready = true
            ∧ ∀ n, n = rawOf v (if (s.act.analog[ch]).ref = .internal then 2500000 else w) →
                ∀ x, x = ((n : Int) * (s.act.analog[ch]).gain).tdiv 4096 + (s.act.analog[ch]).offset →
                (t.analog[ch]).lastRaw = some n ∧ (t.analog[ch]).lastScaled = some x
                  ∧ t.source (16 + ch.val) = { value := x, valid := true })
      ∧ ((s.analog[ch]).ready = true → (t.analog[ch]).settle = (s.analog[ch]).settle)
      ∧ ((s.analog[ch]).ready = false → 49 ≤ (s.analog[ch]).settle → (t.analog[ch]).settle = 50
          ∧ (s.mode = .init → s.heldTrips = [] → (s.act.analog[ch]).limitOn = false → s.pointsOn (16 + ch.val) = [] →
              s.pointsOn 63 = [] →
              ((∃ d : Fin 4, d ≠ ch ∧ (s.analog[d]).ready = false) →
                t.mode = .init ∧ t.ctl = { s.ctl with reason := s.workedReason })
              ∧ ((∀ d : Fin 4, d ≠ ch → (s.analog[d]).ready = true) → StationGood s → s.tables.valid = true →
                  ¬RecordsHeld s → ¬BrakeNotSet s → ¬DriveNotFresh s →
                  t.mode = .parked ∧ t.trip = { s.trip with field := .energised, brake := .energised })))

/-- The direct limit of a READY channel, or of one whose settling ends (R149, R151): inside, the beyond count and the
mark are cleared; beyond, the count rises to the persistence, and there, with the mark clear, the machine is tripped,
with a record of cause DIRECT, the channel's action and no frame where there is room (R155, R161, R163); with the mark
set no trip is handed, as the trip unit shows where no point watches the channel's source or the fatigue record's. A
boom fatigue cycle (R153, R175): a rise of the scaled value above the fatigue level and then a fall below the reset level
count one for BOOM_FATIGUE, whose normalised value is worked out again and a change of it handed (R171, R173); the
conversion counts it, or leaves the records and the mark, as the fatigue step gives for the scaled value (R146, R150). The
record's time reads as 32 bits (log 1), the raw value is R145's, of levels in microvolts (logs 5, 33), and a quotient by a
life of 0 is a free value (log 50); that a value above a fatigue level and below a reset level that lies above it changes
the fatigue state is the model's choice (log 50). -/
def Obligations.DirectLimitAndFatigue : Prop :=
  RawValues ∧ (∀ (ch : Fin 4) (v w : Int) (s : State) (c : AnalogCfg) (n : Nat),
    ((s.analog[ch]).ready = true ∨ 49 ≤ (s.analog[ch]).settle) → c = s.act.analog[ch] →
    n = rawOf v (if c.ref = .internal then 2500000 else w) →
    ∃ t, exec (.conversionCompletion ch v w) s = .next t
      ∧ (c.limitOn = false →
          (t.analog[ch]).beyond = (s.analog[ch]).beyond ∧ (t.analog[ch]).limitMark = (s.analog[ch]).limitMark)
      ∧ (c.limitOn = true → ∀ b, b = (if c.dir = .above then decide (c.rawLimit ≤ n) else decide (n ≤ c.rawLimit)) →
          (b = false → (t.analog[ch]).beyond = 0 ∧ (t.analog[ch]).limitMark = false)
          ∧ (b = true → (t.analog[ch]).beyond = min c.persistence ((s.analog[ch]).beyond + 1))
          ∧ (b = true → c.persistence ≤ (s.analog[ch]).beyond + 1 → (s.analog[ch]).limitMark = false →
              s.heldTrips = [] →
              (t.analog[ch]).limitMark = true ∧ t.mode = .tripped ∧ t.trip.field = .deEnergised
                ∧ (c.action = .both → t.trip.brake = .deEnergised)
                ∧ (s.trip.queue.length < 32 → ∃ r ∈ t.trip.queue, r.cause = .direct ch ∧ r.action = c.action
                    ∧ r.firstOut = decide (s.mode ≠ .tripped) ∧ r.frame = none ∧ r.mode = s.mode
                    ∧ r.number = s.trip.next ∧ r.minutes = s.attrs.minutes ∧ r.time = s.now % 4294967296))
          ∧ (b = true → (s.analog[ch]).limitMark = true →
              (t.analog[ch]).limitMark = true
                ∧ (s.pointsOn (16 + ch.val) = [] → s.pointsOn 63 = [] → s.mode ≠ .init → t.trip = s.trip))
          ∧ (b = true → (s.analog[ch]).beyond + 1 < c.persistence →
              (t.analog[ch]).limitMark = (s.analog[ch]).limitMark))
      ∧ ∀ x : Int, x = ((n : Int) * c.gain).tdiv 4096 + c.offset →
          (c.role = .none → (t.analog[ch]).high = (s.analog[ch]).high ∧ t.attrs = s.attrs)
          ∧ (c.role = .boom → (s.analog[ch]).high = false →
              ((t.analog[ch]).high = true ↔ c.fatigue < x) ∧ t.attrs = s.attrs)
          ∧ (c.role = .boom → (s.analog[ch]).high = true →
              (c.reset ≤ x → (t.analog[ch]).high = true ∧ t.attrs = s.attrs)
              ∧ (x < c.reset →
                  (t.analog[ch]).high = false ∧ t.attrs = { s.attrs with recs := t.attrs.recs }
                    ∧ (∀ i : Fin 13, i ≠ 7 → t.attrs.recs[i] = s.attrs.recs[i])
                    ∧ (t.attrs.recs[(7 : Fin 13)]).raw
                        = min 281474976710655 ((s.attrs.recs[(7 : Fin 13)]).raw + 1)
                    ∧ (t.attrs.recs[(7 : Fin 13)]).norm
                        = min (s.attrs.recs[(7 : Fin 13)]).norm (max 1 (min 100 (100
                            - quotient (99 * (t.attrs.recs[(7 : Fin 13)]).raw) (s.act.attrs[(7 : Fin 13)]).life)))
                    ∧ ((t.attrs.recs[(7 : Fin 13)]).norm ≠ (s.attrs.recs[(7 : Fin 13)]).norm →
                        t.source 63 = { value := (t.attrs.recs[(7 : Fin 13)]).norm, valid := true }))))
    ∧ ∀ (ch : Fin 4) (v : Int) (s o : State), o = fatigueStep ch v s →
        ((s.act.analog[ch]).role = .none → o = s)
        ∧ ((s.act.analog[ch]).role = .boom → (s.analog[ch]).high = false →
            ((s.act.analog[ch]).fatigue < v → (o.analog[ch]).high = true ∧ o.attrs = s.attrs)
            ∧ (v ≤ (s.act.analog[ch]).fatigue → o = s))
        ∧ ((s.act.analog[ch]).role = .boom → (s.analog[ch]).high = true →
            (v < (s.act.analog[ch]).reset → (o.analog[ch]).high = false
              ∧ (o.attrs.recs[boomFatigue]).raw = min 281474976710655 ((s.attrs.recs[boomFatigue]).raw + 1))
            ∧ ((s.act.analog[ch]).reset ≤ v → o = s))

/-! The brake tester's events. -/

/-- A waiting segment begins, or ends the test FAILED_STALE when a drive of its channel is not FRESH; the second final
Reference is built, which leaves the walk turn as the first left it (log 45, the model's reading), and the period timer
hands a further test Reference, for WALK passing the walk turn (R183, R185, R186). That SEGMENT_BEGIN and
SECOND_FINAL_REFERENCE make again the tests of R186 and R185 is log 10's. -/
def Obligations.TestReferencesHanded : Prop :=
  (∀ (s : State) (c : Chan), s.tester.status = .inProgress → s.tester.phase = some .waiting →
    s.testQueued = false → s.tester.secondFinal = none → s.testChan = some c → s.chanFresh c = true →
    ∃ t, exec .segmentBegin s = .next t
      ∧ t.tester.phase = some .ramp ∧ t.tester.reached = ⟨false, false⟩
      ∧ t.tester.tRamp = some (s.now + 2000) ∧ t.tester.tPeriod = some (s.now + 50)
      ∧ TestRefOut (s.testAxis c) (if isCam (s.testAxis c) then 50 else -50) s.act.test.torque t
      ∧ t = { s with tester := t.tester, ring := t.ring, owed := t.owed, statusOwed := t.statusOwed })
    ∧ (∀ (s : State) (c : Chan) (n : Nat), s.mode = .testing → s.heldTrips = [] → s.tester.status = .inProgress →
        s.tester.phase = some .waiting → s.testQueued = false → s.tester.secondFinal = none → s.testChan = some c →
        s.tester.number = some n → s.chanFresh c = false →
        ∃ t, exec .segmentBegin s = .next t
          ∧ t.mode = .parked ∧ t.tester.status = .failedStale ∧ t.tester.number = none ∧ t.tester.segment = none
          ∧ t.tester.phase = none ∧ t.tester.results = s.tester.results
          ∧ t.tester.pointer = (if s.tester.pointer = 12 then 1 else s.tester.pointer + 1)
          ∧ t.tester.log = s.tester.log.setIfInBounds (t.tester.pointer - 1)
              (some { number := n, status := .failedStale, minutes := s.attrs.minutes, failing := some c,
                      results := s.tester.results })
          ∧ t.brakes = s.brakes ∧ t.trip = s.trip ∧ t.attrs = s.attrs)
    ∧ (∀ (s : State) (x : Axis) (e : Fin 16), s.tester.secondFinal = some x → s.testQueued = false →
        s.driveEntry x = some e →
        ∃ t, exec .secondFinalReference s = .next t ∧ t.tester = { s.tester with secondFinal := none }
          ∧ TestRefOut x 0 0 t
          ∧ t = { s with tester := t.tester, ring := t.ring, owed := t.owed, statusOwed := t.statusOwed })
    ∧ ∀ (s : State) (c : Chan), s.testChan = some c → s.segmentRuns c = true →
        s.expired s.tester.tPeriod = true → s.chanFresh c = true →
        ∃ t, exec .testPeriodExpiry s = .next t ∧ t.tester.tPeriod = some (s.now + 50)
          ∧ TestRefOut (s.testAxis c) (if isCam (s.testAxis c) then 50 else -50) s.act.test.torque t
          ∧ t.tester.walkTurn = (if c = .walk then otherCam s.tester.walkTurn else s.tester.walkTurn)
          ∧ t = { s with tester := t.tester, ring := t.ring, owed := t.owed, statusOwed := t.statusOwed }

/-- In RAMP an arrival with the test torque in the creep direction sets its axis's reached mark, and with every mark set
the phase is HOLD from the positions as they stand; any other arrival changes nothing (R184). The ramp timeout ends the
test FAILED_NO_TORQUE (R184); the hold timer's expiry measures the slip into the channel's LEVEL record, a slip beyond
the limit ends the test FAILED_SLIP and a last segment within it PASSED (R185), stated where no point watches that
record; each ending writes its descriptor (R189, R190). A suspended test resumes at the resume timer's expiry from the
start of its segment, or ends ABORTED_OPERATOR at the suspend limit (R188). The slip is a magnitude, for SWING the angular
separation and for WALK the larger of the two cams' (R185). A failed ramp and a hold each hand a final Reference with
speed 0 and torque 0, for WALK with the second left to build and the walk turn passed at the first alone (R185; log 45);
a passed segment that is not the last leaves the next in WAITING while OUT is sending (R186). The slip and the positions
are those of R184, and a quotient by a slip limit of 0 is a free value (log 50). -/
def Obligations.SegmentsEndAndResume : Prop :=
  (∀ (x : Axis) (s t : State) (c : Chan) (reached : Prop) (marks : Pair Bool) (pos : Axis → Nat),
    c = chanOf x → t = testArrival x s → marks = s.tester.reached.set x true →
    (reached ↔ if isCam x then (s.act.test.torque : Int) ≤ (s.feedback.get x).current
               else (s.feedback.get x).current ≤ -(s.act.test.torque : Int)) →
    (∀ y, pos y = if isCam y then (s.feedback.get y).turns * 3600 + (s.feedback.get y).position
                  else (s.feedback.get y).position) →
    ((s.segmentRuns c = false ∨ s.tester.phase ≠ some .ramp ∨ ¬reached) → t = s)
    ∧ (s.segmentRuns c = true → s.tester.phase = some .ramp → reached →
        (marks.all c = false → t = { s with tester := { s.tester with reached := marks } })
        ∧ (marks.all c = true →
            t = { s with tester := { s.tester with
              reached := marks, phase := some .hold, tRamp := none, tHold := some (s.now + s.act.test.hold)
              start := some (if c = .walk then ⟨pos .walkLeft, pos .walkRight⟩ else ⟨pos x, 0⟩) } })))
    ∧ (∀ (s : State) (x : Axis) (n : Nat),
        n = (if isCam x then (s.feedback.get x).turns * 3600 + (s.feedback.get x).position
             else (s.feedback.get x).position) →
        (x = .hoist ∨ x = .drag ∨ x = .swing → s.slipPositions (chanOf x) = ⟨n, 0⟩)
        ∧ (x = .walkLeft → (s.slipPositions .walk).first = n) ∧ (x = .walkRight → (s.slipPositions .walk).second = n))
    ∧ (∀ a b : Pair Nat,
        slipOf .hoist a b = ((a.first : Int) - b.first).natAbs ∧ slipOf .drag a b = ((a.first : Int) - b.first).natAbs
        ∧ (slipOf .swing a b : Int)
            = min (((a.first : Int) - b.first) % 3600) (((b.first : Int) - a.first) % 3600)
        ∧ slipOf .walk a b = max ((a.first : Int) - b.first).natAbs ((a.second : Int) - b.second).natAbs)
    ∧ ((∀ (s : State) (c : Chan), s.mode = .testing → s.heldTrips = [] → s.testChan = some c →
    s.tester.status = .inProgress → s.tester.phase = some .ramp → s.expired s.tester.tRamp = true →
    ∃ t, exec .rampTimeout s = .next t
      ∧ FinalReferenceOut s c t
      ∧ TestEnded s t .failedNoTorque (some c)
          (s.tester.results ++ [{ chan := c, slip := none, outcome := .noTorque }])
      ∧ t.attrs = s.attrs)
    ∧ ∀ (s : State) (c : Chan) (p : Pair Nat), s.mode = .testing → s.heldTrips = [] → s.testChan = some c →
        s.tester.status = .inProgress → s.tester.phase = some .hold → s.tester.start = some p →
        s.expired s.tester.tHold = true → s.pointsOn (56 + (marginOf c).val) = [] →
        ∃ t, exec .holdExpiry s = .next t
          ∧ FinalReferenceOut s c t
          ∧ (t.attrs.recs[marginOf c]).raw = slipOf c (s.slipPositions c) p
          ∧ (t.attrs.recs[marginOf c]).never = false
          ∧ (t.attrs.recs[marginOf c]).norm
              = max 1 (min 100 (100 - quotient (99 * slipOf c (s.slipPositions c) p) (s.act.test.slip.get c)))
          ∧ (s.act.test.slip.get c < slipOf c (s.slipPositions c) p →
              TestEnded s t .failedSlip (some c)
                (s.tester.results ++ [{ chan := c, slip := some (slipOf c (s.slipPositions c) p), outcome := .fail }]))
          ∧ (slipOf c (s.slipPositions c) p ≤ s.act.test.slip.get c →
              t.tester.completed = s.tester.completed + 1
                ∧ (∀ i e, s.tester.segment = some i → i + 1 < s.tester.count → s.ring.sending ≠ none →
                    s.driveEntry (s.testAxis c) = some e →
                    t.tester.segment = some (i + 1) ∧ t.tester.phase = some .waiting
                      ∧ t.tester.status = .inProgress ∧ t.tester.number = s.tester.number ∧ t.mode = .testing
                      ∧ t.tester.results = s.tester.results ++
                          [{ chan := c, slip := some (slipOf c (s.slipPositions c) p), outcome := .pass }])
                ∧ ∀ i, s.tester.segment = some i → s.tester.count ≤ i + 1 →
                    TestEnded s t .passed none (s.tester.results ++
                      [{ chan := c, slip := some (slipOf c (s.slipPositions c) p), outcome := .pass }])))
    ∧ ∀ s : State, s.tester.status = .suspended →
        (∀ c, s.testChan = some c → s.chanFresh c = true → s.expired s.tester.tResume = true →
          ∃ t, exec .resumeExpiry s = .next t ∧ t.tester.status = .inProgress ∧ t.tester.phase = some .ramp
            ∧ t.tester.tSuspend = none ∧ t.tester.tResume = none ∧ t.tester.tRamp = some (s.now + 2000)
            ∧ t.tester.reached = ⟨false, false⟩ ∧ t.tester.start = none ∧ t.mode = s.mode)
        ∧ (s.mode = .testing → s.heldTrips = [] → s.expired s.tester.tSuspend = true →
            ∃ t, exec .suspendLimitExpiry s = .next t ∧ testAborted s t ∧ t.tester.tResume = none)

/-! Invariants. -/

/-- Every step keeps the trip lines in agreement with the mode (R160). -/
def Obligations.LinesAgreeInvariant : Prop :=
  ∀ s t : State, LinesAgree s → step s = .next t → LinesAgree t

/-- Every step keeps the active list exact (R139). -/
def Obligations.ActiveListInvariant : Prop :=
  ∀ s t : State, ActiveListExact s → step s = .next t → ActiveListExact t

/-- Every step keeps points of class TRIP off the shelf (R136). -/
def Obligations.NoTripPointShelvedInvariant : Prop :=
  ∀ s t : State, NoTripPointShelved s → step s = .next t → NoTripPointShelved t

/-- Every step keeps the skew within the trip limit in WALKING (R110, R120). -/
def Obligations.SkewInvariant : Prop :=
  ∀ s t : State, SkewWithinLimit s → step s = .next t → SkewWithinLimit t

/-- Every step keeps every normalised value in 1..100 and no worst value above its normalised value (R171, R173). -/
def Obligations.WearInvariant : Prop :=
  ∀ s t : State, WearInRange s → step s = .next t → WearInRange t

/-- Every step keeps the forward queue, the consecutive-forward count and the trip record queue within their sizes (R15,
R19, R163). -/
def Obligations.QueueBoundsInvariant : Prop :=
  ∀ s t : State, QueuesBounded s → step s = .next t → QueuesBounded t

/-- Every step keeps the insert queue sound (R16). -/
def Obligations.InsertQueueInvariant : Prop :=
  ∀ s t : State, InsertQueueSound s → step s = .next t → InsertQueueSound t

/-- The invariants hold right after reset. State.reset is that of logs 4 and 7. -/
def Obligations.InvariantsHoldAtReset : Prop :=
  LinesAgree State.reset ∧ ActiveListExact State.reset ∧ NoTripPointShelved State.reset
    ∧ SkewWithinLimit State.reset ∧ WearInRange State.reset ∧ QueuesBounded State.reset
    ∧ InsertQueueSound State.reset
end

