-- ==== Sys2Proof/Laws/Activate.lean ====
section
/-!
SUPPORT. The tests of ACTIVATE (R196): what each table's check answers is the first of the manual's tests on it that fails;
and the angles that a zone covers (R90 to R92).
-/

namespace Sys2Proof.Machine

/-! Angles. -/

theorem angleDiff_mod (a b : Nat) : (angleDiff a b : Int) = ((a : Int) - b) % 3600 := by
  unfold angleDiff; omega

theorem inside_iff (z : ZoneCfg) (a : Nat) : z.inside a = true ↔ Covers z a := by
  unfold ZoneCfg.inside Covers
  rw [decide_eq_true_eq, ← angleDiff_mod, ← angleDiff_mod]
  omega

/-- Two zones cover a common angle exactly when one of them covers the other's start (R91). -/
theorem overlap_iff (y z : ZoneCfg) :
    (y.inside z.start || z.inside y.start) = true ↔ ∃ a, Covers y a ∧ Covers z a := by
  rw [Bool.or_eq_true, inside_iff, inside_iff]
  unfold Covers
  constructor
  · rintro (h | h)
    · exact ⟨z.start, h, by omega⟩
    · exact ⟨y.start, by omega, h⟩
  · rintro ⟨a, k1, k2⟩
    omega

/-! Lists of tests. -/

/-- The answer of a list of tests followed by others. -/
theorem FirstFails.append {l k : List (Nat × Nat × Prop)} {a b : Option (Nat × Nat)} (h : FirstFails l a)
    (g : a = none → FirstFails k b) : FirstFails (l ++ k) (a.or b) := by
  induction l with
  | nil => have e : a = none := h; rw [e]; exact g e
  | cons x l ih => exact ⟨fun p => ih (h.1 p), fun p => by rw [h.2 p]; rfl⟩

/-- One test. -/
theorem FirstFails.one {t e : Nat} {p : Prop} {c : Bool} (h : c = true ↔ p) :
    FirstFails [(t, e, p)] ((if c then none else some e).map fun e => (t, e)) := by
  refine ⟨fun k => ?_, fun k => ?_⟩
  · rw [if_pos (h.mpr k)]; rfl
  · rw [if_neg (fun q => k (h.mp q))]; rfl

/-- One test before others. -/
theorem FirstFails.cons {t e : Nat} {p : Prop} {c : Bool} {l : List (Nat × Nat × Prop)} {b : Option (Nat × Nat)}
    (h : c = true ↔ p) (g : c = true → FirstFails l b) :
    FirstFails ((t, e, p) :: l) (((if c then none else some e).map fun e => (t, e)).or b) := by
  refine ⟨fun k => ?_, fun k => ?_⟩
  · rw [if_pos (h.mpr k)]; exact g (h.mpr k)
  · rw [if_neg (fun q => k (h.mp q))]; rfl

/-- The first entry of a list for which a test fails is the first failing test (R196). -/
theorem FirstFails.first {α : Type} (l : List α) (t : Nat) (entry : α → Nat) (bad : Nat → Bool) (p : α → Prop)
    (h : ∀ i ∈ l, bad (entry i) = true ↔ ¬p i) :
    FirstFails (l.map fun i => (t, entry i, p i)) ((firstBad (l.map entry) bad).map fun e => (t, e)) := by
  induction l with
  | nil => rfl
  | cons i l ih =>
    have hi := h i (by simp)
    refine ⟨fun k => ?_, fun k => ?_⟩
    · have : bad (entry i) = false := by rw [Bool.eq_false_iff]; exact fun q => hi.mp q k
      simpa [firstBad, this] using ih fun j hj => h j (by simp [hj])
    · simp [firstBad, hi.mpr k]

theorem within_iff (lo hi v : Nat) : within lo hi v = true ↔ lo ≤ v ∧ v ≤ hi := by simp [within]
theorem withinInt_iff (lo hi v : Int) : withinInt lo hi v = true ↔ lo ≤ v ∧ v ≤ hi := by simp [withinInt]

theorem nth1_succ {α : Type} {k : Nat} (v : Vector α k) (i : Fin k) : nth1 v (i.val + 1) = some v[i] := by
  simp [nth1]

/-- The entry before one, where there is one. -/
theorem nth1_val {α : Type} {k : Nat} (v : Vector α k) (i : Fin k) :
    (i.val = 0 ∧ nth1 v i.val = none) ∨ ∃ j : Fin k, j.val + 1 = i.val ∧ nth1 v i.val = some v[j] := by
  obtain ⟨i, hi⟩ := i
  cases i with
  | zero => exact .inl ⟨rfl, rfl⟩
  | succ n => exact .inr ⟨⟨n, by omega⟩, rfl, by simp [nth1, show n < k by omega]⟩

/-- What holds of the entry before one, where there is one. -/
theorem before_iff {k : Nat} {i j : Fin k} (hj : j.val + 1 = i.val) (q : Fin k → Prop) :
    (∀ d : Fin k, d.val + 1 = i.val → q d) ↔ q j :=
  ⟨fun h => h j hj, fun h d hd => by rw [show d = j from Fin.ext (by omega)]; exact h⟩

/-- Whether some entry among the first ones passes a test. -/
theorem any_take_iff {α : Type} {k : Nat} (v : Vector α k) (n : Nat) (q : α → Bool) :
    (v.toList.take n).any q = true ↔ ∃ j : Fin k, j.val < n ∧ q v[j] = true := by
  rw [List.any_eq_true]
  constructor
  · rintro ⟨d, hd, hn⟩
    obtain ⟨i, hi, rfl⟩ := List.mem_take_iff_getElem.mp hd
    simp at hi
    exact ⟨⟨i, by omega⟩, hi.1, by simpa using hn⟩
  · rintro ⟨d, hd, hn⟩
    exact ⟨v[d], List.mem_take_iff_getElem.mpr ⟨d.val, by simp; omega, by simp⟩, hn⟩

theorem entriesOf_fin (n : Nat) : (List.finRange n).map (fun i => i.val + 1) = (List.range n).map (· + 1) := by
  rw [← List.map_coe_finRange_eq_range, List.map_map]; rfl

/-! The tables. -/

theorem stations_first (own : Nat) (t : TableSet) :
    FirstFails (stationTests own t) ((checkStations own t).map fun e => (1, e)) := by
  have parts : (checkStations own t).map (fun e => (1, e))
      = ((firstBad (entriesOf 1) (stationBad own t)).map fun e => (1, e)).or
          ((if ((allAxes.all fun x => countEntries t (fun c => c.role == .drive && c.axis == some x) == 1)
              && within 1 2 (countEntries t fun c => c.role == .console)
              && within 1 2 (countEntries t fun c => c.role == .manager)) = true
            then none else some 0).map fun e => (1, e)) := by
    unfold checkStations
    cases firstBad (entriesOf 1) (stationBad own t) <;> simp
  rw [parts, show entriesOf 1 = _ from (entriesOf_fin 16).symm]
  refine FirstFails.append (FirstFails.first _ 1 _ _ _ fun e _ => ?_) fun _ => FirstFails.one ?_
  · unfold stationBad
    rw [nth1_succ]
    have w1 := within_iff 1 62 (t.stations[e]).number
    have w2 := within_iff 10 2000 (t.stations[e]).timeout
    simp only [Nat.add_sub_cancel, Bool.and_eq_true, Bool.or_eq_true, any_take_iff, bne_iff_ne, beq_iff_eq,
      Bool.not_eq_true', Option.isNone_iff_eq_none, Bool.eq_false_iff, ne_eq, w1, w2]
    constructor
    · rintro ⟨h0, h⟩ k
      obtain ⟨k1, k2, k3, k4, k5⟩ := k h0
      rcases h with (((h | h) | h) | h) | ⟨d, hd, h⟩
      exacts [h k1, h k2, k3 h.1 h.2, k4 h, k5 d hd h]
    · intro h
      push Not at h
      obtain ⟨h0, h⟩ := h
      refine ⟨h0, ?_⟩
      by_contra k
      push Not at k
      obtain ⟨⟨⟨⟨k1, k2⟩, k3⟩, k4⟩, k5⟩ := k
      obtain ⟨d, hd, hn⟩ := h k1 k2 k3 k4
      exact k5 d hd hn
  · have g : ∀ p, countEntries t p = stationsOf t p := by
      intro p
      unfold countEntries stationsOf
      have : t.stations.toList = (List.finRange 16).map fun e => t.stations[e] := by
        apply List.ext_getElem <;> simp
      rw [this, List.filter_map, List.length_map]
      rfl
    simp only [Bool.and_eq_true, within_iff, g, and_assoc]
    refine and_congr ?_ Iff.rfl
    rw [List.all_eq_true]
    exact ⟨fun h x => by simpa using h x (by cases x <;> simp [allAxes]), fun h x _ => by simpa using h x⟩

theorem mode_first (t : TableSet) : FirstFails (modeTests t) ((checkMode t).map fun e => (2, e)) := by
  unfold modeTests checkMode
  refine FirstFails.one ?_
  simp only [Bool.and_eq_true, within_iff, List.all_eq_true, Nat.zero_le, true_and, and_assoc]
  refine and_congr Iff.rfl (and_congr Iff.rfl (and_congr Iff.rfl (and_congr ?_ Iff.rfl)))
  exact ⟨fun h x => h x (by cases x <;> simp [allAxes]), fun h x _ => h x⟩

theorem brake_first (t : TableSet) : FirstFails (brakeTests t) ((checkBrake t).map fun e => (3, e)) := by
  have ok : ∀ c, (match chanOfEntry (chanPos c + 1) with
      | some c => !brakeCfgOk (t.brake.get c)
      | none => false) = !brakeCfgOk (t.brake.get c) := by intro c; cases c <;> rfl
  have parts : (checkBrake t).map (fun e => (3, e))
      = ((firstBad ([Chan.hoist, .drag, .swing, .walk].map fun c => chanPos c + 1) fun e =>
          match chanOfEntry e with
          | some c => !brakeCfgOk (t.brake.get c)
          | none => false).map fun e => (3, e)).or
          ((if ((matrixPairs.all fun p => matrixEntryOk ((t.matrix.get p.1).get p.2))
              && [(Chan.swing, Chan.walk), (.walk, .swing), (.hoist, .walk), (.drag, .walk)].all
                  fun p => ((t.matrix.get p.1).get p.2).isNone) = true
            then none else some 0).map fun e => (3, e)) := by
    unfold checkBrake
    rw [show ([Chan.hoist, .drag, .swing, .walk].map fun c => chanPos c + 1) = [1, 2, 3, 4] from rfl]
    cases firstBad [1, 2, 3, 4] _ <;> simp
  rw [parts]
  refine FirstFails.append (FirstFails.first _ 3 _ _ _ fun c _ => ?_) fun _ => FirstFails.one ?_
  · rw [ok]
    simp only [Bool.not_eq_true', Bool.eq_false_iff, ne_eq, brakeCfgOk, Bool.and_eq_true, within_iff, Nat.zero_le,
      true_and, and_assoc]
  · rw [Bool.and_eq_true]
    refine and_congr ?_ (by simp [PerChan.get])
    rw [List.all_eq_true]
    have e : ∀ o : Option Nat, matrixEntryOk o = true ↔ ∀ d, o = some d → d ≤ 10000 := by
      intro o; cases o <;> simp [matrixEntryOk, within]
    constructor
    · intro h i j d hij
      have hm : (i, j) ∈ matrixPairs := by
        cases i <;> cases j <;> first | exact absurd rfl hij | simp [matrixPairs]
      exact (e _).mp (h _ hm) d
    · intro h p hm
      have ne : ∀ p ∈ matrixPairs, p.1 ≠ p.2 := by decide
      exact (e _).mpr fun d => h _ _ d (ne p hm)

theorem envelope_first (t : TableSet) : FirstFails (envelopeTests t) ((checkEnvelope t).map fun e => (4, e)) := by
  have parts : (checkEnvelope t).map (fun e => (4, e))
      = ((if (!envelopeBad t 0) = true then none else some 0).map fun e => (4, e)).or
          ((firstBad ((List.finRange 32).map fun i => i.val + 1) (envelopeBad t)).map fun e => (4, e)) := by
    rw [entriesOf_fin]
    unfold checkEnvelope firstBad
    rw [show entriesOf 4 = 0 :: (List.range 32).map (· + 1) from rfl, List.find?_cons]
    cases envelopeBad t 0 <;> rfl
  rw [parts]
  refine FirstFails.cons ?_ fun _ => FirstFails.first _ 4 _ _ _ fun i _ => ?_
  · simp only [envelopeBad, if_true, Bool.not_eq_true', Bool.eq_false_iff, ne_eq, Bool.or_eq_true, within_iff,
      decide_eq_true_eq]
    omega
  · unfold envelopeBad
    rw [if_neg (by omega), nth1_succ]
    by_cases hr : i.val < t.drag.rows
    · rw [if_neg (by omega)]
      simp only [Nat.add_sub_cancel]
      rcases nth1_val t.rows i with ⟨h0, hn⟩ | ⟨j, hj, hn⟩
      · have first : ∀ j : Fin 32, ¬(j.val + 1 = 0) := fun j => by omega
        have hp : 0 < t.drag.rows := by omega
        rw [hn]
        simp only [Bool.or_eq_true, Bool.not_eq_true', Bool.eq_false_iff, ne_eq, within_iff, decide_eq_true_eq,
          bne_iff_ne, h0, hp, first, forall_const, false_imp_iff, and_true]
        omega
      · rw [hn, before_iff hj]
        simp only [Bool.or_eq_true, Bool.not_eq_true', Bool.eq_false_iff, ne_eq, within_iff, decide_eq_true_eq]
        omega
    · rw [if_pos (by omega)]
      simp [hr]

theorem zones_first (t : TableSet) : FirstFails (zoneTests t) ((checkZones t).map fun e => (5, e)) := by
  unfold checkZones
  rw [show entriesOf 5 = _ from (entriesOf_fin 8).symm]
  refine FirstFails.first _ 5 _ _ _ fun i _ => ?_
  unfold zoneBad
  rw [nth1_succ]
  have w1 := within_iff 0 3599 (t.zones[i]).start
  have w2 := within_iff 0 3599 (t.zones[i]).stop
  have w3 := within_iff 0 1000 (t.zones[i]).slow
  have w4 := within_iff 0 900 (t.zones[i]).band
  have w5 : ∀ y : ZoneCfg, (y.inside (t.zones[i]).start = true ∨ (t.zones[i]).inside y.start = true)
      ↔ ∃ a, Covers y a ∧ Covers t.zones[i] a := fun y => by rw [← Bool.or_eq_true, overlap_iff]
  simp only [Nat.add_sub_cancel, Bool.and_eq_true, Bool.or_eq_true, any_take_iff, bne_iff_ne, beq_iff_eq,
    Bool.not_eq_true', Bool.eq_false_iff, ne_eq, w1, w2, w3, w4, w5, Nat.zero_le, true_and]
  rw [inside_iff]
  constructor
  · rintro ⟨h0, h⟩ k
    obtain ⟨k1, k2, k3, k4, k5, k6, k7⟩ := k h0
    rcases h with (((((h | h) | h) | h) | h) | ⟨j, hj, hu, a, h⟩) | h
    exacts [h k1, h k2, h k3, h k4, k5 h, k6 j hj hu a h, k7 h.1 h.2]
  · intro h
    push Not at h
    obtain ⟨h0, h⟩ := h
    refine ⟨h0, ?_⟩
    by_contra k
    push Not at k
    obtain ⟨⟨⟨⟨⟨⟨k1, k2⟩, k3⟩, k4⟩, k5⟩, k6⟩, k7⟩ := k
    obtain ⟨d, hd⟩ := h (by simpa using k1) (by simpa using k2) (by simpa using k3) (by simpa using k4) k5
      (fun j hj hu a c => k6 j hj hu a c)
    exact k7 d hd

theorem sectors_first (t : TableSet) : FirstFails (sectorTests t) ((checkWalk t).map fun e => (6, e)) := by
  have parts : (checkWalk t).map (fun e => (6, e))
      = ((if walkCfgOk t.walk = true then none else some 0).map fun e => (6, e)).or
          (((firstBad ((List.finRange 8).map fun i => i.val + 1) (sectorBad t)).map fun e => (6, e)).or
          ((if (((t.sectors.toList.take t.walk.sectors).getLast?.map SectorCfg.phase) == some .raise
              && phaseNames.all (fun p => (t.sectors.toList.take t.walk.sectors).any fun c => c.phase == p)) = true
            then none else some t.walk.sectors).map fun e => (6, e))) := by
    rw [entriesOf_fin]
    unfold checkWalk
    rw [show [1, 2, 3, 4, 5, 6, 7, 8] = (List.range 8).map (· + 1) from rfl]
    dsimp only
    cases walkCfgOk t.walk <;> cases firstBad ((List.range 8).map (· + 1)) (sectorBad t) <;> rfl
  rw [parts]
  refine FirstFails.cons ?_ fun hk => FirstFails.append (FirstFails.first _ 6 _ _ _ fun i _ => ?_) fun _ =>
    FirstFails.one ?_
  · simp only [walkCfgOk, Bool.and_eq_true, within_iff, withinInt_iff, decide_eq_true_eq, bne_iff_ne, Nat.zero_le,
      true_and, and_assoc]
  · unfold sectorBad
    rw [nth1_succ]
    by_cases hr : i.val < t.walk.sectors
    · rw [if_neg (by omega)]
      simp only [Nat.add_sub_cancel]
      rcases nth1_val t.sectors i with ⟨h0, hn⟩ | ⟨j, hj, hn⟩
      · have first : ∀ j : Fin 8, ¬(j.val + 1 = 0) := fun j => by omega
        have hp : 0 < t.walk.sectors := by omega
        rw [hn]
        simp only [Bool.or_eq_true, Bool.not_eq_true', Bool.eq_false_iff, ne_eq, within_iff, bne_iff_ne, h0, hp, first,
          forall_const, false_imp_iff, and_true, Nat.zero_le, true_and]
        tauto
      · rw [hn, before_iff hj]
        simp only [Bool.or_eq_true, Bool.not_eq_true', Bool.eq_false_iff, ne_eq, within_iff, decide_eq_true_eq]
        omega
    · rw [if_pos (by omega)]
      simp [hr]
  · have hs : t.walk.sectors ≤ 8 := by
      simp only [walkCfgOk, Bool.and_eq_true, within_iff] at hk
      omega
    rw [Bool.and_eq_true]
    refine and_congr ?_ ?_
    · rw [beq_iff_eq, List.getLast?_eq_getElem?]
      simp only [List.length_take, Vector.length_toList, Nat.min_eq_left hs]
      constructor
      · intro h
        have hp : 0 < t.walk.sectors := by
          rcases Nat.eq_zero_or_pos t.walk.sectors with z | z
          · rw [z] at h; simp at h
          · exact z
        refine ⟨⟨t.walk.sectors - 1, by omega⟩, by simp; omega, ?_⟩
        rw [List.getElem?_take_of_lt (by omega)] at h
        simpa [show t.walk.sectors - 1 < 8 by omega] using h
      · rintro ⟨i, hi, hp⟩
        rw [← hi, List.getElem?_take_of_lt (by omega)]
        simpa using hp
    · rw [List.all_eq_true]
      simp only [any_take_iff, beq_iff_eq]
      exact ⟨fun h p => h p (by cases p <;> simp [phaseNames]), fun h p _ => h p⟩

theorem points_first (t : TableSet) : FirstFails (pointTests t) ((checkPoints t).map fun e => (7, e)) := by
  unfold checkPoints
  rw [show entriesOf 7 = _ from (entriesOf_fin 48).symm]
  refine FirstFails.first _ 7 _ _ _ fun p _ => ?_
  unfold pointBad
  rw [nth1_succ]
  have w1 := within_iff 1 79 (t.points[p]).source
  have w2 := withinInt_iff (-2147483648) 4294967295 (t.points[p]).setThr
  have w3 := withinInt_iff (-2147483648) 4294967295 (t.points[p]).clearThr
  have w4 := within_iff 0 60000 (t.points[p]).onDelay
  simp only [Bool.and_eq_true, Bool.or_eq_true, beq_iff_eq, Bool.not_eq_true', Bool.eq_false_iff, ne_eq, w1, w2, w3,
    w4, decide_eq_true_eq, Option.isNone_iff_eq_none, Nat.zero_le, true_and]
  generalize (t.points[p]).dir = d
  generalize (t.points[p]).cls = k
  generalize (t.points[p]).action = a
  cases d <;> cases k <;> simp <;> grind

theorem analog_first (t : TableSet) : FirstFails (analogTests t) ((checkAnalog t).map fun e => (8, e)) := by
  unfold checkAnalog
  rw [show entriesOf 8 = (List.finRange 4).map (fun i => i.val) from (List.map_coe_finRange_eq_range (n := 4)).symm]
  refine FirstFails.first _ 8 _ _ _ fun i _ => ?_
  unfold analogBad
  rw [show t.analog[i.val]? = some t.analog[i] by simp]
  have w1 := withinInt_iff (-32768) 32767 (t.analog[i]).gain
  have w2 := withinInt_iff (-32768) 32767 (t.analog[i]).offset
  have w3 := within_iff 0 4095 (t.analog[i]).rawLimit
  have w4 := within_iff 1 8 (t.analog[i]).persistence
  have w5 := withinInt_iff (-65536) 65535 (t.analog[i]).fatigue
  have w6 := withinInt_iff (-65536) 65535 (t.analog[i]).reset
  simp only [Bool.and_eq_true, Bool.or_eq_true, beq_iff_eq, Bool.not_eq_true', Bool.eq_false_iff, ne_eq, w1, w2, w3,
    w4, w5, w6, decide_eq_true_eq, any_take_iff, Nat.zero_le, true_and]
  have : (∃ j : Fin 4, j.val < i.val ∧ (t.analog[j]).role = .boom)
      ↔ ¬∀ j : Fin 4, j < i → ¬(t.analog[j]).role = .boom := by
    push Not; rfl
  rw [this]
  generalize (∀ j : Fin 4, j < i → ¬(t.analog[j]).role = .boom) = q
  cases (t.analog[i]).role <;> simp <;> grind

theorem wear_first (t : TableSet) : FirstFails (wearTests t)
    (((checkAttrs t).map fun e => (9, e)).or ((checkTest t).map fun e => (10, e))) := by
  unfold checkAttrs checkTest
  rw [show entriesOf 9 = _ from (entriesOf_fin 13).symm]
  refine FirstFails.append (FirstFails.first _ 9 _ _ _ fun i _ => ?_) fun _ => FirstFails.one ?_
  · unfold attrBad
    rw [nth1_succ]
    simp only [Bool.or_eq_true, Bool.not_eq_true', Bool.eq_false_iff, ne_eq, within_iff]
    omega
  · simp only [Bool.and_eq_true, within_iff, and_assoc, List.all_eq_true, decide_eq_true_eq]
    refine and_congr Iff.rfl (and_congr Iff.rfl (and_congr ?_ Iff.rfl))
    rw [List.nodup_iff_count_le_one]
    exact ⟨fun h x => h x (by cases x <;> simp [allChans]), fun h x _ => h x⟩

theorem options_first (old : OptionsCfg) (queue : List TripRecord) (t : TableSet) :
    FirstFails (optionTests old (queue ≠ []) t) ((checkOptions old (!queue.isEmpty) t).map fun e => (11, e)) := by
  refine FirstFails.one ?_
  simp only [Bool.and_eq_true, within_iff, and_assoc, Bool.not_eq_true', Bool.eq_false_iff, ne_eq, Nat.zero_le,
    true_and, List.isEmpty_iff]

/-- ACTIVATE names the first test that fails, table by table (R196). -/
theorem activateFailure_first (s : State) : FirstFails s.activateTests s.activateFailure := by
  have h := (((((((((stations_first s.ring.own.toNat s.tables.staging).append fun _ =>
    mode_first s.tables.staging).append fun _ => brake_first s.tables.staging).append fun _ =>
    envelope_first s.tables.staging).append fun _ => zones_first s.tables.staging).append fun _ =>
    sectors_first s.tables.staging).append fun _ => points_first s.tables.staging).append fun _ =>
    analog_first s.tables.staging).append fun _ => wear_first s.tables.staging).append fun _ =>
    options_first s.act.options s.trip.queue s.tables.staging
  unfold State.activateTests
  convert h using 1
  unfold State.activateFailure
  simp only [List.findSome?_cons, List.findSome?_nil]
  generalize checkStations _ _ = a1
  generalize checkMode _ = a2
  generalize checkBrake _ = a3
  generalize checkEnvelope _ = a4
  generalize checkZones _ = a5
  generalize checkWalk _ = a6
  generalize checkPoints _ = a7
  generalize checkAnalog _ = a8
  generalize checkAttrs _ = a9
  generalize checkTest _ = a10
  generalize checkOptions _ _ _ = a11
  cases a1 <;> try rfl
  cases a2 <;> try rfl
  cases a3 <;> try rfl
  cases a4 <;> try rfl
  cases a5 <;> try rfl
  cases a6 <;> try rfl
  cases a7 <;> try rfl
  cases a8 <;> try rfl
  cases a9 <;> try rfl
  cases a10 <;> try rfl
  cases a11 <;> rfl

end Sys2Proof.Machine
end

