-- ==== Sys2Proof/Laws/State.lean ====
section
/-!
SUPPORT. What each named update of the state leaves and writes, field by field; reading back a value of a family.
-/

namespace Sys2Proof.Machine

variable (s : State)

@[simp] theorem oweStatus_now : (oweStatus s).now = s.now := rfl
@[simp] theorem oweStatus_freeIdx : (oweStatus s).freeIdx = s.freeIdx := rfl
@[simp] theorem oweStatus_pins : (oweStatus s).pins = s.pins := rfl
@[simp] theorem oweStatus_ring : (oweStatus s).ring = s.ring := rfl
@[simp] theorem oweStatus_stations : (oweStatus s).stations = s.stations := rfl
@[simp] theorem oweStatus_feedback : (oweStatus s).feedback = s.feedback := rfl
@[simp] theorem oweStatus_sensors : (oweStatus s).sensors = s.sensors := rfl
@[simp] theorem oweStatus_ctl : (oweStatus s).ctl = s.ctl := rfl
@[simp] theorem oweStatus_brakes : (oweStatus s).brakes = s.brakes := rfl
@[simp] theorem oweStatus_tight : (oweStatus s).tight = s.tight := rfl
@[simp] theorem oweStatus_walk : (oweStatus s).walk = s.walk := rfl
@[simp] theorem oweStatus_alarm : (oweStatus s).alarm = s.alarm := rfl
@[simp] theorem oweStatus_owed : (oweStatus s).owed = s.owed := rfl
@[simp] theorem oweStatus_analog : (oweStatus s).analog = s.analog := rfl
@[simp] theorem oweStatus_trip : (oweStatus s).trip = s.trip := rfl
@[simp] theorem oweStatus_heldTrips : (oweStatus s).heldTrips = s.heldTrips := rfl
@[simp] theorem oweStatus_updates : (oweStatus s).updates = s.updates := rfl
@[simp] theorem oweStatus_attrs : (oweStatus s).attrs = s.attrs := rfl
@[simp] theorem oweStatus_tester : (oweStatus s).tester = s.tester := rfl
@[simp] theorem oweStatus_tables : (oweStatus s).tables = s.tables := rfl
@[simp] theorem oweStatus_store : (oweStatus s).store = s.store := rfl
@[simp] theorem oweStatus_pending : (oweStatus s).pending = s.pending := rfl

@[simp] theorem refuse_now (r : Refused) : (refuse r s).now = s.now := rfl
@[simp] theorem refuse_freeIdx (r : Refused) : (refuse r s).freeIdx = s.freeIdx := rfl
@[simp] theorem refuse_pins (r : Refused) : (refuse r s).pins = s.pins := rfl
@[simp] theorem refuse_ring (r : Refused) : (refuse r s).ring = s.ring := rfl
@[simp] theorem refuse_stations (r : Refused) : (refuse r s).stations = s.stations := rfl
@[simp] theorem refuse_feedback (r : Refused) : (refuse r s).feedback = s.feedback := rfl
@[simp] theorem refuse_sensors (r : Refused) : (refuse r s).sensors = s.sensors := rfl
@[simp] theorem refuse_brakes (r : Refused) : (refuse r s).brakes = s.brakes := rfl
@[simp] theorem refuse_tight (r : Refused) : (refuse r s).tight = s.tight := rfl
@[simp] theorem refuse_walk (r : Refused) : (refuse r s).walk = s.walk := rfl
@[simp] theorem refuse_alarm (r : Refused) : (refuse r s).alarm = s.alarm := rfl
@[simp] theorem refuse_owed (r : Refused) : (refuse r s).owed = s.owed := rfl
@[simp] theorem refuse_analog (r : Refused) : (refuse r s).analog = s.analog := rfl
@[simp] theorem refuse_trip (r : Refused) : (refuse r s).trip = s.trip := rfl
@[simp] theorem refuse_heldTrips (r : Refused) : (refuse r s).heldTrips = s.heldTrips := rfl
@[simp] theorem refuse_updates (r : Refused) : (refuse r s).updates = s.updates := rfl
@[simp] theorem refuse_attrs (r : Refused) : (refuse r s).attrs = s.attrs := rfl
@[simp] theorem refuse_tester (r : Refused) : (refuse r s).tester = s.tester := rfl
@[simp] theorem refuse_tables (r : Refused) : (refuse r s).tables = s.tables := rfl
@[simp] theorem refuse_store (r : Refused) : (refuse r s).store = s.store := rfl
@[simp] theorem refuse_pending (r : Refused) : (refuse r s).pending = s.pending := rfl

@[simp] theorem setSlot_now (v : Option Slot) : (setSlot v s).now = s.now := rfl
@[simp] theorem setSlot_freeIdx (v : Option Slot) : (setSlot v s).freeIdx = s.freeIdx := rfl
@[simp] theorem setSlot_pins (v : Option Slot) : (setSlot v s).pins = s.pins := rfl
@[simp] theorem setSlot_ring (v : Option Slot) : (setSlot v s).ring = s.ring := rfl
@[simp] theorem setSlot_stations (v : Option Slot) : (setSlot v s).stations = s.stations := rfl
@[simp] theorem setSlot_feedback (v : Option Slot) : (setSlot v s).feedback = s.feedback := rfl
@[simp] theorem setSlot_sensors (v : Option Slot) : (setSlot v s).sensors = s.sensors := rfl
@[simp] theorem setSlot_brakes (v : Option Slot) : (setSlot v s).brakes = s.brakes := rfl
@[simp] theorem setSlot_tight (v : Option Slot) : (setSlot v s).tight = s.tight := rfl
@[simp] theorem setSlot_walk (v : Option Slot) : (setSlot v s).walk = s.walk := rfl
@[simp] theorem setSlot_alarm (v : Option Slot) : (setSlot v s).alarm = s.alarm := rfl
@[simp] theorem setSlot_owed (v : Option Slot) : (setSlot v s).owed = s.owed := rfl
@[simp] theorem setSlot_analog (v : Option Slot) : (setSlot v s).analog = s.analog := rfl
@[simp] theorem setSlot_trip (v : Option Slot) : (setSlot v s).trip = s.trip := rfl
@[simp] theorem setSlot_heldTrips (v : Option Slot) : (setSlot v s).heldTrips = s.heldTrips := rfl
@[simp] theorem setSlot_updates (v : Option Slot) : (setSlot v s).updates = s.updates := rfl
@[simp] theorem setSlot_attrs (v : Option Slot) : (setSlot v s).attrs = s.attrs := rfl
@[simp] theorem setSlot_tester (v : Option Slot) : (setSlot v s).tester = s.tester := rfl
@[simp] theorem setSlot_tables (v : Option Slot) : (setSlot v s).tables = s.tables := rfl
@[simp] theorem setSlot_store (v : Option Slot) : (setSlot v s).store = s.store := rfl
@[simp] theorem setSlot_pending (v : Option Slot) : (setSlot v s).pending = s.pending := rfl

@[simp] theorem setChan_now (c : Chan) (ch : Channel) : (s.setChan c ch).now = s.now := rfl
@[simp] theorem setChan_freeIdx (c : Chan) (ch : Channel) : (s.setChan c ch).freeIdx = s.freeIdx := rfl
@[simp] theorem setChan_pins (c : Chan) (ch : Channel) : (s.setChan c ch).pins = s.pins := rfl
@[simp] theorem setChan_ring (c : Chan) (ch : Channel) : (s.setChan c ch).ring = s.ring := rfl
@[simp] theorem setChan_stations (c : Chan) (ch : Channel) : (s.setChan c ch).stations = s.stations := rfl
@[simp] theorem setChan_feedback (c : Chan) (ch : Channel) : (s.setChan c ch).feedback = s.feedback := rfl
@[simp] theorem setChan_sensors (c : Chan) (ch : Channel) : (s.setChan c ch).sensors = s.sensors := rfl
@[simp] theorem setChan_ctl (c : Chan) (ch : Channel) : (s.setChan c ch).ctl = s.ctl := rfl
@[simp] theorem setChan_tight (c : Chan) (ch : Channel) : (s.setChan c ch).tight = s.tight := rfl
@[simp] theorem setChan_walk (c : Chan) (ch : Channel) : (s.setChan c ch).walk = s.walk := rfl
@[simp] theorem setChan_alarm (c : Chan) (ch : Channel) : (s.setChan c ch).alarm = s.alarm := rfl
@[simp] theorem setChan_owed (c : Chan) (ch : Channel) : (s.setChan c ch).owed = s.owed := rfl
@[simp] theorem setChan_analog (c : Chan) (ch : Channel) : (s.setChan c ch).analog = s.analog := rfl
@[simp] theorem setChan_trip (c : Chan) (ch : Channel) : (s.setChan c ch).trip = s.trip := rfl
@[simp] theorem setChan_heldTrips (c : Chan) (ch : Channel) : (s.setChan c ch).heldTrips = s.heldTrips := rfl
@[simp] theorem setChan_updates (c : Chan) (ch : Channel) : (s.setChan c ch).updates = s.updates := rfl
@[simp] theorem setChan_attrs (c : Chan) (ch : Channel) : (s.setChan c ch).attrs = s.attrs := rfl
@[simp] theorem setChan_tester (c : Chan) (ch : Channel) : (s.setChan c ch).tester = s.tester := rfl
@[simp] theorem setChan_tables (c : Chan) (ch : Channel) : (s.setChan c ch).tables = s.tables := rfl
@[simp] theorem setChan_store (c : Chan) (ch : Channel) : (s.setChan c ch).store = s.store := rfl
@[simp] theorem setChan_pending (c : Chan) (ch : Channel) : (s.setChan c ch).pending = s.pending := rfl

@[simp] theorem setSource_now (code : Nat) (v : Int) (ok : Bool) : (s.setSource code v ok).now = s.now := rfl
@[simp] theorem setSource_freeIdx (code : Nat) (v : Int) (ok : Bool) : (s.setSource code v ok).freeIdx = s.freeIdx := rfl
@[simp] theorem setSource_pins (code : Nat) (v : Int) (ok : Bool) : (s.setSource code v ok).pins = s.pins := rfl
@[simp] theorem setSource_ring (code : Nat) (v : Int) (ok : Bool) : (s.setSource code v ok).ring = s.ring := rfl
@[simp] theorem setSource_stations (code : Nat) (v : Int) (ok : Bool) : (s.setSource code v ok).stations = s.stations := rfl
@[simp] theorem setSource_feedback (code : Nat) (v : Int) (ok : Bool) : (s.setSource code v ok).feedback = s.feedback := rfl
@[simp] theorem setSource_sensors (code : Nat) (v : Int) (ok : Bool) : (s.setSource code v ok).sensors = s.sensors := rfl
@[simp] theorem setSource_ctl (code : Nat) (v : Int) (ok : Bool) : (s.setSource code v ok).ctl = s.ctl := rfl
@[simp] theorem setSource_brakes (code : Nat) (v : Int) (ok : Bool) : (s.setSource code v ok).brakes = s.brakes := rfl
@[simp] theorem setSource_tight (code : Nat) (v : Int) (ok : Bool) : (s.setSource code v ok).tight = s.tight := rfl
@[simp] theorem setSource_walk (code : Nat) (v : Int) (ok : Bool) : (s.setSource code v ok).walk = s.walk := rfl
@[simp] theorem setSource_owed (code : Nat) (v : Int) (ok : Bool) : (s.setSource code v ok).owed = s.owed := rfl
@[simp] theorem setSource_statusOwed (code : Nat) (v : Int) (ok : Bool) : (s.setSource code v ok).statusOwed = s.statusOwed := rfl
@[simp] theorem setSource_analog (code : Nat) (v : Int) (ok : Bool) : (s.setSource code v ok).analog = s.analog := rfl
@[simp] theorem setSource_trip (code : Nat) (v : Int) (ok : Bool) : (s.setSource code v ok).trip = s.trip := rfl
@[simp] theorem setSource_heldTrips (code : Nat) (v : Int) (ok : Bool) : (s.setSource code v ok).heldTrips = s.heldTrips := rfl
@[simp] theorem setSource_updates (code : Nat) (v : Int) (ok : Bool) : (s.setSource code v ok).updates = s.updates := rfl
@[simp] theorem setSource_attrs (code : Nat) (v : Int) (ok : Bool) : (s.setSource code v ok).attrs = s.attrs := rfl
@[simp] theorem setSource_tester (code : Nat) (v : Int) (ok : Bool) : (s.setSource code v ok).tester = s.tester := rfl
@[simp] theorem setSource_tables (code : Nat) (v : Int) (ok : Bool) : (s.setSource code v ok).tables = s.tables := rfl
@[simp] theorem setSource_store (code : Nat) (v : Int) (ok : Bool) : (s.setSource code v ok).store = s.store := rfl
@[simp] theorem setSource_pending (code : Nat) (v : Int) (ok : Bool) : (s.setSource code v ok).pending = s.pending := rfl

@[simp] theorem bump_now (c : Counter) : (bump c s).now = s.now := rfl
@[simp] theorem bump_freeIdx (c : Counter) : (bump c s).freeIdx = s.freeIdx := rfl
@[simp] theorem bump_pins (c : Counter) : (bump c s).pins = s.pins := rfl
@[simp] theorem bump_stations (c : Counter) : (bump c s).stations = s.stations := rfl
@[simp] theorem bump_feedback (c : Counter) : (bump c s).feedback = s.feedback := rfl
@[simp] theorem bump_sensors (c : Counter) : (bump c s).sensors = s.sensors := rfl
@[simp] theorem bump_ctl (c : Counter) : (bump c s).ctl = s.ctl := rfl
@[simp] theorem bump_brakes (c : Counter) : (bump c s).brakes = s.brakes := rfl
@[simp] theorem bump_tight (c : Counter) : (bump c s).tight = s.tight := rfl
@[simp] theorem bump_walk (c : Counter) : (bump c s).walk = s.walk := rfl
@[simp] theorem bump_alarm (c : Counter) : (bump c s).alarm = s.alarm := rfl
@[simp] theorem bump_owed (c : Counter) : (bump c s).owed = s.owed := rfl
@[simp] theorem bump_statusOwed (c : Counter) : (bump c s).statusOwed = s.statusOwed := rfl
@[simp] theorem bump_analog (c : Counter) : (bump c s).analog = s.analog := rfl
@[simp] theorem bump_trip (c : Counter) : (bump c s).trip = s.trip := rfl
@[simp] theorem bump_heldTrips (c : Counter) : (bump c s).heldTrips = s.heldTrips := rfl
@[simp] theorem bump_updates (c : Counter) : (bump c s).updates = s.updates := rfl
@[simp] theorem bump_attrs (c : Counter) : (bump c s).attrs = s.attrs := rfl
@[simp] theorem bump_tester (c : Counter) : (bump c s).tester = s.tester := rfl
@[simp] theorem bump_tables (c : Counter) : (bump c s).tables = s.tables := rfl
@[simp] theorem bump_store (c : Counter) : (bump c s).store = s.store := rfl
@[simp] theorem bump_pending (c : Counter) : (bump c s).pending = s.pending := rfl

@[simp] theorem setAin_now (ch : Fin 4) (r : AinRun) : (s.setAin ch r).now = s.now := rfl
@[simp] theorem setAin_freeIdx (ch : Fin 4) (r : AinRun) : (s.setAin ch r).freeIdx = s.freeIdx := rfl
@[simp] theorem setAin_pins (ch : Fin 4) (r : AinRun) : (s.setAin ch r).pins = s.pins := rfl
@[simp] theorem setAin_ring (ch : Fin 4) (r : AinRun) : (s.setAin ch r).ring = s.ring := rfl
@[simp] theorem setAin_stations (ch : Fin 4) (r : AinRun) : (s.setAin ch r).stations = s.stations := rfl
@[simp] theorem setAin_feedback (ch : Fin 4) (r : AinRun) : (s.setAin ch r).feedback = s.feedback := rfl
@[simp] theorem setAin_sensors (ch : Fin 4) (r : AinRun) : (s.setAin ch r).sensors = s.sensors := rfl
@[simp] theorem setAin_ctl (ch : Fin 4) (r : AinRun) : (s.setAin ch r).ctl = s.ctl := rfl
@[simp] theorem setAin_brakes (ch : Fin 4) (r : AinRun) : (s.setAin ch r).brakes = s.brakes := rfl
@[simp] theorem setAin_tight (ch : Fin 4) (r : AinRun) : (s.setAin ch r).tight = s.tight := rfl
@[simp] theorem setAin_walk (ch : Fin 4) (r : AinRun) : (s.setAin ch r).walk = s.walk := rfl
@[simp] theorem setAin_alarm (ch : Fin 4) (r : AinRun) : (s.setAin ch r).alarm = s.alarm := rfl
@[simp] theorem setAin_owed (ch : Fin 4) (r : AinRun) : (s.setAin ch r).owed = s.owed := rfl
@[simp] theorem setAin_statusOwed (ch : Fin 4) (r : AinRun) : (s.setAin ch r).statusOwed = s.statusOwed := rfl
@[simp] theorem setAin_trip (ch : Fin 4) (r : AinRun) : (s.setAin ch r).trip = s.trip := rfl
@[simp] theorem setAin_heldTrips (ch : Fin 4) (r : AinRun) : (s.setAin ch r).heldTrips = s.heldTrips := rfl
@[simp] theorem setAin_updates (ch : Fin 4) (r : AinRun) : (s.setAin ch r).updates = s.updates := rfl
@[simp] theorem setAin_attrs (ch : Fin 4) (r : AinRun) : (s.setAin ch r).attrs = s.attrs := rfl
@[simp] theorem setAin_tester (ch : Fin 4) (r : AinRun) : (s.setAin ch r).tester = s.tester := rfl
@[simp] theorem setAin_tables (ch : Fin 4) (r : AinRun) : (s.setAin ch r).tables = s.tables := rfl
@[simp] theorem setAin_store (ch : Fin 4) (r : AinRun) : (s.setAin ch r).store = s.store := rfl
@[simp] theorem setAin_pending (ch : Fin 4) (r : AinRun) : (s.setAin ch r).pending = s.pending := rfl

@[simp] theorem setStation_now (e : Fin 16) (r : Option StationRun) : (s.setStation e r).now = s.now := rfl
@[simp] theorem setStation_freeIdx (e : Fin 16) (r : Option StationRun) : (s.setStation e r).freeIdx = s.freeIdx := rfl
@[simp] theorem setStation_pins (e : Fin 16) (r : Option StationRun) : (s.setStation e r).pins = s.pins := rfl
@[simp] theorem setStation_ring (e : Fin 16) (r : Option StationRun) : (s.setStation e r).ring = s.ring := rfl
@[simp] theorem setStation_feedback (e : Fin 16) (r : Option StationRun) : (s.setStation e r).feedback = s.feedback := rfl
@[simp] theorem setStation_sensors (e : Fin 16) (r : Option StationRun) : (s.setStation e r).sensors = s.sensors := rfl
@[simp] theorem setStation_ctl (e : Fin 16) (r : Option StationRun) : (s.setStation e r).ctl = s.ctl := rfl
@[simp] theorem setStation_brakes (e : Fin 16) (r : Option StationRun) : (s.setStation e r).brakes = s.brakes := rfl
@[simp] theorem setStation_tight (e : Fin 16) (r : Option StationRun) : (s.setStation e r).tight = s.tight := rfl
@[simp] theorem setStation_walk (e : Fin 16) (r : Option StationRun) : (s.setStation e r).walk = s.walk := rfl
@[simp] theorem setStation_alarm (e : Fin 16) (r : Option StationRun) : (s.setStation e r).alarm = s.alarm := rfl
@[simp] theorem setStation_owed (e : Fin 16) (r : Option StationRun) : (s.setStation e r).owed = s.owed := rfl
@[simp] theorem setStation_statusOwed (e : Fin 16) (r : Option StationRun) : (s.setStation e r).statusOwed = s.statusOwed := rfl
@[simp] theorem setStation_analog (e : Fin 16) (r : Option StationRun) : (s.setStation e r).analog = s.analog := rfl
@[simp] theorem setStation_trip (e : Fin 16) (r : Option StationRun) : (s.setStation e r).trip = s.trip := rfl
@[simp] theorem setStation_heldTrips (e : Fin 16) (r : Option StationRun) : (s.setStation e r).heldTrips = s.heldTrips := rfl
@[simp] theorem setStation_updates (e : Fin 16) (r : Option StationRun) : (s.setStation e r).updates = s.updates := rfl
@[simp] theorem setStation_attrs (e : Fin 16) (r : Option StationRun) : (s.setStation e r).attrs = s.attrs := rfl
@[simp] theorem setStation_tester (e : Fin 16) (r : Option StationRun) : (s.setStation e r).tester = s.tester := rfl
@[simp] theorem setStation_tables (e : Fin 16) (r : Option StationRun) : (s.setStation e r).tables = s.tables := rfl
@[simp] theorem setStation_store (e : Fin 16) (r : Option StationRun) : (s.setStation e r).store = s.store := rfl
@[simp] theorem setStation_pending (e : Fin 16) (r : Option StationRun) : (s.setStation e r).pending = s.pending := rfl

@[simp] theorem clearEpisode_now : (clearEpisode s).now = s.now := rfl
@[simp] theorem clearEpisode_freeIdx : (clearEpisode s).freeIdx = s.freeIdx := rfl
@[simp] theorem clearEpisode_pins : (clearEpisode s).pins = s.pins := rfl
@[simp] theorem clearEpisode_ring : (clearEpisode s).ring = s.ring := rfl
@[simp] theorem clearEpisode_stations : (clearEpisode s).stations = s.stations := rfl
@[simp] theorem clearEpisode_feedback : (clearEpisode s).feedback = s.feedback := rfl
@[simp] theorem clearEpisode_sensors : (clearEpisode s).sensors = s.sensors := rfl
@[simp] theorem clearEpisode_ctl : (clearEpisode s).ctl = s.ctl := rfl
@[simp] theorem clearEpisode_brakes : (clearEpisode s).brakes = s.brakes := rfl
@[simp] theorem clearEpisode_walk : (clearEpisode s).walk = s.walk := rfl
@[simp] theorem clearEpisode_alarm : (clearEpisode s).alarm = s.alarm := rfl
@[simp] theorem clearEpisode_owed : (clearEpisode s).owed = s.owed := rfl
@[simp] theorem clearEpisode_statusOwed : (clearEpisode s).statusOwed = s.statusOwed := rfl
@[simp] theorem clearEpisode_analog : (clearEpisode s).analog = s.analog := rfl
@[simp] theorem clearEpisode_trip : (clearEpisode s).trip = s.trip := rfl
@[simp] theorem clearEpisode_heldTrips : (clearEpisode s).heldTrips = s.heldTrips := rfl
@[simp] theorem clearEpisode_updates : (clearEpisode s).updates = s.updates := rfl
@[simp] theorem clearEpisode_attrs : (clearEpisode s).attrs = s.attrs := rfl
@[simp] theorem clearEpisode_tester : (clearEpisode s).tester = s.tester := rfl
@[simp] theorem clearEpisode_tables : (clearEpisode s).tables = s.tables := rfl
@[simp] theorem clearEpisode_store : (clearEpisode s).store = s.store := rfl
@[simp] theorem clearEpisode_pending : (clearEpisode s).pending = s.pending := rfl

@[simp] theorem startPark_now : (startPark s).now = s.now := rfl
@[simp] theorem startPark_freeIdx : (startPark s).freeIdx = s.freeIdx := rfl
@[simp] theorem startPark_pins : (startPark s).pins = s.pins := rfl
@[simp] theorem startPark_ring : (startPark s).ring = s.ring := rfl
@[simp] theorem startPark_stations : (startPark s).stations = s.stations := rfl
@[simp] theorem startPark_feedback : (startPark s).feedback = s.feedback := rfl
@[simp] theorem startPark_sensors : (startPark s).sensors = s.sensors := rfl
@[simp] theorem startPark_brakes : (startPark s).brakes = s.brakes := rfl
@[simp] theorem startPark_tight : (startPark s).tight = s.tight := rfl
@[simp] theorem startPark_walk : (startPark s).walk = s.walk := rfl
@[simp] theorem startPark_alarm : (startPark s).alarm = s.alarm := rfl
@[simp] theorem startPark_owed : (startPark s).owed = s.owed := rfl
@[simp] theorem startPark_statusOwed : (startPark s).statusOwed = s.statusOwed := rfl
@[simp] theorem startPark_analog : (startPark s).analog = s.analog := rfl
@[simp] theorem startPark_trip : (startPark s).trip = s.trip := rfl
@[simp] theorem startPark_heldTrips : (startPark s).heldTrips = s.heldTrips := rfl
@[simp] theorem startPark_updates : (startPark s).updates = s.updates := rfl
@[simp] theorem startPark_attrs : (startPark s).attrs = s.attrs := rfl
@[simp] theorem startPark_tester : (startPark s).tester = s.tester := rfl
@[simp] theorem startPark_tables : (startPark s).tables = s.tables := rfl
@[simp] theorem startPark_store : (startPark s).store = s.store := rfl
@[simp] theorem startPark_pending : (startPark s).pending = s.pending := rfl

@[simp] theorem deEnergise_now (a : TripAction) : (deEnergise a s).now = s.now := rfl
@[simp] theorem deEnergise_freeIdx (a : TripAction) : (deEnergise a s).freeIdx = s.freeIdx := rfl
@[simp] theorem deEnergise_pins (a : TripAction) : (deEnergise a s).pins = s.pins := rfl
@[simp] theorem deEnergise_ring (a : TripAction) : (deEnergise a s).ring = s.ring := rfl
@[simp] theorem deEnergise_stations (a : TripAction) : (deEnergise a s).stations = s.stations := rfl
@[simp] theorem deEnergise_feedback (a : TripAction) : (deEnergise a s).feedback = s.feedback := rfl
@[simp] theorem deEnergise_sensors (a : TripAction) : (deEnergise a s).sensors = s.sensors := rfl
@[simp] theorem deEnergise_ctl (a : TripAction) : (deEnergise a s).ctl = s.ctl := rfl
@[simp] theorem deEnergise_brakes (a : TripAction) : (deEnergise a s).brakes = s.brakes := rfl
@[simp] theorem deEnergise_tight (a : TripAction) : (deEnergise a s).tight = s.tight := rfl
@[simp] theorem deEnergise_walk (a : TripAction) : (deEnergise a s).walk = s.walk := rfl
@[simp] theorem deEnergise_alarm (a : TripAction) : (deEnergise a s).alarm = s.alarm := rfl
@[simp] theorem deEnergise_owed (a : TripAction) : (deEnergise a s).owed = s.owed := rfl
@[simp] theorem deEnergise_analog (a : TripAction) : (deEnergise a s).analog = s.analog := rfl
@[simp] theorem deEnergise_heldTrips (a : TripAction) : (deEnergise a s).heldTrips = s.heldTrips := rfl
@[simp] theorem deEnergise_updates (a : TripAction) : (deEnergise a s).updates = s.updates := rfl
@[simp] theorem deEnergise_attrs (a : TripAction) : (deEnergise a s).attrs = s.attrs := rfl
@[simp] theorem deEnergise_tester (a : TripAction) : (deEnergise a s).tester = s.tester := rfl
@[simp] theorem deEnergise_tables (a : TripAction) : (deEnergise a s).tables = s.tables := rfl
@[simp] theorem deEnergise_store (a : TripAction) : (deEnergise a s).store = s.store := rfl
@[simp] theorem deEnergise_pending (a : TripAction) : (deEnergise a s).pending = s.pending := rfl

@[simp] theorem energise_now : (energise s).now = s.now := rfl
@[simp] theorem energise_freeIdx : (energise s).freeIdx = s.freeIdx := rfl
@[simp] theorem energise_pins : (energise s).pins = s.pins := rfl
@[simp] theorem energise_ring : (energise s).ring = s.ring := rfl
@[simp] theorem energise_stations : (energise s).stations = s.stations := rfl
@[simp] theorem energise_feedback : (energise s).feedback = s.feedback := rfl
@[simp] theorem energise_sensors : (energise s).sensors = s.sensors := rfl
@[simp] theorem energise_ctl : (energise s).ctl = s.ctl := rfl
@[simp] theorem energise_brakes : (energise s).brakes = s.brakes := rfl
@[simp] theorem energise_tight : (energise s).tight = s.tight := rfl
@[simp] theorem energise_walk : (energise s).walk = s.walk := rfl
@[simp] theorem energise_alarm : (energise s).alarm = s.alarm := rfl
@[simp] theorem energise_owed : (energise s).owed = s.owed := rfl
@[simp] theorem energise_analog : (energise s).analog = s.analog := rfl
@[simp] theorem energise_heldTrips : (energise s).heldTrips = s.heldTrips := rfl
@[simp] theorem energise_updates : (energise s).updates = s.updates := rfl
@[simp] theorem energise_attrs : (energise s).attrs = s.attrs := rfl
@[simp] theorem energise_tester : (energise s).tester = s.tester := rfl
@[simp] theorem energise_tables : (energise s).tables = s.tables := rfl
@[simp] theorem energise_store : (energise s).store = s.store := rfl
@[simp] theorem energise_pending : (energise s).pending = s.pending := rfl

@[simp] theorem oweStatus_statusOwed : (oweStatus s).statusOwed = true := rfl
@[simp] theorem refuse_statusOwed (r : Refused) : (refuse r s).statusOwed = true := rfl
@[simp] theorem refuse_refusal (r : Refused) : (refuse r s).ctl.refusal = r := rfl
@[simp] theorem refuse_mode (r : Refused) : (refuse r s).ctl.mode = s.ctl.mode := rfl
@[simp] theorem refuse_slot (r : Refused) : (refuse r s).ctl.slot = s.ctl.slot := rfl
@[simp] theorem refuse_hold (r : Refused) : (refuse r s).ctl.hold = s.ctl.hold := rfl
@[simp] theorem refuse_reason (r : Refused) : (refuse r s).ctl.reason = s.ctl.reason := rfl
@[simp] theorem setSlot_slot (v : Option Slot) : (setSlot v s).ctl.slot = v := rfl
@[simp] theorem setSlot_mode (v : Option Slot) : (setSlot v s).ctl.mode = s.ctl.mode := rfl
@[simp] theorem setSlot_hold (v : Option Slot) : (setSlot v s).ctl.hold = s.ctl.hold := rfl
@[simp] theorem setSlot_refusal (v : Option Slot) : (setSlot v s).ctl.refusal = s.ctl.refusal := rfl
@[simp] theorem setChan_brakes (c : Chan) (ch : Channel) : (s.setChan c ch).brakes = s.brakes.set c ch := rfl
@[simp] theorem setAin_analog (ch : Fin 4) (r : AinRun) : (s.setAin ch r).analog = s.analog.set ch r := rfl
@[simp] theorem setStation_stations (e : Fin 16) (r : Option StationRun) :
    (s.setStation e r).stations = s.stations.set e r := rfl
@[simp] theorem clearEpisode_tight : (clearEpisode s).tight = resetTight := rfl
@[simp] theorem energise_field : (energise s).trip.field = .energised := rfl
@[simp] theorem energise_brake : (energise s).trip.brake = .energised := rfl
@[simp] theorem deEnergise_field (a : TripAction) : (deEnergise a s).trip.field = .deEnergised := rfl
@[simp] theorem deEnergise_queue (a : TripAction) : (deEnergise a s).trip.queue = s.trip.queue := rfl
@[simp] theorem bump_own (c : Counter) : (bump c s).ring.own = s.ring.own := rfl
@[simp] theorem bump_fwd (c : Counter) : (bump c s).ring.fwd = s.ring.fwd := rfl
@[simp] theorem bump_ins (c : Counter) : (bump c s).ring.ins = s.ring.ins := rfl
@[simp] theorem bump_reserved (c : Counter) : (bump c s).ring.reserved = s.ring.reserved := rfl
@[simp] theorem bump_sending (c : Counter) : (bump c s).ring.sending = s.ring.sending := rfl
@[simp] theorem bump_consec (c : Counter) : (bump c s).ring.consec = s.ring.consec := rfl
@[simp] theorem bump_insSeq (c : Counter) : (bump c s).ring.insSeq = s.ring.insSeq := rfl
@[simp] theorem bump_silence (c : Counter) : (bump c s).ring.silence = s.ring.silence := rfl
@[simp] theorem bump_snapshot (c : Counter) : (bump c s).ring.snapshot = s.ring.snapshot := rfl

/-- A counter raised reads as one more, saturating (R25). -/
@[simp] theorem bump_counter_same (c : Counter) : (bump c s).counter c = bumpWord (s.counter c) := by
  simp [bump, State.counter]

/-- Places of the counters are distinct. -/
theorem Counter.idx_injective : Function.Injective Counter.idx := by
  intro a b h; cases a <;> cases b <;> first | rfl | exact absurd h (by decide)

/-- A counter raised leaves the others (R25). -/
theorem bump_counter_ne {c d : Counter} (h : c ≠ d) : (bump c s).counter d = s.counter d := by
  have h' : c.idx.val ≠ d.idx.val := fun e => h (Counter.idx_injective (Fin.ext e))
  simp [bump, State.counter, h']

variable {α : Type}

@[simp] theorem PerChan.get_set_same (p : PerChan α) (c : Chan) (a : α) : (p.set c a).get c = a := by
  cases c <;> rfl
theorem PerChan.get_set_ne (p : PerChan α) {c d : Chan} (a : α) (h : c ≠ d) : (p.set c a).get d = p.get d := by
  cases c <;> cases d <;> first | rfl | exact absurd rfl h
theorem PerChan.get_set (p : PerChan α) (c d : Chan) (a : α) :
    (p.set c a).get d = if c = d then a else p.get d := by
  cases c <;> cases d <;> rfl
@[simp] theorem PerAxis.get_set_same (p : PerAxis α) (x : Axis) (a : α) : (p.set x a).get x = a := by
  cases x <;> rfl
theorem PerAxis.get_set_ne (p : PerAxis α) {x y : Axis} (a : α) (h : x ≠ y) : (p.set x a).get y = p.get y := by
  cases x <;> cases y <;> first | rfl | exact absurd rfl h
theorem PerAxis.get_set (p : PerAxis α) (x y : Axis) (a : α) :
    (p.set x a).get y = if x = y then a else p.get y := by
  cases x <;> cases y <;> rfl

/-- The channel just replaced reads as given. -/
@[simp] theorem setChan_get_same (c : Chan) (ch : Channel) : (s.setChan c ch).brakes.get c = ch := by simp
/-- The other channels are as before. -/
theorem setChan_get_ne {c d : Chan} (ch : Channel) (h : c ≠ d) :
    (s.setChan c ch).brakes.get d = s.brakes.get d := by simp [PerChan.get_set_ne _ _ h]

end Sys2Proof.Machine
end

