-- ==== Sys2Proof/Laws/Queues.lean ====
section
/-!
SUPPORT. What the queue operations do: OUT's choice (R19), joining the insert queue (R16), forwarding (R12), the answer to
a request (R191) and the building of notices at the end of a command (R18).
-/

namespace Sys2Proof.Machine

/-- What building notices and joining the insert queue leave: all but the insert queue, OUT, its two counts and the
notice marks. -/
structure NoticeKept (s t : State) : Prop where
  rest : t = { s with ring := t.ring, statusOwed := t.statusOwed, owed := t.owed }
  ring : { t.ring with ins := [], sending := none, consec := 0, insSeq := 0#8 }
    = { s.ring with ins := [], sending := none, consec := 0, insSeq := 0#8 }

theorem NoticeKept.refl (s : State) : NoticeKept s s := by constructor <;> rfl

theorem NoticeKept.trans {a b c : State} (h : NoticeKept a b) (k : NoticeKept b c) : NoticeKept a c := by
  obtain ⟨h1, h2⟩ := h
  obtain ⟨k1, k2⟩ := k
  constructor
  · rw [k1, h1]
  · exact k2.trans h2

section
variable {s t : State} (h : NoticeKept s t)
include h

theorem NoticeKept.own : t.ring.own = s.ring.own := by have k := congrArg Ring.own h.ring; exact k
theorem NoticeKept.fwd : t.ring.fwd = s.ring.fwd := by have k := congrArg Ring.fwd h.ring; exact k
theorem NoticeKept.reserved : t.ring.reserved = s.ring.reserved := by have k := congrArg Ring.reserved h.ring; exact k
theorem NoticeKept.counters : t.ring.counters = s.ring.counters := by have k := congrArg Ring.counters h.ring; exact k
theorem NoticeKept.snapshot : t.ring.snapshot = s.ring.snapshot := by have k := congrArg Ring.snapshot h.ring; exact k
theorem NoticeKept.silence : t.ring.silence = s.ring.silence := by have k := congrArg Ring.silence h.ring; exact k

end

/-- OUT's choice leaves all but the insert queue, what it sends, and its two counts (R19). -/
theorem choose_kept (s : State) : NoticeKept s (choose s) := by
  unfold choose; dsimp only
  split
  · split <;> constructor <;> rfl
  · constructor <;> rfl
  · constructor <;> rfl

theorem chooseIfIdle_kept (s : State) : NoticeKept s (chooseIfIdle s) := by
  unfold chooseIfIdle; split
  · exact choose_kept s
  · exact .refl s

theorem joinInsert_kept (e : InsEntry) (s : State) : NoticeKept s (joinInsert e s) := by
  refine NoticeKept.trans ?_ (chooseIfIdle_kept _)
  constructor <;> rfl

theorem buildStatus_kept (s : State) : NoticeKept s (buildStatus s) := by
  refine NoticeKept.trans ?_ (joinInsert_kept _ _)
  constructor <;> rfl

theorem buildAlarm_kept (p : Fin 48) (s : State) : NoticeKept s (buildAlarm p s) := by
  refine NoticeKept.trans ?_ (joinInsert_kept _ _)
  constructor <;> rfl

theorem buildOne_kept (s : State) : NoticeKept s (buildOne s) := by
  unfold buildOne
  repeat' split
  all_goals first | exact .refl s | exact buildStatus_kept s | exact buildAlarm_kept ..

theorem buildNotices_kept (n : Nat) : ∀ s, NoticeKept s (buildNotices n s) := by
  induction n with
  | zero => exact fun s => .refl s
  | succ n ih => exact fun s => (buildOne_kept s).trans (ih _)

/-- What the end of a command leaves (R18). -/
theorem finish_kept (s : State) : NoticeKept s (finish s) := buildNotices_kept 16 s

/-- The end of a command touches the ring interface and the notice marks alone. -/
theorem finish_onlyRing (s : State) : OnlyRing s (finish s) := (finish_kept s).rest

@[simp] theorem done_eq (s : State) : done s = .next (finish s) := rfl

section
variable (s : State)

@[simp] theorem finish_now : (finish s).now = s.now := by rw [(finish_kept s).rest]
@[simp] theorem finish_freeIdx : (finish s).freeIdx = s.freeIdx := by rw [(finish_kept s).rest]
@[simp] theorem finish_pins : (finish s).pins = s.pins := by rw [(finish_kept s).rest]
@[simp] theorem finish_stations : (finish s).stations = s.stations := by rw [(finish_kept s).rest]
@[simp] theorem finish_feedback : (finish s).feedback = s.feedback := by rw [(finish_kept s).rest]
@[simp] theorem finish_sensors : (finish s).sensors = s.sensors := by rw [(finish_kept s).rest]
@[simp] theorem finish_ctl : (finish s).ctl = s.ctl := by rw [(finish_kept s).rest]
@[simp] theorem finish_brakes : (finish s).brakes = s.brakes := by rw [(finish_kept s).rest]
@[simp] theorem finish_tight : (finish s).tight = s.tight := by rw [(finish_kept s).rest]
@[simp] theorem finish_walk : (finish s).walk = s.walk := by rw [(finish_kept s).rest]
@[simp] theorem finish_alarm : (finish s).alarm = s.alarm := by rw [(finish_kept s).rest]
@[simp] theorem finish_analog : (finish s).analog = s.analog := by rw [(finish_kept s).rest]
@[simp] theorem finish_trip : (finish s).trip = s.trip := by rw [(finish_kept s).rest]
@[simp] theorem finish_heldTrips : (finish s).heldTrips = s.heldTrips := by rw [(finish_kept s).rest]
@[simp] theorem finish_updates : (finish s).updates = s.updates := by rw [(finish_kept s).rest]
@[simp] theorem finish_attrs : (finish s).attrs = s.attrs := by rw [(finish_kept s).rest]
@[simp] theorem finish_tester : (finish s).tester = s.tester := by rw [(finish_kept s).rest]
@[simp] theorem finish_tables : (finish s).tables = s.tables := by rw [(finish_kept s).rest]
@[simp] theorem finish_store : (finish s).store = s.store := by rw [(finish_kept s).rest]
@[simp] theorem finish_pending : (finish s).pending = s.pending := by rw [(finish_kept s).rest]
@[simp] theorem finish_own : (finish s).ring.own = s.ring.own := (finish_kept s).own
@[simp] theorem finish_fwd : (finish s).ring.fwd = s.ring.fwd := (finish_kept s).fwd
@[simp] theorem finish_reserved : (finish s).ring.reserved = s.ring.reserved := (finish_kept s).reserved
@[simp] theorem finish_counters : (finish s).ring.counters = s.ring.counters := (finish_kept s).counters
@[simp] theorem finish_snapshot : (finish s).ring.snapshot = s.ring.snapshot := (finish_kept s).snapshot
@[simp] theorem finish_silence : (finish s).ring.silence = s.ring.silence := (finish_kept s).silence
@[simp] theorem finish_counter (c : Counter) : (finish s).counter c = s.counter c := by simp [State.counter]

end

/-- A frame that finds room joins the tail of the forward queue with its life lowered by 1 (R12, R15). -/
theorem forward_fwd {f : Frame} {taken : List Byte} {s : State} (h : s.ring.fwd.length < 8) :
    (forward f taken s).ring.fwd = s.ring.fwd ++ [{ frame := { f with life := f.life - 1#4 }, taken := taken }] := by
  have h' : ¬ Config.forwardCap ≤ s.ring.fwd.length := by simp [Config.forwardCap]; omega
  unfold forward; rw [if_neg h']
  exact (chooseIfIdle_kept _).fwd

/-- A frame that finds the forward queue full is removed and counted, and nothing else (R12). -/
theorem forward_full {f : Frame} {taken : List Byte} {s : State} (h : 8 ≤ s.ring.fwd.length) :
    forward f taken s = bump .removedForwardFull s := by
  have h' : Config.forwardCap ≤ s.ring.fwd.length := h
  unfold forward; rw [if_pos h']

/-- OUT's choice touches the ring interface alone (R19). -/
theorem choose_rest (s : State) : choose s = { s with ring := (choose s).ring } := by
  unfold choose; dsimp only
  split
  · split <;> rfl
  · rfl
  · rfl

theorem chooseIfIdle_rest (s : State) : chooseIfIdle s = { s with ring := (chooseIfIdle s).ring } := by
  unfold chooseIfIdle; split
  · exact choose_rest s
  · rfl

/-- Forwarding touches the ring interface alone (R12). -/
theorem forward_rest (f : Frame) (taken : List Byte) (s : State) :
    forward f taken s = { s with ring := (forward f taken s).ring } := by
  unfold forward; split
  · rfl
  · rw [chooseIfIdle_rest]

/-- An entry that joins the insert queue is in it (R16). -/
theorem mem_insertEntry (e : InsEntry) : ∀ l, e ∈ insertEntry e l := by
  intro l
  induction l with
  | nil => simp [insertEntry]
  | cons x xs ih => unfold insertEntry; split <;> simp [ih]

/-- The entries already in the insert queue stay in it (R16). -/
theorem mem_insertEntry_of_mem {e x : InsEntry} : ∀ {l}, x ∈ l → x ∈ insertEntry e l := by
  intro l
  induction l with
  | nil => simp
  | cons y ys ih =>
    intro h
    unfold insertEntry; split
    · simp [h]
    · simp only [List.mem_cons] at h ⊢
      exact h.imp id ih

end Sys2Proof.Machine
end

