-- ==== Sys2Proof/Laws/Answers.lean ====
section
/-!
SUPPORT. Inserted frames stay: an entry that has joined the insert queue waits there or is being sent until a sending
completes, whatever joins and whatever notices are built (R16, R18, R19). What an answer leaves (R191).
-/

namespace Sys2Proof.Machine

section
variable {cls : InsClass} {dst : Byte} {kind : BitVec 4} {payload : List Byte} {s : State}

/-- OUT's choice while it is idle keeps an inserted frame (R19). -/
theorem choose_inserted (h : Inserted cls dst kind payload s) (hi : s.ring.sending = none) :
    Inserted cls dst kind payload (choose s) := by
  have ho : (choose s).ownByte = s.ownByte := by
    have := (choose_kept s).own
    simp [State.ownByte, this]
  rcases h with ⟨e, he, h1, h2, h3, h4, h5⟩ | ⟨f, hf, _⟩
  · unfold Inserted
    rw [ho]
    unfold choose; dsimp only
    split
    · rename_i hins
      split
      · rw [hins, List.mem_cons] at he
        rcases he with rfl | he
        · exact .inr ⟨e.toFrame s.ring.insSeq, by simp [h1], h2, h3, h4, h5⟩
        · exact .inl ⟨e, he, h1, h2, h3, h4, h5⟩
      · exact .inl ⟨e, he, h1, h2, h3, h4, h5⟩
    · rename_i hins _; rw [hins] at he; simp at he
    · rename_i hins _; rw [hins] at he; simp at he
  · rw [hi] at hf; simp at hf

/-- A choice made only while OUT is idle keeps an inserted frame (R19). -/
theorem chooseIfIdle_inserted (h : Inserted cls dst kind payload s) : Inserted cls dst kind payload (chooseIfIdle s) := by
  unfold chooseIfIdle; split
  · rename_i hi; exact choose_inserted h (Option.isNone_iff_eq_none.mp hi)
  · exact h

/-- An entry that joins keeps an inserted frame (R16). -/
theorem joinInsert_inserted (e : InsEntry) (h : Inserted cls dst kind payload s) :
    Inserted cls dst kind payload (joinInsert e s) := by
  refine chooseIfIdle_inserted ?_
  rcases h with ⟨e', he, h1⟩ | h
  · exact .inl ⟨e', mem_insertEntry_of_mem he, h1⟩
  · exact .inr h

/-- An entry built by the M4 that joins is an inserted frame (R16, R20). -/
theorem joinInsert_self {e : InsEntry} (he : e.src = s.ownByte) :
    Inserted e.cls e.dst e.kind e.payload (joinInsert e s) :=
  chooseIfIdle_inserted (.inl ⟨e, mem_insertEntry e _, rfl, rfl, he, rfl, rfl⟩)

theorem buildStatus_inserted (h : Inserted cls dst kind payload s) : Inserted cls dst kind payload (buildStatus s) :=
  joinInsert_inserted _ h

theorem buildAlarm_inserted (p : Fin 48) (h : Inserted cls dst kind payload s) :
    Inserted cls dst kind payload (buildAlarm p s) :=
  joinInsert_inserted _ h

theorem buildNotices_inserted (n : Nat) : ∀ s, Inserted cls dst kind payload s →
    Inserted cls dst kind payload (buildNotices n s) := by
  induction n with
  | zero => exact fun _ h => h
  | succ n ih =>
    intro s h
    refine ih _ ?_
    unfold buildOne
    repeat' split
    all_goals first | exact h | exact buildStatus_inserted h | exact buildAlarm_inserted _ h

/-- The end of a command keeps an inserted frame (R18). -/
theorem finish_inserted (h : Inserted cls dst kind payload s) : Inserted cls dst kind payload (finish s) :=
  buildNotices_inserted 16 s h

end

/-- An answer is an inserted frame of class RESPONSE (R16, R191). -/
theorem answered_of_inserted {rq : Requester} {st : Status} {results : List Byte} {t : State} {b : Bool}
    (h : Inserted (.response b) rq.dst 6#4 (rq.code :: rq.tagHi :: rq.tagLo :: byte st.code :: results) t) :
    Answered rq st results t := by
  rcases h with ⟨e, he, h1, h2, h3, h4, h5⟩ | ⟨f, hf, h2, h3, h4, h5⟩
  · exact .inl ⟨e, he, ⟨b, h1⟩, h2, h3, h4, h5⟩
  · exact .inr ⟨b, f, hf, h2, h3, h4, h5⟩

/-- An answer, at the end of its command, has been made (R191). -/
theorem finish_answer (rq : Requester) (st : Status) (results : List Byte) (r : Bool) (s : State) :
    Answered rq st results (finish (answer rq st results r s)) :=
  answered_of_inserted (b := r) (finish_inserted (joinInsert_self (s := { s with ring := _ }) rfl))

/-- An answer touches the ring interface alone (R191). -/
theorem answer_rest (rq : Requester) (st : Status) (results : List Byte) (r : Bool) (s : State) :
    answer rq st results r s = { s with ring := (answer rq st results r s).ring } := by
  unfold answer joinInsert
  rw [chooseIfIdle_rest]

/-- An answered command that did nothing else touches the ring interface and the notice marks alone. -/
theorem finish_answer_onlyRing (rq : Requester) (st : Status) (results : List Byte) (r : Bool) (s : State) :
    OnlyRing s (finish (answer rq st results r s)) := by
  have h := finish_onlyRing (answer rq st results r s)
  unfold OnlyRing at h ⊢
  rw [h, answer_rest]

end Sys2Proof.Machine
end

