-- ==== Sys2Proof/Laws/Channels.lean ====
section
/-!
SUPPORT. The brake channels: the tests of chapter 3 as the conditions the manual words, and one lemma for each step of a
channel that says what it leaves of the channel's record and that it leaves all else.
-/

namespace Sys2Proof.Machine

/-! The tests. -/

theorem inBand_iff (s : State) (c : Chan) (x : Axis) : s.inBand c (s.feedback.get x).speed = true ↔ Standstill s c x := by
  simp [State.inBand, Standstill]

theorem moving_iff (s : State) (c : Chan) : s.moving c = true ↔ ∃ x ∈ axesOf c, ¬Standstill s c x := by
  simp [State.moving, ← inBand_iff]

theorem barred_iff (s : State) (c : Chan) : s.barred c = true ↔ Barred s c := by
  unfold State.barred Barred State.matrix
  simp only [allChans, List.any_cons, List.any_nil, Bool.or_false, Bool.or_eq_true, Bool.and_eq_true, bne_iff_ne,
    Option.isNone_iff_eq_none, and_assoc]
  constructor
  · rintro (h | h | h | h)
    exacts [⟨_, h⟩, ⟨_, h⟩, ⟨_, h⟩, ⟨_, h⟩]
  · rintro ⟨i, h⟩
    cases i
    exacts [.inl h, .inr (.inl h), .inr (.inr (.inl h)), .inr (.inr (.inr h))]

theorem request_hold_iff (s : State) (c : Chan) : s.request c = .hold ↔ HoldStands s c := by
  unfold State.request HoldStands
  cases s.held c <;> simp

theorem contradicts_iff (s : State) (x : Axis) :
    s.contradicts (chanOf x) (s.feedback.get x) = true ↔ Contradicts s x := by
  unfold State.contradicts Contradicts
  simp [← inBand_iff, or_assoc]

theorem quiet_iff (s : State) (c : Chan) : s.quiet c = true ↔ Quiet s c (s.brakes.get c) := by
  unfold State.quiet Quiet
  simp [← inBand_iff, and_assoc]

/-! The steps. -/

/-- Nothing differs but one channel's record and the Status Notice's mark. -/
structure OnlyChan (c : Chan) (s t : State) : Prop where
  frame : t = { s with brakes := t.brakes, statusOwed := t.statusOwed }
  others : ∀ d, d ≠ c → t.brakes.get d = s.brakes.get d

theorem OnlyChan.refl (c : Chan) (s : State) : OnlyChan c s s := ⟨rfl, fun _ _ => rfl⟩

theorem OnlyChan.trans {a b d : State} {c : Chan} (h : OnlyChan c a b) (k : OnlyChan c b d) : OnlyChan c a d :=
  ⟨by rw [k.frame, h.frame], fun e he => (k.others e he).trans (h.others e he)⟩

theorem setChan_only (c : Chan) (ch : Channel) (s : State) : OnlyChan c s (s.setChan c ch) :=
  ⟨rfl, fun _ h => PerChan.get_set_ne _ _ h.symm⟩

theorem setChan_get (s : State) (c : Chan) (ch : Channel) : (s.setChan c ch).brakes.get c = ch :=
  PerChan.get_set_same ..

/-- Entering SETTING (R57). -/
theorem enterSetting_enters (c : Chan) (reported : Option Axis) (s : State) (m : Pair Bool)
    (hm : m = match reported with
      | some x => Pair.set ⟨false, false⟩ x (s.inBand c (s.feedback.get x).speed)
      | none => ⟨false, false⟩) :
    EntersSetting s c m (s.brakes.get c) ((enterSetting c reported s).brakes.get c) := by
  subst hm
  unfold EntersSetting enterSetting
  rw [setChan_get, moving_iff]
  exact ⟨rfl, Iff.rfl⟩

theorem enterSetting_only (c : Chan) (reported : Option Axis) (s : State) : OnlyChan c s (enterSetting c reported s) :=
  setChan_only ..

/-- Beginning to set (R54). -/
theorem beginToSet_begins (c : Chan) (s : State) : BeginsToSet s c (s.brakes.get c) ((beginToSet c s).brakes.get c) := by
  unfold BeginsToSet beginToSet
  dsimp only
  constructor
  · intro h
    rw [if_pos h]
    exact enterSetting_enters c none s _ rfl
  · intro h
    rw [if_neg (by omega), setChan_get]

theorem beginToSet_only (c : Chan) (s : State) : OnlyChan c s (beginToSet c s) := by
  unfold beginToSet
  dsimp only
  split
  · exact enterSetting_only ..
  · exact setChan_only ..

/-- The set request of a drive going STALE (R64). -/
theorem staleSet_stale (c : Chan) (s : State) : StaleSet s c (s.brakes.get c) ((staleSet c s).brakes.get c) := by
  unfold StaleSet staleSet
  cases h : (s.brakes.get c).state
  all_goals simp
  · unfold returnToSet
    rw [setChan_get]
  · exact enterSetting_enters c none s _ rfl
  · exact beginToSet_begins c s

theorem staleSet_only (c : Chan) (s : State) : OnlyChan c s (staleSet c s) := by
  unfold staleSet
  split
  all_goals first | exact .refl .. | exact setChan_only .. | exact enterSetting_only .. | exact beginToSet_only ..

/-- The test of quietness (R56). -/
theorem quietTest_tested (c : Chan) (s : State) : QuietTested s c (s.brakes.get c) ((quietTest c s).brakes.get c) := by
  unfold QuietTested quietTest
  rw [← quiet_iff]
  dsimp only
  refine ⟨fun h => ?_, fun h k => ?_, fun h k => ⟨fun d => ?_, fun d => ?_⟩⟩
  · rw [if_neg h, setChan_get]
  · rw [if_pos h]
    split
    · rfl
    · contradiction
  · rw [if_pos h, k]
    dsimp only
    rw [if_neg d, setChan_get]
  · rw [if_pos h, k]
    dsimp only
    rw [if_pos d]
    exact beginToSet_begins c s

theorem quietTest_only (c : Chan) (s : State) : OnlyChan c s (quietTest c s) := by
  unfold quietTest
  dsimp only
  repeat' split
  all_goals first | exact .refl .. | exact setChan_only .. | exact beginToSet_only ..

/-- The test of quietness reads the clock, the feedback records and the tables alone. -/
theorem QuietTested.of_eq {s t : State} {c : Chan} {ch ch' : Channel} (h : QuietTested t c ch ch')
    (hf : t.feedback = s.feedback) (ht : t.tables = s.tables) (hn : t.now = s.now) : QuietTested s c ch ch' := by
  unfold QuietTested BeginsToSet EntersSetting Quiet Standstill at *
  simp only [State.act, hf, ht, hn] at *
  exact h

/-- A channel that is not RELEASED runs no autoset timer after the test (R56). -/
theorem QuietTested.of_not_released {s : State} {c : Chan} {ch ch' : Channel} (h : QuietTested s c ch ch')
    (k : ch.state ≠ .released) : ch' = { ch with tAutoset := none } :=
  h.1 fun q => k q.1

end Sys2Proof.Machine
end

