-- ==== Sys2Proof/Laws/Conditions.lean ====
section
/-!
SUPPORT. The conditions of RESET_TRIP and of the start as the manual words them (R33, R35, R154, R156, R168).
-/

namespace Sys2Proof.Machine

theorem active_iff (s : State) (p : Fin 48) : (s.alarm.points[p]).state.active = true ↔ PointStands s p := by
  unfold PointStands
  cases (s.alarm.points[p]).state <;> simp [PState.active]

theorem tripPointActive_iff (s : State) : s.tripPointActive = true ↔ TripPointStands s := by
  simp [State.tripPointActive, TripPointStands, ← active_iff]

theorem directHold_iff (s : State) : s.directHold = true ↔ ∃ ch : Fin 4, (s.act.analog[ch]).limitOn = true
    ∧ ((s.analog[ch]).ready = false ∨ 1 ≤ (s.analog[ch]).beyond) := by
  simp [State.directHold]

theorem allSet_iff (s : State) : s.allSet = true ↔ ¬BrakeNotSet s := by
  unfold State.allSet BrakeNotSet
  simp only [List.all_eq_true, beq_iff_eq, ne_eq, not_exists, not_not]
  exact ⟨fun h c => h c (by cases c <;> simp [allChans]), fun h c _ => h c⟩

theorem tripHold_iff (u : State) : (u.tripHold = true ↔ u.tables.valid = true ∧ u.act.options.tripHold = true) := by
  simp [State.tripHold]

end Sys2Proof.Machine
end

