-- ==== Sys2Proof/Laws/Trips.lean ====
section
/-!
SUPPORT. What a source update, a trip event and a change of mode leave as it is: everything but the mode record, the
brake channels, the tightline, walk and tester records, the alarm unit, the trip unit, the notice marks and the insert
queue.
-/

namespace Sys2Proof.Machine

/-- The parts of the state that no source update, trip event or change of mode touches. -/
structure TripKept (s t : State) : Prop where
  now : t.now = s.now
  freeIdx : t.freeIdx = s.freeIdx
  pins : t.pins = s.pins
  stations : t.stations = s.stations
  feedback : t.feedback = s.feedback
  sensors : t.sensors = s.sensors
  analog : t.analog = s.analog
  attrs : t.attrs = s.attrs
  tables : t.tables = s.tables
  store : t.store = s.store
  pending : t.pending = s.pending
  ring : { t.ring with ins := [] } = { s.ring with ins := [] }

theorem TripKept.refl (s : State) : TripKept s s := by constructor <;> rfl

theorem TripKept.trans {a b c : State} (h : TripKept a b) (k : TripKept b c) : TripKept a c where
  now := k.now.trans h.now
  freeIdx := k.freeIdx.trans h.freeIdx
  pins := k.pins.trans h.pins
  stations := k.stations.trans h.stations
  feedback := k.feedback.trans h.feedback
  sensors := k.sensors.trans h.sensors
  analog := k.analog.trans h.analog
  attrs := k.attrs.trans h.attrs
  tables := k.tables.trans h.tables
  store := k.store.trans h.store
  pending := k.pending.trans h.pending
  ring := k.ring.trans h.ring

section
variable {s t : State} (h : TripKept s t)
include h

theorem TripKept.own : t.ring.own = s.ring.own := by have k := congrArg Ring.own h.ring; exact k
theorem TripKept.fwd : t.ring.fwd = s.ring.fwd := by have k := congrArg Ring.fwd h.ring; exact k
theorem TripKept.reserved : t.ring.reserved = s.ring.reserved := by have k := congrArg Ring.reserved h.ring; exact k
theorem TripKept.sending : t.ring.sending = s.ring.sending := by have k := congrArg Ring.sending h.ring; exact k
theorem TripKept.counters : t.ring.counters = s.ring.counters := by
  have k := congrArg Ring.counters h.ring; exact k
theorem TripKept.silence : t.ring.silence = s.ring.silence := by have k := congrArg Ring.silence h.ring; exact k
theorem TripKept.counter (c : Counter) : t.counter c = s.counter c := by unfold State.counter; rw [h.counters]

end

/-- A fold of operations that keep these parts keeps them. -/
theorem TripKept.foldl {β : Type} {f : State → β → State} (h : ∀ s b, TripKept s (f s b)) (l : List β) :
    ∀ s, TripKept s (l.foldl f s) := by
  induction l with
  | nil => exact fun s => .refl s
  | cons b l ih => exact fun s => (h s b).trans (ih _)

theorem setPoint_kept (p : Fin 48) (st : PState) (m : Bool) (t : Option Nat) (s : State) :
    TripKept s (setPoint p st m t s) := by
  unfold setPoint; dsimp only; split
  · exact .refl s
  · constructor <;> rfl

theorem activatePoint_kept (trig : Option (List Byte)) (p : Fin 48) (s : State) :
    TripKept s (activatePoint trig p s) := by
  unfold activatePoint; dsimp only; split
  · refine (setPoint_kept p .activeUnack false none s).trans ?_
    constructor <;> rfl
  · exact setPoint_kept p .activeUnack false none s

theorem evalPoint_kept (trig : Option (List Byte)) (p : Fin 48) (s : State) : TripKept s (evalPoint trig p s) := by
  unfold evalPoint; dsimp only
  repeat' split
  all_goals first | exact .refl s | exact setPoint_kept .. | exact activatePoint_kept ..

theorem setSource_kept (code : Nat) (v : Int) (ok : Bool) (s : State) : TripKept s (s.setSource code v ok) := by
  constructor <;> rfl

theorem feedHeld_kept (code : Nat) (v : Int) (ok : Bool) (trig : Option (List Byte)) (s : State) :
    TripKept s (feedHeld code v ok trig s) := by
  unfold feedHeld; split
  · constructor <;> rfl
  · exact (setSource_kept code v ok s).trans (TripKept.foldl (fun s p => evalPoint_kept trig p s) _ _)

theorem rearmPoint_kept (p : Fin 48) (s : State) : TripKept s (rearmPoint p s) := by
  unfold rearmPoint; dsimp only
  repeat' split
  all_goals first | exact .refl s | exact setPoint_kept ..

theorem rearmPoints_kept (s : State) : TripKept s (rearmPoints s) :=
  TripKept.foldl (fun s p => rearmPoint_kept p s) _ s

theorem enterWalking_kept (s : State) : TripKept s (enterWalking s) := by
  unfold enterWalking; dsimp only
  have key : ∀ a : State, TripKept s a → TripKept s
      (match a.walk.skew with
        | some k =>
          if a.act.walk.tripLimit < k then
            { a with heldTrips := a.heldTrips ++ [{ cause := .skew, action := .both, frame := none }] }
          else a
        | none => a) := by
    intro a h
    repeat' split
    all_goals first | exact h | (refine h.trans ?_; constructor <;> rfl)
  apply key
  split
  · refine TripKept.trans ?_ (feedHeld_kept ..)
    constructor <;> rfl
  · constructor <;> rfl

theorem walkModeChange_kept (old new : Mode) (s : State) : TripKept s (walkModeChange old new s) := by
  unfold walkModeChange; dsimp only
  have h : TripKept s
      (if old = .walkPrep then { s with walk := { s.walk with tConfirm := none, tTimeout := none } } else s) := by
    split <;> constructor <;> rfl
  generalize (if old = .walkPrep then { s with walk := { s.walk with tConfirm := none, tTimeout := none } } else s)
    = a at h ⊢
  have k : TripKept s (if old = .walking then { a with walk := { a.walk with stepMark := none } } else a) := by
    refine h.trans ?_
    split <;> constructor <;> rfl
  generalize (if old = .walking then { a with walk := { a.walk with stepMark := none } } else a) = b at k ⊢
  split
  · refine k.trans ?_
    constructor <;> rfl
  · exact k.trans (enterWalking_kept b)
  · exact k

theorem tightModeChange_kept (old : Mode) (s : State) : TripKept s (tightModeChange old s) := by
  unfold tightModeChange
  split
  · refine TripKept.trans ?_ (feedHeld_kept ..)
    constructor <;> rfl
  · exact .refl s

theorem startPark_kept (s : State) : TripKept s (startPark s) := by constructor <;> rfl

/-- What the steps of a mode change leave (R31). -/
theorem modeSteps_kept (new : Mode) (s : State) : TripKept s (modeSteps new s) := by
  unfold modeSteps; dsimp only
  generalize ha : ({ s with ctl := { s.ctl with
        mode := new, entryTime := s.now, slot := none, hold := .none,
        reason := if s.mode = .init then .none else s.ctl.reason,
        parkTimer := if s.mode = .dig then none else s.ctl.parkTimer } } : State) = a
  have hA : TripKept s a := by subst ha; constructor <;> rfl
  have hB : TripKept s (if new = .dig then startPark a else a) := by
    split
    · exact hA.trans (startPark_kept a)
    · exact hA
  generalize (if new = .dig then startPark a else a) = b at hB ⊢
  have hC := ((hB.trans (rearmPoints_kept b)).trans (walkModeChange_kept s.mode new _)).trans
    (tightModeChange_kept s.mode _)
  generalize tightModeChange s.mode (walkModeChange s.mode new (rearmPoints b)) = c at hC ⊢
  refine hC.trans ?_
  split <;> constructor <;> rfl

theorem setChan_kept (c : Chan) (ch : Channel) (s : State) : TripKept s (s.setChan c ch) := by constructor <;> rfl

theorem returnToSet_kept (c : Chan) (s : State) : TripKept s (returnToSet c s) := setChan_kept ..
theorem enterSetting_kept (c : Chan) (x : Option Axis) (s : State) : TripKept s (enterSetting c x s) :=
  setChan_kept ..

theorem beginToSet_kept (c : Chan) (s : State) : TripKept s (beginToSet c s) := by
  unfold beginToSet; dsimp only; split
  · exact enterSetting_kept ..
  · exact setChan_kept ..

theorem tripChannel_kept (c : Chan) (s : State) : TripKept s (tripChannel c s) := by
  unfold tripChannel; split
  all_goals first | exact .refl s | exact returnToSet_kept .. | exact enterSetting_kept ..

theorem tripSetAll_kept (s : State) : TripKept s (tripSetAll s) :=
  TripKept.foldl (fun s c => tripChannel_kept c s) _ s

theorem parkChannel_kept (c : Chan) (s : State) : TripKept s (parkChannel c s) := by
  unfold parkChannel; split
  all_goals first | exact .refl s | exact returnToSet_kept .. | exact beginToSet_kept ..

theorem parkingSetAll_kept (s : State) : TripKept s (parkingSetAll s) :=
  TripKept.foldl (fun s c => parkChannel_kept c s) _ s

theorem staleSet_kept (c : Chan) (s : State) : TripKept s (staleSet c s) := by
  unfold staleSet; split
  all_goals first
    | exact .refl s | exact returnToSet_kept .. | exact enterSetting_kept .. | exact beginToSet_kept ..

theorem endRecord_kept (st : TestStatus) (c : Option Chan) (s : State) : TripKept s (endRecord st c s) := by
  constructor <;> rfl

theorem withdrawTest_kept (s : State) : TripKept s (withdrawTest s) := by constructor <;> rfl

theorem deEnergise_kept (a : TripAction) (s : State) : TripKept s (deEnergise a s) := by constructor <;> rfl

theorem appendRecord_kept (r : TripRecord) (s : State) : TripKept s (appendRecord r s) := by
  unfold appendRecord; dsimp only
  repeat' split
  all_goals first
    | (refine TripKept.trans ?_ (feedHeld_kept ..); constructor <;> rfl)
    | (constructor <;> rfl)

theorem firstTrip_kept (t : TripIn) (s : State) : TripKept s (firstTrip t s) := by
  unfold firstTrip; dsimp only
  have h := ((modeSteps_kept .tripped s).trans (deEnergise_kept t.action _)).trans (tripSetAll_kept _)
  generalize tripSetAll (deEnergise t.action (modeSteps .tripped s)) = a at h ⊢
  refine TripKept.trans ?_ (appendRecord_kept ..)
  split
  · exact (h.trans (endRecord_kept ..)).trans (withdrawTest_kept _)
  · exact h

theorem repeatTrip_kept (t : TripIn) (s : State) : TripKept s (repeatTrip t s) :=
  (deEnergise_kept t.action s).trans (appendRecord_kept ..)

theorem takeTrip_kept (t : TripIn) (s : State) : TripKept s (takeTrip t s) := by
  unfold takeTrip; split
  · exact repeatTrip_kept t s
  · exact firstTrip_kept t s

theorem drainTrips_kept (n : Nat) : ∀ s, TripKept s (drainTrips n s) := by
  induction n with
  | zero => intro s; constructor <;> rfl
  | succ n ih =>
    intro s
    unfold drainTrips
    split
    · exact .refl s
    · rename_i t ts _
      have h : TripKept s { s with heldTrips := ts } := by constructor <;> rfl
      exact (h.trans (takeTrip_kept t _)).trans (ih _)

/-- What taking the held trips leaves (R155 to R159). -/
theorem drain_kept (s : State) : TripKept s (drain s) := drainTrips_kept 256 s

/-- What handing a trip leaves (R155). -/
theorem handTrip_kept (t : TripIn) (s : State) : TripKept s (handTrip t s) := by
  refine TripKept.trans ?_ (drain_kept _)
  constructor <;> rfl

/-- With no point on a source its update evaluates none. -/
theorem updatePoints_nil {code : Nat} {s : State} (h : s.pointsOn code = []) : s.updatePoints code = [] := by
  unfold State.updatePoints; rw [h]; rfl

theorem takeUpdate_kept (u : Update) (s : State) : TripKept s (takeUpdate u s) :=
  (setSource_kept u.code u.value u.valid s).trans
    (TripKept.foldl (fun s p => (evalPoint_kept u.trig p s).trans (drain_kept _)) _ _)

theorem takeUpdates_kept (n : Nat) : ∀ s, TripKept s (takeUpdates n s) := by
  induction n with
  | zero => exact fun s => .refl s
  | succ n ih =>
    intro s
    unfold takeUpdates
    split
    · rename_i u us _
      have h : TripKept s { s with updates := some us } := by constructor <;> rfl
      exact (h.trans (takeUpdate_kept u _)).trans (ih _)
    · exact .refl s

/-- What source updates handed together leave (R123, R138). -/
theorem feedAll_kept (us : List Update) (s : State) : TripKept s (feedAll us s) := by
  have h : TripKept s { s with updates := some us } := by constructor <;> rfl
  refine (h.trans (takeUpdates_kept 256 _)).trans ?_
  constructor <;> rfl

/-- No update waits after a source update that did not wait before it (R123). -/
@[simp] theorem feedAll_updates (us : List Update) (s : State) : (feedAll us s).updates = s.updates := rfl
@[simp] theorem feed_updates (code : Nat) (v : Int) (ok : Bool) (trig : Option (List Byte)) (s : State) :
    (feed code v ok trig s).updates = s.updates := rfl

/-- With no point on a source its update writes its record alone (R123). -/
theorem feed_unwatched {code : Nat} (v : Int) (ok : Bool) (trig : Option (List Byte)) {s : State}
    (h : s.pointsOn code = []) : feed code v ok trig s = s.setSource code v ok := by
  have h' : State.updatePoints { s with updates := some [] } code = [] := updatePoints_nil h
  unfold feed feedAll takeUpdates
  dsimp only
  unfold takeUpdate
  dsimp only
  rw [h']
  rfl

/-- With no updates to hand nothing changes. -/
@[simp] theorem feedAll_nil (s : State) : feedAll [] s = s := rfl

/-- What a source update leaves, the trips it raises included (R123, R138). -/
theorem feed_kept (code : Nat) (v : Int) (ok : Bool) (trig : Option (List Byte)) (s : State) :
    TripKept s (feed code v ok trig s) :=
  feedAll_kept _ s

/-- What a change of mode leaves (R31). -/
theorem changeMode_kept (new : Mode) (s : State) : TripKept s (changeMode new s) :=
  (modeSteps_kept new s).trans (drain_kept _)

/-- No trip stays held once the trips have been taken. -/
theorem drainTrips_held (n : Nat) : ∀ s, (drainTrips n s).heldTrips = [] := by
  induction n with
  | zero => intro s; rfl
  | succ n ih =>
    intro s
    unfold drainTrips
    split
    · assumption
    · exact ih _

/-- No trip stays held after the trips have been taken (R159). -/
@[simp] theorem drain_held (s : State) : (drain s).heldTrips = [] := drainTrips_held 256 s

/-- With no trip held there is nothing to take. -/
theorem drain_none {s : State} (h : s.heldTrips = []) : drain s = s := by
  unfold drain drainTrips; rw [h]

end Sys2Proof.Machine
end

