-- ==== Sys2Proof/Laws/Sessions.lean ====
section
/-!
SUPPORT. Walk preparation and the end of a brake test: the conditions of R116 as the manual words them, and what the change
from TESTING to PARKED and the end of a running test leave.
-/

namespace Sys2Proof.Machine

/-- The boom angle's condition (R116). -/
theorem boomOk_iff (s : State) : s.boomOk = true ↔ ∃ v : Sensor, s.sensors[s.act.walk.boomChannel]? = some v
    ∧ v.valid = true ∧ s.act.walk.boomMin ≤ v.value ∧ v.value ≤ s.act.walk.boomMax := by
  unfold State.boomOk State.sensorValue
  cases s.sensors[s.act.walk.boomChannel]? with
  | none => simp
  | some v => cases h : v.valid <;> simp [h]

/-- The tub inclination's condition (R116). -/
theorem tubOk_iff (s : State) : s.tubOk = true ↔ ∃ v : Sensor, s.sensors[s.act.walk.inclChannel]? = some v
    ∧ v.valid = true ∧ v.value.natAbs ≤ s.act.walk.inclLimit := by
  unfold State.tubOk State.sensorValue
  cases s.sensors[s.act.walk.inclChannel]? with
  | none => simp
  | some v => cases h : v.valid <;> simp [h]

/-- The walk-preparation conditions as R116 words them. -/
theorem prepHolds_iff (s : State) : s.prepHolds = true ↔ PrepReady s := by
  have hc : ∀ q : Axis → Prop, (∀ x, isCam x = true → q x) ↔ q .walkLeft ∧ q .walkRight := by
    intro q
    constructor
    · intro h; exact ⟨h _ rfl, h _ rfl⟩
    · rintro ⟨a, b⟩ x hx; cases x <;> first | exact a | exact b | cases hx
  unfold State.prepHolds PrepReady
  rw [hc, ← boomOk_iff, ← tubOk_iff]
  unfold State.bucketGrounded State.headingPass State.camReady separation
  simp only [Bool.and_eq_true, decide_eq_true_eq, beq_iff_eq, and_assoc, min_le_iff]

/-- Arming and disarming at a change of mode changes the points' records and the notice marks alone (R135). -/
theorem rearmPoints_rest (s : State) :
    rearmPoints s = { s with alarm := (rearmPoints s).alarm, owed := (rearmPoints s).owed
                             statusOwed := (rearmPoints s).statusOwed } := by
  have one : ∀ s p, rearmPoint p s = { s with alarm := (rearmPoint p s).alarm, owed := (rearmPoint p s).owed
                                              statusOwed := (rearmPoint p s).statusOwed } := by
    intro s p
    have sp : ∀ st, setPoint p st false none s = { s with alarm := (setPoint p st false none s).alarm
                                                          owed := (setPoint p st false none s).owed
                                                          statusOwed := (setPoint p st false none s).statusOwed } := by
      intro st
      unfold setPoint
      dsimp only
      split <;> rfl
    unfold rearmPoint
    dsimp only
    repeat' split
    all_goals first | rfl | exact sp _
  unfold rearmPoints
  generalize List.finRange 48 = l
  induction l generalizing s with
  | nil => rfl
  | cons p l ih =>
    rw [List.foldl_cons]
    have h1 := ih (rearmPoint p s)
    have h2 := one s p
    rw [h1, h2]

/-- The change from TESTING to PARKED, while no trip is held, changes the mode record, the points and the notice marks
alone (R31, R43). -/
theorem parked_from_testing {s t : State} (h : s.mode = .testing) (k : s.heldTrips = []) (e : t = changeMode .parked s) :
    t.mode = .parked ∧ t = { s with ctl := t.ctl, alarm := t.alarm, owed := t.owed, statusOwed := t.statusOwed } := by
  have hm : s.ctl.mode = .testing := h
  have m : modeSteps .parked s = oweStatus (rearmPoints { s with ctl := { s.ctl with
        mode := .parked, entryTime := s.now, slot := none, hold := .none } }) := by
    unfold modeSteps State.mode walkModeChange tightModeChange
    simp [hm]
  have r := rearmPoints_rest { s with ctl := { s.ctl with
        mode := .parked, entryTime := s.now, slot := none, hold := .none } }
  have q : (rearmPoints { s with ctl := { s.ctl with
        mode := .parked, entryTime := s.now, slot := none, hold := .none } }).heldTrips = [] :=
    (congrArg State.heldTrips r).trans k
  subst e
  unfold changeMode
  rw [m]
  generalize rearmPoints _ = a at r q ⊢
  rw [drain_none (by exact q)]
  refine ⟨?_, ?_⟩
  · show a.ctl.mode = _; rw [r]
  · unfold oweStatus; rw [r]

/-- What the end of a running test leaves (R189, R190, R43). -/
theorem endTest_ended (st : TestStatus) (failing : Option Chan) {s t : State} (h : s.mode = .testing)
    (k : s.heldTrips = []) (e : t = endTest st failing s) :
    (∃ rs, EndResults s rs ∧ TestEnded s t st failing rs)
      ∧ t = { s with tester := t.tester, ctl := t.ctl, alarm := t.alarm, owed := t.owed
                     statusOwed := t.statusOwed } := by
  have h' : (endRecord st failing s).mode = .testing := h
  have hp := parked_from_testing h' k (e := rfl)
  unfold endTest at e
  dsimp only at e
  rw [if_pos h'] at e
  rw [← e] at hp
  obtain ⟨p1, p2⟩ := hp
  have pt : t.tester = (endRecord st failing s).tester := by rw [p2]
  refine ⟨⟨(endRecord st failing s).tester.results, ?_, ?_⟩, ?_⟩
  · unfold EndResults endRecord writeLog
    constructor
    · intro c hc hn
      simp [hc, hn, oweStatus]
    · intro hc
      rcases hc with hc | hc <;> simp [hc, oweStatus]
  · unfold TestEnded TestStopped
    rw [pt]
    refine ⟨p1, ?_⟩
    unfold endRecord writeLog oweStatus
    simp
    intro n hn
    simp [hn]
  · rw [p2]
    unfold endRecord oweStatus
    rfl

end Sys2Proof.Machine
end

