-- ==== Sys2Proof/Laws/Rearm.lean ====
section
/-!
SUPPORT. Alarm points at a change of mode (R135): what the arming and disarming of all points leaves of each, and what the
steps of a change of mode leave of them.
-/

namespace Sys2Proof.Machine

/-- What arming and disarming touches: the points' records, the active list and the notice marks. -/
def Points (s t : State) : Prop :=
  t = { s with alarm := { s.alarm with points := t.alarm.points, list := t.alarm.list }, owed := t.owed
               statusOwed := t.statusOwed }

theorem Points.refl (s : State) : Points s s := rfl

theorem Points.trans {a b c : State} (h : Points a b) (k : Points b c) : Points a c := by
  unfold Points at *
  rw [k, h]

theorem setPoint_points (p : Fin 48) (st : PState) (m : Bool) (timer : Option Nat) (s : State) :
    Points s (setPoint p st m timer s) := by
  unfold Points setPoint
  dsimp only
  split <;> rfl

theorem rearmPoint_points (p : Fin 48) (s : State) : Points s (rearmPoint p s) := by
  unfold rearmPoint
  dsimp only
  repeat' split
  all_goals first | exact .refl s | exact setPoint_points ..

theorem setPoint_ne {p q : Fin 48} (h : q ≠ p) (st : PState) (m : Bool) (timer : Option Nat) (s : State) :
    (setPoint p st m timer s).alarm.points[q] = s.alarm.points[q]
      ∧ (setPoint p st m timer s).owed[q] = s.owed[q] := by
  have hv : p.val ≠ q.val := fun e => h (Fin.ext e.symm)
  unfold setPoint
  dsimp only
  split
  · exact ⟨rfl, rfl⟩
  · simp [Vector.getElem_set_ne, hv]

theorem rearmPoint_ne {p q : Fin 48} (h : q ≠ p) (s : State) :
    (rearmPoint p s).alarm.points[q] = s.alarm.points[q] ∧ (rearmPoint p s).owed[q] = s.owed[q] := by
  unfold rearmPoint
  dsimp only
  repeat' split
  all_goals first | exact ⟨rfl, rfl⟩ | exact setPoint_ne h ..

/-- The state a point takes when it is armed or disarmed, with its record (R129, R135). -/
theorem setPoint_quiet {p : Fin 48} {st : PState} {s : State} (h : st ≠ (s.alarm.points[p]).state)
    (k : st.listed = false) (hd : st ≠ .delaying) (hs : st ≠ .shelved) (he : (s.act.points[p]).enabled = true) :
    (setPoint p st false none s).alarm.points[p] =
        { state := st, mark := false, tDelay := none, tShelf := none, since := none
          chValue := (s.source (s.act.points[p]).source).value
          chValid := (s.source (s.act.points[p]).source).valid, chTime := s.now }
      ∧ (setPoint p st false none s).owed[p] = true
      ∧ (setPoint p st false none s).alarm.list = s.alarm.list.filter (fun q => q != p) := by
  unfold setPoint State.changeSource
  dsimp only
  rw [if_neg (fun e => h e.1), if_pos he]
  simp [k, hd, hs]

/-- Whether a mode change moves a point, and to which state (R135). -/
def rearmTo (s : State) (p : Fin 48) : Option PState :=
  if (s.act.points[p]).enabled then
    match (s.alarm.points[p]).state, s.armed p with
    | .normal, false => some .disarmed
    | .delaying, false => some .disarmed
    | .disarmed, true => some .normal
    | _, _ => none
  else none

theorem rearmPoint_eq (p : Fin 48) (s : State) :
    rearmPoint p s = match rearmTo s p with
      | some st => setPoint p st false none s
      | none => s := by
  unfold rearmPoint rearmTo
  dsimp only
  cases (s.act.points[p]).enabled
  · simp
  · cases (s.alarm.points[p]).state <;> cases s.armed p <;> rfl

theorem rearmTo_some {s : State} {p : Fin 48} {st : PState} (h : rearmTo s p = some st) :
    (s.act.points[p]).enabled = true ∧ st ≠ (s.alarm.points[p]).state ∧ st.listed = false ∧ st ≠ .delaying
      ∧ st ≠ .shelved ∧ (s.alarm.points[p]).state.listed = false := by
  unfold rearmTo at h
  cases he : (s.act.points[p]).enabled
  · rw [he] at h; cases h
  · revert h
    rw [he, if_pos rfl]
    cases (s.alarm.points[p]).state <;> cases s.armed p <;> simp <;> rintro rfl <;> simp [PState.listed]

/-- What is read at the arming of a point does not change as others are armed. -/
theorem rearmTo_congr {s t : State} {p : Fin 48} (h : Points s t) (k : t.alarm.points[p] = s.alarm.points[p]) :
    rearmTo t p = rearmTo s p := by
  unfold Points at h
  have h1 : t.act = s.act := by rw [h]
  have h2 : t.mode = s.mode := by rw [h]
  unfold rearmTo State.armed
  rw [k, h1, h2]

/-- What the arming of the points of a list leaves of each point (R135). -/
structure ArmedOver (l : List (Fin 48)) (s t : State) : Prop where
  points : Points s t
  moved : ∀ p ∈ l, ∀ st, rearmTo s p = some st → t.alarm.points[p] =
    { state := st, mark := false, tDelay := none, tShelf := none, since := none
      chValue := (s.source (s.act.points[p]).source).value
      chValid := (s.source (s.act.points[p]).source).valid, chTime := s.now } ∧ t.owed[p] = true
  kept : ∀ p, (p ∉ l ∨ rearmTo s p = none) → t.alarm.points[p] = s.alarm.points[p]
  list : (∀ p ∈ s.alarm.list, (s.alarm.points[p]).state.listed = true) → t.alarm.list = s.alarm.list

theorem armedOver (l : List (Fin 48)) (hl : l.Nodup) : ∀ s, ArmedOver l s (l.foldl (fun s p => rearmPoint p s) s) := by
  induction l with
  | nil => exact fun s => ⟨.refl s, by simp, fun _ _ => rfl, fun _ => rfl⟩
  | cons p l ih =>
    intro s
    obtain ⟨hp, hl⟩ := List.nodup_cons.mp hl
    rw [List.foldl_cons]
    obtain ⟨i1, i2, i3, i4⟩ := ih hl (rearmPoint p s)
    have hpt := rearmPoint_points p s
    have hsrc : ∀ c, (rearmPoint p s).source c = s.source c := by
      intro c; unfold Points at hpt; unfold State.source; rw [hpt]
    have hact : (rearmPoint p s).act = s.act := by unfold Points at hpt; rw [hpt]
    have hnow : (rearmPoint p s).now = s.now := by unfold Points at hpt; rw [hpt]
    have hto : ∀ q, q ≠ p → rearmTo (rearmPoint p s) q = rearmTo s q := fun q hq =>
      rearmTo_congr hpt (rearmPoint_ne hq s).1
    -- the point itself
    have own : ∀ st, rearmTo s p = some st → (rearmPoint p s).alarm.points[p] =
        { state := st, mark := false, tDelay := none, tShelf := none, since := none
          chValue := (s.source (s.act.points[p]).source).value
          chValid := (s.source (s.act.points[p]).source).valid, chTime := s.now }
        ∧ (rearmPoint p s).owed[p] = true := by
      intro st hst
      obtain ⟨e1, e2, e3, e4, e5, _⟩ := rearmTo_some hst
      have := setPoint_quiet e2 e3 e4 e5 e1
      rw [rearmPoint_eq, hst]
      exact ⟨this.1, this.2.1⟩
    have own' : rearmTo s p = none → rearmPoint p s = s := by
      intro h; rw [rearmPoint_eq, h]
    -- owed marks of points outside the rest of the list
    have owed : ∀ (k : List (Fin 48)) (u : State), p ∉ k →
        (k.foldl (fun s p => rearmPoint p s) u).owed[p] = u.owed[p] := by
      intro k
      induction k with
      | nil => exact fun _ _ => rfl
      | cons q k ihk =>
        intro u hu
        rw [List.foldl_cons, ihk _ (fun h => hu (by simp [h])), (rearmPoint_ne (fun h => hu (by simp [h])) u).2]
    refine ⟨hpt.trans i1, ?_, ?_, ?_⟩
    · intro q hq st hst
      rcases List.mem_cons.mp hq with rfl | hq
      · obtain ⟨o1, o2⟩ := own st hst
        exact ⟨(i3 q (.inl hp)).trans o1, (owed l _ hp).trans o2⟩
      · have hne : q ≠ p := fun e => hp (e ▸ hq)
        have := i2 q hq st ((hto q hne).trans hst)
        rw [hsrc, hact, hnow] at this
        exact this
    · intro q hq
      by_cases hqp : q = p
      · subst hqp
        have hn : rearmTo s q = none := by
          rcases hq with hq | hq
          · exact absurd (by simp) hq
          · exact hq
        rw [i3 q (.inl hp), own' hn]
      · rw [i3 q, (rearmPoint_ne hqp s).1]
        rcases hq with hq | hq
        · exact .inl fun h => hq (by simp [h])
        · exact .inr ((hto q hqp).trans hq)
    · intro hall
      have step : (rearmPoint p s).alarm.list = s.alarm.list := by
        cases hst : rearmTo s p with
        | none => rw [own' hst]
        | some st =>
          obtain ⟨e1, e2, e3, e4, e5, e6⟩ := rearmTo_some hst
          have := (setPoint_quiet e2 e3 e4 e5 e1).2.2
          rw [rearmPoint_eq, hst]
          dsimp only
          rw [this]
          refine List.filter_eq_self.mpr fun q hq => ?_
          simp only [bne_iff_ne, ne_eq]
          rintro rfl
          rw [hall q hq] at e6
          cases e6
      rw [i4, step]
      intro q hq
      rw [step] at hq
      have hq' := hall q hq
      by_cases hqp : q = p
      · subst hqp
        cases hst : rearmTo s q with
        | none => rw [own' hst]; exact hq'
        | some st => rw [(rearmTo_some hst).2.2.2.2.2] at hq'; cases hq'
      · rw [(rearmPoint_ne hqp s).1]; exact hq'

/-- What arming and disarming all points leaves (R135). -/
theorem rearmPoints_armed (s : State) : ArmedOver (List.finRange 48) s (rearmPoints s) :=
  armedOver _ (List.nodup_finRange 48) s

/-- The points after a change of mode, from what arming them leaves (R135). -/
theorem rearmed_of_armed {s a t : State} (hp : a.alarm = s.alarm) (ht : a.tables = s.tables) (hn : a.now = s.now)
    (h : (rearmPoints a).alarm.points = t.alarm.points) (hl : (rearmPoints a).alarm.list = t.alarm.list)
    (hm : t.mode = a.mode) : Rearmed s t := by
  obtain ⟨_, h2, h3, h4⟩ := rearmPoints_armed a
  have hact : a.act = s.act := by unfold State.act; rw [ht]
  have hsrc : ∀ c, a.source c = s.source c := fun c => by unfold State.source; rw [hp]
  have harm : ∀ p, a.armed p = (s.act.points[p]).mask.getLsbD t.mode.code := by
    intro p; unfold State.armed armedIn; rw [hact, hm]
  refine ⟨?_, ?_, ?_⟩
  · rintro p c r next rfl rfl he hc
    have hto : rearmTo a p = some next := by
      unfold rearmTo
      rw [hact, hp, harm, if_pos he]
      rcases hc with ⟨hs, hk, rfl⟩ | ⟨hs, hk, rfl⟩
      · rcases hs with hs | hs <;> rw [hs, hk]
      · rw [hs, hk]
    have := (h2 p (List.mem_finRange p) next hto).1
    rw [hsrc, hact, hn, h] at this
    exact this
  · rintro p c r rfl rfl hc
    have hto : rearmTo a p = none := by
      unfold rearmTo
      rw [hact, hp, harm]
      rcases hc with hc | ⟨hs, hk⟩ | ⟨hs, hk⟩ | hc | hc | hc | hc
      · rw [hc]; rfl
      · rcases hs with hs | hs <;> rw [hs, hk] <;> split <;> rfl
      · rw [hs, hk]; split <;> rfl
      all_goals (rw [hc]; split <;> rfl)
    have := h3 p (.inr hto)
    rw [h, hp] at this
    exact this
  · intro hx
    rw [← hl, ← hp]
    refine h4 ?_
    rw [hp]
    exact fun p hm => (hx.2 p).mp hm


/-- Two states with the same alarm points, list, owed marks, tables and tightline record, and in the same mode. -/
structure PointsAlike (s t : State) : Prop where
  points : t.alarm.points = s.alarm.points
  list : t.alarm.list = s.alarm.list
  owed : t.owed = s.owed
  mode : t.mode = s.mode
  tables : t.tables = s.tables
  tight : t.tight = s.tight

theorem PointsAlike.refl (s : State) : PointsAlike s s := ⟨rfl, rfl, rfl, rfl, rfl, rfl⟩

theorem PointsAlike.trans {a b c : State} (h : PointsAlike a b) (k : PointsAlike b c) : PointsAlike a c :=
  ⟨k.points.trans h.points, k.list.trans h.list, k.owed.trans h.owed, k.mode.trans h.mode, k.tables.trans h.tables,
    k.tight.trans h.tight⟩

/-- An update that no point watches leaves the points (R123). -/
theorem feedHeld_unwatched {code : Nat} {s : State} (h : s.pointsOn code = []) (v : Int) (ok : Bool)
    (trig : Option (List Byte)) : PointsAlike s (feedHeld code v ok trig s) := by
  unfold feedHeld
  split
  · constructor <;> rfl
  · rw [h]; constructor <;> rfl

theorem enterWalking_alike {s : State} (h : s.walk.camReversal = false ∨ s.pointsOn 77 = []) :
    PointsAlike s (enterWalking s) := by
  unfold enterWalking
  dsimp only
  have key : ∀ a : State, PointsAlike s a → PointsAlike s
      (match a.walk.skew with
        | some k =>
          if a.act.walk.tripLimit < k then
            { a with heldTrips := a.heldTrips ++ [{ cause := .skew, action := .both, frame := none }] }
          else a
        | none => a) := by
    intro a h
    repeat' split
    all_goals first | exact h | exact h.trans (by constructor <;> rfl)
  apply key
  split
  · rename_i hc
    rcases h with h | h
    · rw [h] at hc; cases hc
    · refine PointsAlike.trans ?_ (feedHeld_unwatched ?_ 0 true none)
      · constructor <;> rfl
      · exact h
  · constructor <;> rfl

/-- What the walk sequencer does at a change of mode leaves the points, where none watches what it hands (R118, R120). -/
theorem walkModeChange_alike (old : Mode) {new : Mode} {s : State}
    (h : new = .walking → s.walk.camReversal = false ∨ s.pointsOn 77 = []) :
    PointsAlike s (walkModeChange old new s) := by
  unfold walkModeChange
  dsimp only
  have h1 : PointsAlike s
      (if old = .walkPrep then { s with walk := { s.walk with tConfirm := none, tTimeout := none } } else s)
      ∧ (if old = .walkPrep then { s with walk := { s.walk with tConfirm := none, tTimeout := none } }
          else s).walk.reversal = s.walk.reversal := by
    split <;> exact ⟨by constructor <;> rfl, rfl⟩
  generalize (if old = .walkPrep then { s with walk := { s.walk with tConfirm := none, tTimeout := none } } else s)
    = a at h1 ⊢
  have h2 : PointsAlike s (if old = .walking then { a with walk := { a.walk with stepMark := none } } else a)
      ∧ (if old = .walking then { a with walk := { a.walk with stepMark := none } } else a).walk.reversal
        = s.walk.reversal := by
    split
    · exact ⟨h1.1.trans (by constructor <;> rfl), h1.2⟩
    · exact h1
  generalize (if old = .walking then { a with walk := { a.walk with stepMark := none } } else a) = b at h2 ⊢
  cases new
  case walking =>
    refine h2.1.trans (enterWalking_alike ?_)
    have hk := h rfl
    unfold Walk.camReversal State.pointsOn State.act at *
    rw [h2.2, h2.1.tables]
    exact hk
  case walkPrep => exact h2.1.trans (by constructor <;> rfl)
  all_goals exact h2.1

theorem tightModeChange_points {old : Mode} {s : State} (h : old = .dig → s.tight.start = none ∨ s.pointsOn 37 = []) :
    (tightModeChange old s).alarm.points = s.alarm.points ∧ (tightModeChange old s).alarm.list = s.alarm.list
      ∧ (tightModeChange old s).owed = s.owed ∧ (tightModeChange old s).mode = s.mode := by
  unfold tightModeChange
  split
  · rename_i hc
    simp only [Bool.and_eq_true, decide_eq_true_eq] at hc
    rcases h hc.1 with h | h
    · rw [h] at hc; cases hc.2
    · have k : PointsAlike (clearEpisode s) _ :=
        feedHeld_unwatched (code := 37) (s := clearEpisode s) h 0 true none
      exact ⟨k.points, k.list, k.owed, k.mode⟩
  · exact ⟨rfl, rfl, rfl, rfl⟩

/-- A change of mode re-arms the points by their masks (R31, R135), where none watches what the change hands. -/
theorem modeSteps_rearmed {m : Mode} {s : State} (h : s.mode = .dig → s.tight.start = none ∨ s.pointsOn 37 = [])
    (k : m = .walking → s.walk.camReversal = false ∨ s.pointsOn 77 = []) :
    (modeSteps m s).mode = m ∧ Rearmed s (modeSteps m s)
      ∧ (∀ p : Fin 48, (modeSteps m s).alarm.points[p] ≠ s.alarm.points[p] → (modeSteps m s).owed[p] = true) := by
  unfold modeSteps
  dsimp only
  generalize ha : ({ s with ctl := { s.ctl with
        mode := m, entryTime := s.now, slot := none, hold := .none,
        reason := if s.mode = .init then .none else s.ctl.reason,
        parkTimer := if s.mode = .dig then none else s.ctl.parkTimer } } : State) = a
  have hB : (if m = .dig then startPark a else a).alarm = s.alarm
      ∧ (if m = .dig then startPark a else a).tables = s.tables ∧ (if m = .dig then startPark a else a).now = s.now
      ∧ (if m = .dig then startPark a else a).tight = s.tight ∧ (if m = .dig then startPark a else a).walk = s.walk
      ∧ (if m = .dig then startPark a else a).mode = m := by
    subst ha
    split <;> exact ⟨rfl, rfl, rfl, rfl, rfl, rfl⟩
  generalize (if m = .dig then startPark a else a) = b at hB ⊢
  obtain ⟨b1, b2, b3, b4, b5, b6⟩ := hB
  have harm := rearmPoints_armed b
  have hpt := harm.points
  have hw : PointsAlike (rearmPoints b) (walkModeChange s.mode m (rearmPoints b)) := by
    refine walkModeChange_alike _ fun e => ?_
    have := k e
    unfold Points at hpt
    unfold State.pointsOn State.act Walk.camReversal at *
    rw [hpt]
    rw [b2, b5]
    exact this
  have ht := tightModeChange_points (old := s.mode) (s := walkModeChange s.mode m (rearmPoints b)) (fun e => by
    have := h e
    unfold Points at hpt
    unfold State.pointsOn State.act at *
    rw [hw.tables, hw.tight, hpt]
    rw [b2, b4]
    exact this)
  generalize tightModeChange s.mode (walkModeChange s.mode m (rearmPoints b)) = c at ht ⊢
  obtain ⟨t1, t2, t3, t4⟩ := ht
  have hmode : (rearmPoints b).mode = m := by
    unfold Points at hpt
    unfold State.mode
    rw [hpt]; exact b6
  have hd : ∀ d : State, d.alarm = c.alarm → d.owed = c.owed → d.mode = c.mode →
      d.mode = m ∧ Rearmed s d ∧ ∀ p : Fin 48, d.alarm.points[p] ≠ s.alarm.points[p] → d.owed[p] = true := by
    intro d d1 d2 d3
    have dm : d.mode = m := by rw [d3, t4, hw.mode, hmode]
    have dp : (rearmPoints b).alarm.points = d.alarm.points := by rw [d1, t1, hw.points]
    refine ⟨dm, rearmed_of_armed b1 b2 b3 dp ?_ (by rw [dm, b6]), ?_⟩
    · rw [d1, t2, hw.list]
    · intro p hp
      rw [d2, t3, hw.owed]
      cases hto : rearmTo b p with
      | some st => exact (harm.moved p (List.mem_finRange p) st hto).2
      | none =>
        refine absurd ?_ hp
        rw [← dp, harm.kept p (.inr hto), b1]
  apply hd <;> (split <;> rfl)

end Sys2Proof.Machine
end

