-- ==== Sys2Proof/Laws/Sources.lean ====
section
/-!
SUPPORT. What a source update does to the sources (R123): while an update is evaluated no source changes, the updates that
the trips raised meanwhile hand wait behind it, and only those of the tightline duration and of the trip queue do.
-/

namespace Sys2Proof.Machine

/-- While the alarm unit evaluates an update, no source changes, and the updates handed wait behind the others: the
tightline duration (R89) and the two sources of the trip queue (R166). -/
structure Waits (s t : State) : Prop where
  /-- With `us` waiting before, the sources are kept and `us` waits still, before whatever was handed meanwhile. -/
  of : ∀ us, s.updates = some us →
    t.alarm.sources = s.alarm.sources
      ∧ ∃ more, t.updates = some (us ++ more) ∧ ∀ u ∈ more, u.code = 37 ∨ u.code = 54 ∨ u.code = 55

theorem Waits.of_eq {s t : State} (h : t.alarm.sources = s.alarm.sources) (k : t.updates = s.updates) : Waits s t :=
  ⟨fun us hu => ⟨h, [], by simp [k, hu], by simp⟩⟩

theorem Waits.refl (s : State) : Waits s s := .of_eq rfl rfl

theorem Waits.trans {a b c : State} (h : Waits a b) (k : Waits b c) : Waits a c := by
  constructor
  intro us hu
  obtain ⟨h1, m1, h2, h3⟩ := h.of us hu
  obtain ⟨k1, m2, k2, k3⟩ := k.of _ h2
  refine ⟨k1.trans h1, m1 ++ m2, by rw [k2, List.append_assoc], ?_⟩
  intro u hm
  rcases List.mem_append.mp hm with hm | hm
  · exact h3 u hm
  · exact k3 u hm

/-- A step that touches neither the sources nor the waiting updates, before one that keeps to the rule. -/
theorem Waits.after {a b c : State} (k : Waits b c) (h : b.alarm.sources = a.alarm.sources)
    (h' : b.updates = a.updates) : Waits a c := (Waits.of_eq h h').trans k

theorem oweStatus_waits (s : State) : Waits s (oweStatus s) := .of_eq rfl rfl

theorem deEnergise_waits (a : TripAction) (s : State) : Waits s (deEnergise a s) := .of_eq rfl rfl

theorem Waits.foldl {β : Type} {f : State → β → State} (h : ∀ s b, Waits s (f s b)) (l : List β) :
    ∀ s, Waits s (l.foldl f s) := by
  induction l with
  | nil => exact fun s => .refl s
  | cons b l ih => exact fun s => (h s b).trans (ih _)

theorem setPoint_waits (p : Fin 48) (st : PState) (m : Bool) (t : Option Nat) (s : State) :
    Waits s (setPoint p st m t s) := by
  unfold setPoint; dsimp only; split
  · exact .refl s
  · exact .of_eq rfl rfl

theorem activatePoint_waits (trig : Option (List Byte)) (p : Fin 48) (s : State) : Waits s (activatePoint trig p s) := by
  unfold activatePoint; dsimp only; split
  · exact (setPoint_waits p .activeUnack false none s).trans (.of_eq rfl rfl)
  · exact setPoint_waits ..

theorem evalPoint_waits (trig : Option (List Byte)) (p : Fin 48) (s : State) : Waits s (evalPoint trig p s) := by
  unfold evalPoint; dsimp only
  repeat' split
  all_goals first | exact .refl s | exact setPoint_waits .. | exact activatePoint_waits ..

theorem rearmPoints_waits (s : State) : Waits s (rearmPoints s) := by
  refine Waits.foldl (fun s p => ?_) _ s
  unfold rearmPoint; dsimp only
  repeat' split
  all_goals first | exact .refl s | exact setPoint_waits ..

/-- An update handed while one is evaluated waits (R123). -/
theorem feedHeld_waits {code : Nat} (h : code = 37 ∨ code = 54 ∨ code = 55) (v : Int) (ok : Bool)
    (trig : Option (List Byte)) (s : State) : Waits s (feedHeld code v ok trig s) := by
  constructor
  intro us hu
  unfold feedHeld
  rw [hu]
  exact ⟨rfl, _, rfl, by simpa using h⟩

theorem tightModeChange_waits (old : Mode) (s : State) : Waits s (tightModeChange old s) := by
  unfold tightModeChange; split
  · exact Waits.after (feedHeld_waits (.inl rfl) ..) rfl rfl
  · exact .refl s

theorem appendRecord_waits (r : TripRecord) (s : State) : Waits s (appendRecord r s) := by
  unfold appendRecord; dsimp only
  split
  · exact Waits.after (feedHeld_waits (.inr (.inl rfl)) ..) rfl rfl
  · split
    · exact Waits.after (feedHeld_waits (.inr (.inr rfl)) ..) rfl rfl
    · exact .of_eq rfl rfl

theorem walkModeChange_tripped_waits (old : Mode) (s : State) : Waits s (walkModeChange old .tripped s) := by
  unfold walkModeChange; dsimp only
  repeat' split
  all_goals exact .of_eq rfl rfl

theorem modeSteps_tripped_waits (s : State) : Waits s (modeSteps .tripped s) := by
  unfold modeSteps
  simp only [reduceCtorEq, if_false, and_false]
  refine Waits.trans ?_ (oweStatus_waits _)
  refine Waits.trans ?_ (tightModeChange_waits _ _)
  refine Waits.trans ?_ (walkModeChange_tripped_waits _ _)
  exact Waits.after (rearmPoints_waits _) rfl rfl

theorem tripSetAll_waits (s : State) : Waits s (tripSetAll s) := by
  refine Waits.foldl (fun s c => ?_) _ s
  unfold tripChannel; split
  all_goals exact .of_eq rfl rfl

theorem takeTrip_waits (t : TripIn) (s : State) : Waits s (takeTrip t s) := by
  unfold takeTrip; split
  · exact Waits.after (appendRecord_waits _ _) rfl rfl
  · unfold firstTrip; dsimp only
    refine Waits.trans ?_ (appendRecord_waits ..)
    have h : Waits s (tripSetAll (deEnergise t.action (modeSteps .tripped s))) :=
      ((modeSteps_tripped_waits s).trans (deEnergise_waits _ _)).trans (tripSetAll_waits _)
    split
    · exact h.trans (.of_eq rfl rfl)
    · exact h

theorem drainTrips_waits (n : Nat) : ∀ s, Waits s (drainTrips n s) := by
  induction n with
  | zero => exact fun _ => .of_eq rfl rfl
  | succ n ih =>
    intro s
    unfold drainTrips
    split
    · exact .refl s
    · refine Waits.trans ?_ (ih _)
      exact Waits.after (takeTrip_waits _ _) rfl rfl

theorem drain_waits (s : State) : Waits s (drain s) := drainTrips_waits _ s

/-- What an update evaluated does to the sources: its own takes the value and validity handed, and no other changes
(R123). -/
theorem takeUpdate_waits (u : Update) (s : State) : Waits (s.setSource u.code u.value u.valid) (takeUpdate u s) := by
  unfold takeUpdate
  exact Waits.foldl (fun _ p => (evalPoint_waits u.trig p _).trans (drain_waits _)) _ _

/-- An update leaves the other sources (R123). -/
theorem setSource_source_ne {code c : Nat} (h : c ≠ code) (hc : 1 ≤ code) (v : Int) (ok : Bool) (s : State) :
    (s.setSource code v ok).source c = s.source c := by
  unfold State.setSource State.source
  dsimp only
  split
  · rfl
  · rename_i n
    rw [Vector.getElem?_setIfInBounds_ne (by omega)]

/-- The source of an update reads as the update left it: an INVALID one keeps the value held (R123). -/
theorem setSource_source_same {code : Nat} (hc : 1 ≤ code) (hc' : code ≤ 79) (v : Int) (ok : Bool) (s : State) :
    (s.setSource code v ok).source code = { value := if ok then v else (s.source code).value, valid := ok } := by
  obtain ⟨n, rfl⟩ : ∃ n, code = n + 1 := ⟨code - 1, by omega⟩
  unfold State.setSource
  show ((Vector.setIfInBounds s.alarm.sources (n + 1 - 1) _)[n]?).getD _ = _
  rw [Nat.add_sub_cancel, Vector.getElem?_setIfInBounds_self_of_lt (by omega)]
  rfl

theorem source_congr {s t : State} (h : t.alarm.sources = s.alarm.sources) (c : Nat) : t.source c = s.source c := by
  unfold State.source; rw [h]

/-- The waiting updates leave every source but those they are of (R123). -/
theorem takeUpdates_source {c : Nat} (h1 : c ≠ 37) (h2 : c ≠ 54) (h3 : c ≠ 55) (n : Nat) :
    ∀ s : State, (∀ us, s.updates = some us → ∀ u ∈ us, u.code = 37 ∨ u.code = 54 ∨ u.code = 55) →
      (takeUpdates n s).source c = s.source c := by
  induction n with
  | zero => exact fun _ _ => rfl
  | succ n ih =>
    intro s hs
    unfold takeUpdates
    split
    · rename_i u us hu
      have hw := hs _ hu
      have hcode := hw u (by simp)
      obtain ⟨k1, more, k2, k3⟩ := (takeUpdate_waits u { s with updates := some us }).of us rfl
      rw [ih]
      · rw [source_congr k1]
        rcases hcode with e | e | e <;> rw [e] <;> exact setSource_source_ne (by omega) (by omega) _ _ _
      · intro us' hu' u' hm
        rw [k2] at hu'
        cases hu'
        rcases List.mem_append.mp hm with hm | hm
        · exact hw u' (by simp [hm])
        · exact k3 u' hm
    · rfl

/-- After a source update its source reads as the update left it, whatever trips it raised (R123), but for the sources
that trips hand. -/
theorem feed_source_same {code : Nat} (hc : 1 ≤ code) (hc' : code ≤ 79) (h1 : code ≠ 37) (h2 : code ≠ 54)
    (h3 : code ≠ 55) (v : Int) (ok : Bool) (trig : Option (List Byte)) (s : State) :
    (feed code v ok trig s).source code = { value := if ok then v else (s.source code).value, valid := ok } := by
  show (takeUpdates 255 (takeUpdate { code := code, value := v, valid := ok, trig := trig }
      { s with updates := some [] })).source code = _
  obtain ⟨k1, more, k2, k3⟩ := (takeUpdate_waits { code := code, value := v, valid := ok, trig := trig }
    { s with updates := some [] }).of [] rfl
  rw [takeUpdates_source h1 h2 h3, source_congr k1]
  · exact setSource_source_same hc hc' v ok _
  · intro us hu
    rw [k2] at hu
    cases hu
    simpa using k3

/-- A source update leaves every other source but those that trips hand (R123). -/
theorem feed_source_ne {code c : Nat} (hc : 1 ≤ code) (h : c ≠ code) (h1 : c ≠ 37) (h2 : c ≠ 54) (h3 : c ≠ 55)
    (v : Int) (ok : Bool) (trig : Option (List Byte)) (s : State) :
    (feed code v ok trig s).source c = s.source c := by
  show (takeUpdates 255 (takeUpdate { code := code, value := v, valid := ok, trig := trig }
      { s with updates := some [] })).source c = _
  obtain ⟨k1, more, k2, k3⟩ := (takeUpdate_waits { code := code, value := v, valid := ok, trig := trig }
    { s with updates := some [] }).of [] rfl
  rw [takeUpdates_source h1 h2 h3, source_congr k1]
  · exact setSource_source_ne h hc v ok _
  · intro us hu
    rw [k2] at hu
    cases hu
    simpa using k3

end Sys2Proof.Machine
end

