-- ==== Sys2Proof/Laws/Consume.lean ====
section
/-!
SUPPORT. CONSUME_TRIPS and the test of R33 that follows it in INIT: what the removal of records leaves where no point
watches the two sources, the start conditions as the manual words them, and the change from INIT to PARKED.
-/

namespace Sys2Proof.Machine

/-- Source updates that no point watches write their records alone (R123). -/
theorem feedAll_unwatched (us : List Update) (s : State) (h : ∀ u ∈ us, s.pointsOn u.code = []) (hl : us.length ≤ 2) :
    feedAll us s = us.foldl (fun s u => s.setSource u.code u.value u.valid) s := by
  have one : ∀ (u : Update) (s : State), s.pointsOn u.code = [] →
      takeUpdate u s = s.setSource u.code u.value u.valid := by
    intro u s h; unfold takeUpdate; rw [updatePoints_nil h]; rfl
  match us, hl with
  | [], _ => rfl
  | [a], _ =>
    unfold feedAll takeUpdates takeUpdates
    dsimp only
    rw [one _ _ (by exact h a (by simp))]
    rfl
  | [a, b], _ =>
    unfold feedAll takeUpdates takeUpdates takeUpdates
    dsimp only
    rw [one _ _ (by exact h a (by simp))]
    dsimp only [State.setSource]
    rw [one _ _ (by exact h b (by simp))]
    rfl

/-- Every DRIVE entry is FRESH (R33). -/
theorem drivesFresh_iff (s : State) : s.drivesFresh = true ↔ ¬DriveNotFresh s := by
  unfold State.drivesFresh DriveNotFresh State.entryFresh
  simp
  constructor
  · intro h e he hr
    rcases h e with k | k
    · rcases k with k | k
      · exact absurd k he
      · exact absurd hr k
    · cases hs : s.stations[e.val] with
      | none => simp [hs] at k
      | some r => exact ⟨r, rfl, by simpa [hs] using k⟩
  · intro h e
    by_cases he : s.act.stations[e.val].number = 0
    · exact .inl (.inl he)
    · by_cases hr : s.act.stations[e.val].role = .drive
      · obtain ⟨r, h1, h2⟩ := h e he hr
        right; simp [h1, h2]
      · exact .inl (.inr hr)

/-- Some analog channel is SETTLING (R33). -/
theorem settling_iff (s : State) : s.settling = true ↔ AnalogSettles s := by
  unfold State.settling AnalogSettles
  simp

/-- The start conditions (R33). -/
theorem startReady_iff (s : State) : s.startReady = true ↔
    (StationGood s ∧ s.tables.valid = true ∧ ¬RecordsHeld s ∧ ¬BrakeNotSet s ∧ ¬DriveNotFresh s ∧ ¬AnalogSettles s) := by
  unfold State.startReady
  simp only [Bool.and_eq_true, beq_iff_eq, allSet_iff, drivesFresh_iff, Bool.not_eq_true', ← settling_iff]
  have : s.workedReason = .waiting ↔ StationGood s ∧ s.tables.valid = true ∧ ¬RecordsHeld s := by
    unfold State.workedReason StationGood RecordsHeld State.tripHold State.ownValid
    by_cases a : 1 ≤ s.ring.own.toNat ∧ s.ring.own.toNat ≤ 62
    · cases b : s.tables.valid
      · simp [a]
      · cases c : s.act.options.tripHold <;> cases d : s.trip.queue <;> simp [a]
    · have : (decide (1 ≤ s.ring.own.toNat) && decide (s.ring.own.toNat ≤ 62)) = false := by
        simp only [Bool.and_eq_false_iff, decide_eq_false_iff_not]; omega
      simp only [this]
      simp
      omega
  rw [this]
  simp [and_assoc]

/-- What CONSUME_TRIPS leaves where no point watches the two sources, before the test of R33 (R165, R166). -/
theorem consume_unwatched {n : Nat} {s t : State} {q : List TripRecord} (hq : q = s.trip.queue.drop n)
    (ht : t = consume n s) (h1 : s.pointsOn 54 = []) (h2 : s.pointsOn 55 = []) :
    ∃ k : State, k = { s with
        trip := { s.trip with queue := q, notStored := if q = [] then 0 else s.trip.notStored }
        alarm := { s.alarm with sources := k.alarm.sources }, statusOwed := k.statusOwed }
      ∧ (∀ code, code ≠ 54 → code ≠ 55 → k.source code = s.source code)
      ∧ (q ≠ s.trip.queue → k.source 54 = { value := q.length, valid := true })
      ∧ (q = s.trip.queue → k.source 54 = s.source 54)
      ∧ (k.trip.notStored ≠ s.trip.notStored → k.source 55 = { value := 0, valid := true })
      ∧ (k.trip.notStored = s.trip.notStored → k.source 55 = s.source 55)
      ∧ t = if q ≠ s.trip.queue then initTest k else k := by
  have hlen : (q.length ≠ s.trip.queue.length) ↔ q ≠ s.trip.queue := by
    constructor
    · intro h e; exact h (by rw [e])
    · intro h e
      apply h
      rw [hq] at e ⊢
      rw [List.length_drop] at e
      rcases Nat.eq_zero_or_pos n with k | k
      · rw [k]; rfl
      · have : s.trip.queue = [] := List.length_eq_zero_iff.mp (by omega)
        rw [this]; simp
  unfold consume at ht
  dsimp only at ht
  rw [← hq] at ht
  have he : (if q.isEmpty = true then 0 else s.trip.notStored) = (if q = [] then 0 else s.trip.notStored) := by
    cases q <;> rfl
  rw [he] at ht
  generalize hl : (if q = [] then 0 else s.trip.notStored) = lost at ht ⊢
  generalize hb : ({ s with trip := { s.trip with queue := q, notStored := lost }, statusOwed := _ } : State) = b at ht
  have hbp : ∀ c, b.pointsOn c = s.pointsOn c := by intro c; rw [← hb]; rfl
  rw [feedAll_unwatched] at ht
  rotate_left
  · intro u hu
    rcases List.mem_append.mp hu with hu | hu
    · split at hu
      · simp at hu; rw [hu]; exact (hbp 54).trans h1
      · cases hu
    · split at hu
      · simp at hu; rw [hu]; exact (hbp 55).trans h2
      · cases hu
  · split <;> split <;> simp
  have hz : lost ≠ s.trip.notStored → lost = 0 := by
    intro h; rw [← hl] at h ⊢; split at h <;> simp_all
  have hs : ∀ c, b.source c = s.source c := by intro c; rw [← hb]; rfl
  have hbn : b.trip.notStored = lost := by rw [← hb]
  generalize hk : List.foldl _ b _ = k at ht
  refine ⟨k, ?_, ?_, ?_, ?_, ?_, ?_, ?_⟩
  · rw [← hk]; split <;> split <;> (rw [← hb]; rfl)
  · intro c c1 c2
    rw [← hk]
    split <;> split <;>
      simp [setSource_source_ne c1, setSource_source_ne c2, hs]
  · intro h
    rw [← hk, if_pos (hlen.mpr h)]
    split
    · simp only [List.cons_append, List.nil_append, List.foldl_cons, List.foldl_nil]
      rw [setSource_source_ne (by decide) (by decide), setSource_source_same (by decide) (by decide)]
      rfl
    · simp only [List.cons_append, List.nil_append, List.foldl_cons, List.foldl_nil]
      rw [setSource_source_same (by decide) (by decide)]
      rfl
  · intro h
    rw [← hk, if_neg (fun k => hlen.mp k h)]
    split
    · simp only [List.nil_append, List.foldl_cons, List.foldl_nil]
      rw [setSource_source_ne (by decide) (by decide), hs]
    · simp [hs]
  · intro h
    have hkn : k.trip.notStored = lost := by rw [← hk]; split <;> split <;> (rw [← hb]; rfl)
    rw [hkn] at h
    rw [← hk, if_pos h, List.foldl_append, List.foldl_cons, List.foldl_nil,
      setSource_source_same (by show 1 ≤ 55; decide) (by show 55 ≤ 79; decide), hz h]
    rfl
  · intro h
    have hkn : k.trip.notStored = lost := by rw [← hk]; split <;> split <;> (rw [← hb]; rfl)
    rw [hkn] at h
    rw [← hk, if_neg (show ¬ lost ≠ s.trip.notStored from fun k => k h)]
    split
    · simp only [List.append_nil, List.foldl_cons, List.foldl_nil]
      rw [setSource_source_ne (by decide) (by decide), hs]
    · simp [hs]
  · rw [ht]
    by_cases h : q = s.trip.queue
    · rw [if_neg (fun k => hlen.mp k h), if_neg (fun k => k h)]
    · rw [if_pos (hlen.mpr h), if_pos h]

/-- The change from INIT to PARKED, while no trip is held (R31, R33). -/
theorem parked_from_init {s t : State} (h : s.mode = .init) (k : s.heldTrips = []) (e : t = changeMode .parked s) :
    t.mode = .parked ∧ t.ctl.reason = .none ∧ t.ctl.slot = none ∧ t.ctl.hold = .none ∧ t.ctl.entryTime = s.now
      ∧ Rearmed s t ∧ t.trip = { s.trip with field := .energised, brake := .energised }
      ∧ t.alarm.sources = s.alarm.sources
      ∧ t = { s with ctl := t.ctl, trip := t.trip, alarm := t.alarm, owed := t.owed, statusOwed := t.statusOwed } := by
  have m : modeSteps .parked s = oweStatus { (rearmPoints { s with ctl := { s.ctl with
        mode := .parked, entryTime := s.now, slot := none, hold := .none, reason := .none } }) with
        trip := { s.trip with field := .energised, brake := .energised } } := by
    unfold modeSteps walkModeChange tightModeChange
    simp [h]
    generalize ha : ({ s with ctl := _ } : State) = a
    have h1 := rearmPoints_rest a
    have : (rearmPoints a).trip = s.trip := by rw [h1, ← ha]
    rw [this]
  obtain ⟨q1, q2, _⟩ := modeSteps_rearmed (s := s) (m := .parked) (by rw [h]; intro e; cases e) (by intro e; cases e)
  have r := rearmPoints_rest { s with ctl := { s.ctl with
        mode := .parked, entryTime := s.now, slot := none, hold := .none, reason := .none } }
  have r2 := (rearmPoints_armed { s with ctl := { s.ctl with
        mode := .parked, entryTime := s.now, slot := none, hold := .none, reason := .none } }).points
  unfold changeMode at e
  rw [m] at e q1 q2
  generalize rearmPoints _ = a at r r2 e q1 q2
  have q : a.heldTrips = [] := by rw [r]; exact k
  rw [drain_none (by exact q)] at e
  subst e
  refine ⟨q1, ?_, ?_, ?_, ?_, q2, rfl, ?_, ?_⟩
  · show a.ctl.reason = _; rw [r]
  · show a.ctl.slot = _; rw [r]
  · show a.ctl.hold = _; rw [r]
  · show a.ctl.entryTime = _; rw [r]
  · unfold Points at r2; show a.alarm.sources = _; rw [r2]
  · unfold oweStatus; rw [r]

end Sys2Proof.Machine
end

