-- ==== Sys2Proof/Laws/StartUp.lean ====
section
/-!
SUPPORT. Start-up (R201, R202): the frames taken before steps 3 to 5, and what those steps leave of the state in which the
frames have been taken.
-/

namespace Sys2Proof.Machine

/-! The frames. -/

theorem earlyFrames_cons (bytes : List Byte) (rest : List (List Byte)) (s : State) :
    earlyFrames (bytes :: rest) s = earlyFrames rest (finish (takeFrame (parseFrame bytes) s)) := List.foldl_cons ..

/-- The frames before steps 3 to 5 are taken one after the other (R201). -/
theorem earlyFrames_taken (early : List (List Byte)) : ∀ v, FramesTaken early v (earlyFrames early v) := by
  induction early with
  | nil => exact fun _ => rfl
  | cons bytes rest ih =>
    intro v
    rw [earlyFrames_cons]
    unfold FramesTaken
    exact ⟨finish (takeFrame (parseFrame bytes) v), rfl, ih _⟩

/-- What every frame taken keeps, the frames before steps 3 to 5 keep. -/
theorem earlyFrames_keep {P : State → Prop} (h : ∀ bytes s, P s → P (finish (takeFrame (parseFrame bytes) s)))
    (early : List (List Byte)) : ∀ s, P s → P (earlyFrames early s) := by
  induction early with
  | nil => exact fun _ p => p
  | cons bytes rest ih =>
    intro s p
    rw [earlyFrames_cons]
    exact ih _ (h bytes s p)

/-! The sources. -/

/-- Every source keeps its record but those that trips and the end of a tightline episode hand (R89, R166). -/
structure SourcesKept (s t : State) : Prop where
  kept : ∀ c, c ≠ 37 → c ≠ 54 → c ≠ 55 → t.source c = s.source c

theorem SourcesKept.of_eq {s t : State} (h : t.alarm.sources = s.alarm.sources) : SourcesKept s t :=
  ⟨fun c _ _ _ => source_congr h c⟩

theorem SourcesKept.refl (s : State) : SourcesKept s s := .of_eq rfl

theorem SourcesKept.trans {a b c : State} (h : SourcesKept a b) (k : SourcesKept b c) : SourcesKept a c :=
  ⟨fun n h1 h2 h3 => (k.kept n h1 h2 h3).trans (h.kept n h1 h2 h3)⟩

theorem SourcesKept.after {a b c : State} (k : SourcesKept b c) (h : b.alarm.sources = a.alarm.sources) :
    SourcesKept a c := (SourcesKept.of_eq h).trans k

theorem oweStatus_sources (s : State) : SourcesKept s (oweStatus s) := .of_eq rfl

theorem deEnergise_sources (a : TripAction) (s : State) : SourcesKept s (deEnergise a s) := .of_eq rfl

theorem SourcesKept.foldl {β : Type} {f : State → β → State} (h : ∀ s b, SourcesKept s (f s b)) (l : List β) :
    ∀ s, SourcesKept s (l.foldl f s) := by
  induction l with
  | nil => exact fun s => .refl s
  | cons b l ih => exact fun s => (h s b).trans (ih _)

theorem setPoint_sources (p : Fin 48) (st : PState) (m : Bool) (t : Option Nat) (s : State) :
    SourcesKept s (setPoint p st m t s) := by
  unfold setPoint; dsimp only; split
  · exact .refl s
  · exact .of_eq rfl

theorem activatePoint_sources (trig : Option (List Byte)) (p : Fin 48) (s : State) :
    SourcesKept s (activatePoint trig p s) := by
  unfold activatePoint; dsimp only; split
  · exact (setPoint_sources p .activeUnack false none s).trans (.of_eq rfl)
  · exact setPoint_sources ..

theorem evalPoint_sources (trig : Option (List Byte)) (p : Fin 48) (s : State) : SourcesKept s (evalPoint trig p s) := by
  unfold evalPoint; dsimp only
  repeat' split
  all_goals first | exact .refl s | exact setPoint_sources .. | exact activatePoint_sources ..

theorem feedHeld_sources {code : Nat} (h : code = 37 ∨ code = 54 ∨ code = 55) (v : Int) (ok : Bool)
    (trig : Option (List Byte)) (s : State) : SourcesKept s (feedHeld code v ok trig s) := by
  unfold feedHeld; split
  · exact .of_eq rfl
  · refine SourcesKept.trans ⟨fun c h1 h2 h3 => ?_⟩ (SourcesKept.foldl (fun s p => evalPoint_sources trig p s) _ _)
    exact setSource_source_ne (by omega) (by omega) v ok s

theorem rearmPoints_sources (s : State) : SourcesKept s (rearmPoints s) := by
  refine SourcesKept.foldl (fun s p => ?_) _ s
  unfold rearmPoint; dsimp only
  repeat' split
  all_goals first | exact .refl s | exact setPoint_sources ..

theorem tightModeChange_sources (old : Mode) (s : State) : SourcesKept s (tightModeChange old s) := by
  unfold tightModeChange; split
  · exact SourcesKept.after (feedHeld_sources (.inl rfl) ..) rfl
  · exact .refl s

theorem appendRecord_sources (r : TripRecord) (s : State) : SourcesKept s (appendRecord r s) := by
  unfold appendRecord; dsimp only
  split
  · exact SourcesKept.after (feedHeld_sources (.inr (.inl rfl)) ..) rfl
  · split
    · exact SourcesKept.after (feedHeld_sources (.inr (.inr rfl)) ..) rfl
    · exact .of_eq rfl

theorem walkModeChange_sources (old : Mode) {new : Mode} (h : new ≠ .walking) (s : State) :
    SourcesKept s (walkModeChange old new s) := by
  unfold walkModeChange; dsimp only
  repeat' split
  all_goals first | exact .of_eq rfl | exact absurd rfl h

/-- A change of mode to one other than WALKING hands no source but the tightline duration (R31). -/
theorem modeSteps_sources {new : Mode} (h : new ≠ .walking) (s : State) : SourcesKept s (modeSteps new s) := by
  unfold modeSteps
  dsimp only
  refine SourcesKept.trans ?_ (oweStatus_sources _)
  have energised : ∀ (c : Prop) [Decidable c] (u : State), SourcesKept u
      (if c then { u with trip := { u.trip with field := .energised, brake := .energised } } else u) := fun c _ u => by
    split
    · exact .of_eq rfl
    · exact .refl u
  refine SourcesKept.trans ?_ (energised ..)
  refine SourcesKept.trans ?_ (tightModeChange_sources _ _)
  refine SourcesKept.trans ?_ (walkModeChange_sources _ h _)
  refine SourcesKept.trans ?_ (rearmPoints_sources _)
  split <;> exact .of_eq rfl

theorem tripSetAll_sources (s : State) : SourcesKept s (tripSetAll s) := by
  refine SourcesKept.foldl (fun s c => ?_) _ s
  unfold tripChannel; split
  all_goals exact .of_eq rfl

theorem takeTrip_sources (t : TripIn) (s : State) : SourcesKept s (takeTrip t s) := by
  unfold takeTrip; split
  · exact SourcesKept.after (appendRecord_sources _ _) rfl
  · unfold firstTrip; dsimp only
    refine SourcesKept.trans ?_ (appendRecord_sources ..)
    have h : SourcesKept s (tripSetAll (deEnergise t.action (modeSteps .tripped s))) :=
      ((modeSteps_sources (by decide) s).trans (deEnergise_sources _ _)).trans (tripSetAll_sources _)
    split
    · exact h.trans (.of_eq rfl)
    · exact h

theorem drainTrips_sources (n : Nat) : ∀ s, SourcesKept s (drainTrips n s) := by
  induction n with
  | zero => exact fun _ => .of_eq rfl
  | succ n ih =>
    intro s
    unfold drainTrips
    split
    · exact .refl s
    · refine SourcesKept.trans ?_ (ih _)
      exact SourcesKept.after (takeTrip_sources _ _) rfl

theorem changeMode_sources {new : Mode} (h : new ≠ .walking) (s : State) : SourcesKept s (changeMode new s) :=
  by
  unfold changeMode drain
  exact (modeSteps_sources h s).trans (drainTrips_sources 256 _)

theorem updateReason_sources (s : State) : SourcesKept s (updateReason s) := by
  unfold updateReason
  split
  · exact .of_eq rfl
  · exact .refl s

theorem initTest_sources (s : State) : SourcesKept s (initTest s) := by
  unfold initTest
  split
  · split
    · exact changeMode_sources (by decide) s
    · exact updateReason_sources s
  · exact .refl s

/-- A source update leaves every other source but those that trips hand. -/
theorem feed_sources {code c : Nat} (hc : 1 ≤ code) (h : c ≠ code) (h1 : c ≠ 37) (h2 : c ≠ 54) (h3 : c ≠ 55) {v : Int}
    {ok : Bool} {trig : Option (List Byte)} {s : State} : (feed code v ok trig s).source c = s.source c :=
  feed_source_ne hc h h1 h2 h3 v ok trig s

/-! The end of start-up. -/

/-- A fold of updates, none of a given source, leaves that source. -/
theorem foldl_feed_other {α : Type} {f : State → α → State} {c : Nat} (h : ∀ s a, (f s a).source c = s.source c)
    (l : List α) : ∀ s : State, (l.foldl f s).source c = s.source c := by
  induction l with
  | nil => exact fun _ => rfl
  | cons a l ih => exact fun s => (ih _).trans (h s a)

/-- A fold of updates of distinct sources leaves each source as its own update does. -/
theorem foldl_feed_source {α : Type} {f : State → α → State} {c : Nat} {P : State → Prop} {value : Source → Source}
    {a : α} (keep : ∀ s b, P s → P (f s b)) (same : ∀ s, P s → (f s a).source c = value (s.source c))
    (other : ∀ s b, b ≠ a → (f s b).source c = s.source c) {l : List α} (n : l.Nodup) (ha : a ∈ l) :
    ∀ s, P s → (l.foldl f s).source c = value (s.source c) := by
  induction l with
  | nil => cases ha
  | cons b l ih =>
    intro s hs
    rw [List.foldl_cons]
    rw [List.nodup_cons] at n
    by_cases e : b = a
    · subst e
      have k : ∀ (l : List α), b ∉ l → ∀ s, (l.foldl f s).source c = s.source c := by
        intro l
        induction l with
        | nil => exact fun _ _ => rfl
        | cons d l ih =>
          intro h s
          rw [List.foldl_cons, ih (fun m => h (List.mem_cons_of_mem d m)), other]
          exact fun e => h (e ▸ List.mem_cons_self)
      rw [k l n.1, same s hs]
    · rw [ih n.2 ((List.mem_cons.mp ha).resolve_left fun h => e h.symm) _ (keep s b hs), other s b e]

theorem startPoints_kept (s : State) : TripKept s (startPoints s) := by constructor <;> rfl

theorem feedStation_kept (e : Fin 16) (s : State) : TripKept s (feedStation e s) := by
  unfold feedStation
  split <;> exact feed_kept ..

theorem feedAttr_kept (i : Fin 13) (s : State) : TripKept s (feedAttr i s) := feed_kept ..

/-- What the first updates leave (R123). -/
theorem firstUpdates_kept (s : State) : TripKept s (firstUpdates s) := by
  unfold firstUpdates
  dsimp only
  refine TripKept.trans ?_ (feed_kept ..)
  refine TripKept.trans ?_ (feed_kept ..)
  refine TripKept.trans ?_ (TripKept.foldl (fun s c => feed_kept ..) _ _)
  refine TripKept.trans ?_ (TripKept.foldl (fun s c => feed_kept ..) _ _)
  refine TripKept.trans ?_ (TripKept.foldl (fun s i => feedAttr_kept i s) _ _)
  refine TripKept.trans ?_ (feed_kept ..)
  refine TripKept.trans ?_ (feed_kept ..)
  exact TripKept.foldl (fun s e => feedStation_kept e s) _ _

theorem updateReason_kept (s : State) : TripKept s (updateReason s) := by
  unfold updateReason
  split
  · constructor <;> rfl
  · exact .refl s

theorem initTest_kept (s : State) : TripKept s (initTest s) := by
  unfold initTest
  split
  · split
    · exact changeMode_kept _ s
    · exact updateReason_kept s
  · exact .refl s

/-- The minute timer started (R178). -/
def startMinute (s : State) : State := { s with attrs := { s.attrs with tMinute := some (s.now + Config.minuteMs) } }

theorem TripKept.startMinute {a b : State} (h : TripKept a b) : TripKept (startMinute a) (startMinute b) where
  now := h.now
  freeIdx := h.freeIdx
  pins := h.pins
  stations := h.stations
  feedback := h.feedback
  sensors := h.sensors
  analog := h.analog
  attrs := by
    show ({ b.attrs with tMinute := some (b.now + Config.minuteMs) } : Attrs) = _
    rw [h.attrs, h.now]
    rfl
  tables := h.tables
  store := h.store
  pending := h.pending
  ring := h.ring

theorem startMinute_sources (s : State) : SourcesKept s (startMinute s) := .of_eq rfl

theorem oweStatus_kept (s : State) : TripKept s (oweStatus s) := by constructor <;> rfl

theorem endStartUp_eq (s : State) :
    endStartUp s = oweStatus (initTest (updateReason (startMinute (firstUpdates (startPoints s))))) := rfl

/-- What the end of start-up leaves, with the minute timer started (R201). -/
theorem endStartUp_kept (s : State) : TripKept (startMinute s) (endStartUp s) := by
  rw [endStartUp_eq]
  have h : TripKept s (firstUpdates (startPoints s)) := (startPoints_kept s).trans (firstUpdates_kept _)
  exact (((h.startMinute).trans (updateReason_kept _)).trans (initTest_kept _)).trans (oweStatus_kept _)

theorem endStartUp_sources (s : State) : SourcesKept (firstUpdates (startPoints s)) (endStartUp s) := by
  rw [endStartUp_eq]
  refine SourcesKept.trans ?_ (oweStatus_sources _)
  refine SourcesKept.trans ?_ (initTest_sources _)
  exact SourcesKept.trans (startMinute_sources _) (updateReason_sources _)

theorem feedStation_source (e : Fin 16) (s : State) : (feedStation e s).source (38 + e.val) =
    match s.stations[e] with
    | some r => { value := r.fresh.code, valid := true }
    | none => { value := (s.source (38 + e.val)).value, valid := false } := by
  unfold feedStation freshSource
  split <;> rename_i h <;>
    rw [feed_source_same (by omega) (by omega) (by omega) (by omega) (by omega), h] <;> rfl

theorem feedStation_sources {c : Nat} {e : Fin 16} (h : c ≠ 38 + e.val) (h1 : c ≠ 37) (h2 : c ≠ 54) (h3 : c ≠ 55)
    (s : State) : (feedStation e s).source c = s.source c := by
  unfold feedStation freshSource
  split <;> exact feed_sources (by omega) h h1 h2 h3

theorem feedAttr_source (i : Fin 13) (s : State) :
    (feedAttr i s).source (56 + i.val) = { value := (s.attrs.recs[i]).norm, valid := true } := by
  unfold feedAttr
  rw [feed_source_same (by omega) (by omega) (by omega) (by omega) (by omega)]
  rfl

theorem feedAttr_sources {c : Nat} {i : Fin 13} (h : c ≠ 56 + i.val) (h1 : c ≠ 37) (h2 : c ≠ 54) (h3 : c ≠ 55)
    (s : State) : (feedAttr i s).source c = s.source c := feed_sources (by omega) h h1 h2 h3

/-- The two folds over the brake flags and the update of the cam-reversal flag leave every other source (R123). -/
theorem flagUpdates_sources {c : Nat} (h1 : c ≠ 37) (h2 : c ≠ 54) (h3 : c ≠ 55) (h : c < 69 ∨ 77 < c) (s : State) :
    (feed 77 (flagInt (allChans.foldl (fun s c => feed (timeoutSource c) (flagInt (s.brakes.get c).releaseTimeout) true
        none s) (allChans.foldl (fun s c => feed (proveSource c) (flagInt (s.brakes.get c).proveFailed) true none s)
        s)).walk.camReversal) true none
      (allChans.foldl (fun s c => feed (timeoutSource c) (flagInt (s.brakes.get c).releaseTimeout) true none s)
        (allChans.foldl (fun s c => feed (proveSource c) (flagInt (s.brakes.get c).proveFailed) true none s) s))).source c
      = s.source c := by
  rw [feed_sources (by omega) (by omega) h1 h2 h3, foldl_feed_other (fun s d => ?_), foldl_feed_other (fun s d => ?_)]
  · exact feed_sources (by cases d <;> decide) (by cases d <;> simp [proveSource, chanPos] <;> omega) h1 h2 h3
  · exact feed_sources (by cases d <;> decide) (by cases d <;> simp [timeoutSource, chanPos] <;> omega) h1 h2 h3

/-- The source of a station entry after the first updates (R123). -/
theorem firstUpdates_station (e : Fin 16) (s : State) : (firstUpdates s).source (38 + e.val) =
    match s.stations[e] with
    | some r => { value := r.fresh.code, valid := true }
    | none => { value := (s.source (38 + e.val)).value, valid := false } := by
  have he := e.isLt
  unfold firstUpdates
  dsimp only
  rw [feed_sources (by omega) (by omega) (by omega) (by omega) (by omega),
    flagUpdates_sources (by omega) (by omega) (by omega) (.inl (by omega)),
    foldl_feed_other (fun s i => feedAttr_sources (by omega) (by omega) (by omega) (by omega) s),
    feed_sources (by omega) (by omega) (by omega) (by omega) (by omega),
    feed_sources (by omega) (by omega) (by omega) (by omega) (by omega)]
  refine foldl_feed_source (P := fun u => u.stations = s.stations)
    (value := fun v => match s.stations[e] with
      | some r => { value := r.fresh.code, valid := true }
      | none => { value := v.value, valid := false })
    (fun u b h => (feedStation_kept b u).stations.trans h) (fun u h => ?_)
    (fun u b h => feedStation_sources (fun k => h (Fin.ext (by omega))) (by omega) (by omega) (by omega) u)
    (List.nodup_finRange 16) (List.mem_finRange e) s rfl
  rw [feedStation_source, h]

/-- The source of a wear or level record after the first updates (R123). -/
theorem firstUpdates_attr (i : Fin 13) (s : State) :
    (firstUpdates s).source (56 + i.val) = { value := (s.attrs.recs[i]).norm, valid := true } := by
  have hi := i.isLt
  unfold firstUpdates
  dsimp only
  rw [feed_sources (by omega) (by omega) (by omega) (by omega) (by omega),
    flagUpdates_sources (by omega) (by omega) (by omega) (.inl (by omega))]
  have k : ∀ u : State, u.attrs = s.attrs → ((List.finRange 13).foldl (fun s i => feedAttr i s) u).source (56 + i.val)
      = { value := (s.attrs.recs[i]).norm, valid := true } := fun u hu =>
    foldl_feed_source (P := fun u => u.attrs = s.attrs) (value := fun _ => _)
      (fun u b h => (feedAttr_kept b u).attrs.trans h) (fun u h => by rw [feedAttr_source, h])
      (fun u b h => feedAttr_sources (fun k => h (Fin.ext (by omega))) (by omega) (by omega) (by omega) u)
      (List.nodup_finRange 13) (List.mem_finRange i) u hu
  refine k _ ?_
  have hs : TripKept s ((List.finRange 16).foldl (fun s e => feedStation e s) s) :=
    TripKept.foldl (fun s e => feedStation_kept e s) _ _
  exact (((hs.trans (feed_kept ..)).trans (feed_kept ..))).attrs

/-- The refused-reference source after the first updates (R123). -/
theorem firstUpdates_refused (s : State) :
    (firstUpdates s).source 79 = { value := (s.counter .removedRefusedRef).toNat, valid := true } := by
  unfold firstUpdates
  dsimp only
  generalize h : allChans.foldl (fun s c => feed (timeoutSource c) (flagInt (s.brakes.get c).releaseTimeout) true none s)
    _ = u
  have k : TripKept s (feed 77 (flagInt u.walk.camReversal) true none u) := by
    subst h
    refine TripKept.trans ?_ (feed_kept ..)
    refine TripKept.trans ?_ (TripKept.foldl (fun s c => feed_kept ..) _ _)
    refine TripKept.trans ?_ (TripKept.foldl (fun s c => feed_kept ..) _ _)
    refine TripKept.trans ?_ (TripKept.foldl (fun s i => feedAttr_kept i s) _ _)
    refine TripKept.trans ?_ (feed_kept ..)
    refine TripKept.trans ?_ (feed_kept ..)
    exact TripKept.foldl (fun s e => feedStation_kept e s) _ _
  rw [feed_source_same (by omega) (by omega) (by omega) (by omega) (by omega), k.counter]
  rfl

/-! The Status Notice. -/

theorem NoticeKept.statusFields {s t : State} (h : NoticeKept s t) : t.statusFields = s.statusFields := by
  obtain ⟨r, _⟩ := h
  rw [r]
  rfl

theorem buildNotices_status (n : Nat) : ∀ s : State, s.statusOwed = true →
    (buildNotices n s).statusOwed = true ∨ Inserted .status 63#8 8#4 s.statusFields (buildNotices n s) := by
  induction n with
  | zero => exact fun s h => .inl h
  | succ n ih =>
    intro s h
    unfold buildNotices buildOne
    split
    · split
      · exact .inr (buildNotices_inserted n _ (joinInsert_self (s := { s with statusOwed := false }) rfl))
      · split
        · rename_i p _
          have k := buildAlarm_kept p s
          rw [← k.statusFields]
          refine ih _ ?_
          unfold buildAlarm joinInsert
          rw [chooseIfIdle_rest]
          exact h
        · exact ih s h
    · exact ih s h

/-- At the end of a command the Status Notice is still owed, or has been built with its fields as they stand (R18). -/
theorem finish_status {s : State} (h : s.statusOwed = true) :
    (finish s).statusOwed = true ∨ Inserted .status 63#8 8#4 (finish s).statusFields (finish s) := by
  rw [(finish_kept s).statusFields]
  exact buildNotices_status 16 s h

/-! Steps 1 and 2. -/

theorem emptyTables_entryOf {s : State} (h : s.tables.active = emptyTables) (n : Byte) : s.entryOf n = none := by
  unfold State.entryOf findEntry State.act
  rw [h, List.find?_eq_none]
  intro e _
  simp [show (emptyTables.stations[e.val]).number = 0 by revert e; decide]

/-- The INIT reason with no valid tables (R32). -/
theorem workedReason_invalid {u : State} (h : u.tables.valid = false) :
    u.workedReason = if u.ownValid then .noTables else .badStation := by
  unfold State.workedReason
  rw [h]
  cases u.ownValid <;> rfl

/-- The state of steps 1 and 2 of a power-on reset (R201). -/
theorem volatileReset_before (straps : BitVec 6) (s : State) : BeforeTables s (volatileReset straps s) := by
  have no : (volatileReset straps s).tables.valid = false := rfl
  have good : (volatileReset straps s).ownValid = true ↔ StationGood (volatileReset straps s) := by
    unfold State.ownValid StationGood
    rw [Bool.and_eq_true, decide_eq_true_eq, decide_eq_true_eq]
  have reason : (volatileReset straps s).ctl =
      { resetCtl with reason := if (volatileReset straps s).ownValid then .noTables else .badStation } := by
    unfold volatileReset
    dsimp only
    rw [workedReason_invalid rfl]
    rfl
  refine ⟨rfl, rfl, rfl, rfl, rfl, rfl, rfl, rfl, rfl, rfl, fun c => by cases c <;> rfl, rfl, emptyTables_entryOf rfl,
    fun e => ?_, fun h => ?_, fun h => ?_, rfl, rfl, fun x => by cases x <;> rfl, fun ch => ?_, fun ch => ?_,
    fun c => by cases c <;> rfl, rfl, rfl, fun n h1 h2 => ?_, fun p => ⟨?_, ?_⟩, rfl, rfl, rfl, ?_, ?_, rfl⟩
  · exact Vector.getElem_replicate _
  · rw [reason, if_pos (good.mpr h)]
  · rw [reason, if_neg fun k => h (good.mp k)]
  · exact Vector.getElem_replicate _
  · exact Vector.getElem_replicate _
  · obtain ⟨m, rfl⟩ : ∃ m, n = m + 1 := ⟨n - 1, by omega⟩
    show ((Vector.replicate 79 invalidSource)[m]?).getD _ = _
    rw [Vector.getElem?_replicate, if_pos (by omega)]
    rfl
  · exact Vector.getElem_replicate _
  · exact Vector.getElem_replicate _
  · rfl
  · rfl

/-- The state of steps 1 and 2 of a restart (R202). -/
theorem keepOver_before (old s : State) {v : State} (h : BeforeTables s v) :
    BeforeTables s (keepOver old v) := by
  obtain ⟨h1, h2, h3, h4, h5, h6, h7, h8, h9, h10, h11, h12, h13, h14, h15, h16, h17, h18, h19, h20, h21, h22, h23, h24,
    h25, h26, h27, h28, h29, h30, h31, h32⟩ := h
  exact ⟨h1, h2, h3, h4, h5, h6, h7, h8, h9, h10, h11, h12, h13, h14, h15, h16, h17, h18, h19, h20, h21, h22, h23, h24,
    h25, h26, h27, h28, h29, h30, h31, h32⟩

/-! Steps 3 to 5. -/

/-- What loading the attributes, or keeping them, leaves: everything but the attributes and the attributes-lost flag. -/
def OnlyAttrs (s t : State) : Prop :=
  t = { s with attrs := t.attrs, store := { s.store with attrsLost := t.store.attrsLost } }
    ∧ t.attrs.tMinute = s.attrs.tMinute

theorem loadAttrs_only (s : State) : OnlyAttrs s (loadAttrs s) := by
  unfold loadAttrs
  split <;> exact ⟨rfl, rfl⟩

theorem keepAttrs_only (s : State) : OnlyAttrs s (keepAttrs s) := ⟨rfl, rfl⟩

/-- What loading the tables leaves: everything but the tables and the stations (R201). -/
theorem loadTables_only (s : State) :
    loadTables s = { s with tables := (loadTables s).tables, stations := (loadTables s).stations } := by
  unfold loadTables
  split <;> rfl

theorem loadTables_from (s : State) : TablesFrom s.store.tablesRegion (loadTables s) := by
  unfold TablesFrom
  split <;> rename_i h <;> unfold loadTables <;> rw [h] <;> rfl

theorem loadTables_stations (s : State) : EntriesStarted s.now (loadTables s) := by
  intro e
  have h : (loadTables s).stations = (loadTables s).act.stations.map fun c =>
      if c.number = 0 then none else some (startedStation s.now c.timeout) := by
    unfold loadTables
    split <;> rfl
  show (loadTables s).stations[e.val] = _
  simp only [h, Vector.getElem_map]
  rfl

/-- What steps 3 to 5 leave of the state in which the frames before them have been taken (R201). -/
theorem startEnds {w a t : State} (ha : OnlyAttrs (loadTables w) a) (ht : t = finish (endStartUp a)) : StartEnds w t := by
  have hw := loadTables_only w
  have hk := endStartUp_kept a
  have hs := endStartUp_sources a
  have owed : (endStartUp a).statusOwed = true := rfl
  generalize endStartUp a = b at ht hk hs owed
  have hf : NoticeKept b t := ht ▸ finish_kept b
  have notice : t.statusOwed = true ∨ Inserted .status 63#8 8#4 t.statusFields t := ht ▸ finish_status owed
  have rest := hf.rest
  clear ht owed
  have source : ∀ c, c ≠ 37 → c ≠ 54 → c ≠ 55 → t.source c = (firstUpdates (startPoints a)).source c :=
    fun c h1 h2 h3 => by rw [source_congr (s := b) (by rw [rest]), hs.kept c h1 h2 h3]
  have tables : t.tables = (loadTables w).tables := by
    rw [rest]
    refine hk.tables.trans ?_
    show a.tables = _
    rw [ha.1]
  have stations : t.stations = (loadTables w).stations := by
    rw [rest]
    refine hk.stations.trans ?_
    show a.stations = _
    rw [ha.1]
  have ring : a.ring = w.ring := by rw [ha.1, hw]
  have attrs : t.attrs = (startMinute a).attrs := by rw [rest]; exact hk.attrs
  have wa : a.alarm = w.alarm := by rw [ha.1, hw]
  have wn : a.now = w.now := by rw [ha.1, hw]
  have wstore : a.store = { w.store with attrsLost := a.store.attrsLost } := by rw [ha.1, hw]
  refine ⟨?_, ?_, ⟨fun e => ?_, fun i => ?_⟩, ?_, ?_, ?_, ?_, ?_, ?_, ?_, fun c => ?_, ?_, ?_, ?_, ?_, ?_, fun _ => ?_, ?_⟩
  · unfold TablesFrom
    rw [tables]
    exact loadTables_from w
  · intro e
    have h := loadTables_stations w e
    rw [State.act] at h ⊢
    rw [tables, stations]
    exact h
  · have he := e.isLt
    rw [source _ (by omega) (by omega) (by omega), firstUpdates_station]
    have h := loadTables_stations w e
    have hst : (startPoints a).stations = (loadTables w).stations := by
      show a.stations = _
      rw [ha.1]
    have hsrc : (startPoints a).source (38 + e.val) = w.source (38 + e.val) :=
      source_congr (s := w) (by show a.alarm.sources = _; rw [wa]) _
    rw [State.act, tables, hst, hsrc, h]
    by_cases hn : ((loadTables w).act.stations[e]).number = 0
    · rw [if_pos hn, if_pos hn]
    · rw [if_neg hn, if_neg hn]
      rfl
  · have hi := i.isLt
    rw [source _ (by omega) (by omega) (by omega), firstUpdates_attr, attrs]
    rfl
  · rw [source _ (by omega) (by omega) (by omega), firstUpdates_refused]
    show ({ value := (a.counter .removedRefusedRef).toNat, valid := true } : Source) = _
    unfold State.counter
    rw [ring]
  · rw [rest]
    exact hk.now.trans wn
  · rw [rest]
    refine hk.pins.trans ?_
    show a.pins = _
    rw [ha.1, hw]
  · rw [hf.own, hk.own]
    show a.ring.own = _
    rw [ring]
  · rw [hf.fwd, hk.fwd]
    show a.ring.fwd = _
    rw [ring]
  · rw [hf.silence, hk.silence]
    show a.ring.silence = _
    rw [ring]
  · rw [hf.snapshot]
    have k := congrArg Ring.snapshot hk.ring
    refine Eq.trans k ?_
    show a.ring.snapshot = _
    rw [ring]
  · unfold State.counter
    rw [hf.counters, hk.counters]
    show a.ring.counters[c.idx] = _
    rw [ring]
  · rw [rest]
    refine hk.feedback.trans ?_
    show a.feedback = _
    rw [ha.1, hw]
  · rw [rest]
    refine hk.sensors.trans ?_
    show a.sensors = _
    rw [ha.1, hw]
  · rw [rest]
    refine hk.analog.trans ?_
    show a.analog = _
    rw [ha.1, hw]
  · rw [attrs]
    show some (a.now + Config.minuteMs) = _
    rw [wn]
    rfl
  · have e : t.store = a.store := by rw [rest]; exact hk.store
    rw [e]
    exact wstore
  · exact notice
  · rw [rest]
    refine hk.pending.trans ?_
    show a.pending = _
    rw [ha.1, hw]

end Sys2Proof.Machine
end

