-- ==== Sys2Proof/Laws/Conversions.lean ====
section
/-!
SUPPORT. The boom fatigue cycle of a conversion (R150, R153): what a conversion leaves of the wear records and of the
high mark is what the fatigue step makes of the records and the mark before it.
-/

namespace Sys2Proof.Machine

/-- What the fatigue step reads and writes beyond the sources. -/
structure SameCycle (ch : Fin 4) (s t : State) : Prop where
  attrs : t.attrs = s.attrs
  high : (t.analog[ch]).high = (s.analog[ch]).high
  tables : t.tables = s.tables
  freeIdx : t.freeIdx = s.freeIdx

theorem SameCycle.trans {ch : Fin 4} {a b c : State} (h : SameCycle ch a b) (k : SameCycle ch b c) : SameCycle ch a c :=
  ⟨k.attrs.trans h.attrs, k.high.trans h.high, k.tables.trans h.tables, k.freeIdx.trans h.freeIdx⟩

/-- What trips, source updates and changes of mode keep. -/
theorem TripKept.cycle {s t : State} (h : TripKept s t) (ch : Fin 4) : SameCycle ch s t :=
  ⟨h.attrs, by rw [h.analog], h.tables, h.freeIdx⟩

theorem setAin_cycle (ch : Fin 4) (r : AinRun) (s : State) (h : r.high = (s.analog[ch]).high) :
    SameCycle ch s (s.setAin ch r) := by
  refine ⟨rfl, ?_, rfl, rfl⟩
  show ((s.analog.set ch r)[ch]).high = _
  rw [Fin.getElem_fin, Vector.getElem_set_self]
  exact h

theorem directStep_cycle (ch : Fin 4) (n : Nat) (s : State) : SameCycle ch s (directStep ch n s) := by
  unfold directStep; dsimp only
  repeat' split
  · refine (setAin_cycle ch _ s ?_).trans ((handTrip_kept _ _).cycle ch)
    rfl
  · exact setAin_cycle ch _ s rfl
  · exact setAin_cycle ch _ s rfl
  · exact ⟨rfl, rfl, rfl, rfl⟩

/-- A conversion that is not discarded ends with the fatigue step on its scaled value, on a state with the records and the
mark of the one before; what follows it is the test of R33 at the end of settling and the building of notices. -/
theorem conversion_cycle (ch : Fin 4) (v w : Int) (s : State)
    (h : (s.analog[ch]).ready = true ∨ 49 ≤ (s.analog[ch]).settle) :
    ∃ u t, SameCycle ch s u ∧ exec (.conversionCompletion ch v w) s = .next t
      ∧ SameCycle ch (fatigueStep ch (scaledOf s.act.analog[ch]
          (rawOf v (if (s.act.analog[ch]).ref = .internal then 2500000 else w))) u) t := by
  have ref : State.reference { s with pins := { s.pins with ain := s.pins.ain.set ch v, extRef := w } } ch
      = if (s.act.analog[ch]).ref = .internal then 2500000 else w := by
    unfold State.reference
    dsimp only
    cases (s.act.analog[ch]).ref <;> rfl
  have fin : ∀ t, SameCycle ch t (finish t) := fun t => by
    have k := finish_onlyRing t
    generalize finish t = u at k ⊢
    rw [k]
    exact ⟨rfl, rfl, rfl, rfl⟩
  have run : ∀ (r n : _) (a : State), SameCycle ch s a → r = rawOf v n →
      ∃ u, SameCycle ch s u ∧ readyConversion ch r a = fatigueStep ch (scaledOf s.act.analog[ch] r) u := fun r n a k _ => by
    have e : a.act = s.act := by unfold State.act; rw [k.tables]
    refine ⟨_, ?_, by unfold readyConversion; dsimp only; rw [e]⟩
    refine k.trans ((setAin_cycle ch _ a ?_).trans ((directStep_cycle ch r _).trans ((feed_kept ..).cycle ch)))
    rfl
  show ∃ u t, SameCycle ch s u ∧ Host.Outcome.next (finish (convert ch v w s)) = .next t ∧ _
  unfold convert
  dsimp only
  rw [ref]
  split
  · obtain ⟨u, k, e⟩ := run _ _ { s with pins := { s.pins with ain := s.pins.ain.set ch v, extRef := w } }
      ⟨rfl, rfl, rfl, rfl⟩ rfl
    exact ⟨u, _, k, rfl, by rw [e]; exact fin _⟩
  · rename_i hr
    have hs : ¬(s.analog[ch]).settle + 1 < Config.settleConversions := by
      rcases h with h | h
      · exact absurd h hr
      · show ¬_ < 50
        omega
    rw [if_neg hs]
    have a : SameCycle ch s { s with pins := { s.pins with ain := s.pins.ain.set ch v, extRef := w } } :=
      ⟨rfl, rfl, rfl, rfl⟩
    have b : SameCycle ch s (State.setAin { s with pins := { s.pins with ain := s.pins.ain.set ch v, extRef := w } } ch
        { (s.analog[ch]) with settle := Config.settleConversions, ready := true }) := by
      refine a.trans (setAin_cycle ch _ _ ?_)
      rfl
    obtain ⟨u, k, e⟩ := run _ _ _ b rfl
    exact ⟨u, _, k, rfl, by rw [e]; exact ((initTest_kept _).cycle ch).trans (fin _)⟩

end Sys2Proof.Machine
end

