-- ==== Sys2Proof/Laws/Finals.lean ====
section
/-!
SUPPORT. The final References of a test segment (R185) and what follows them (R186), and the slip as R185 words it.
-/

namespace Sys2Proof.Machine

/-! The slip. -/

theorem slipOf_words (a b : Pair Nat) :
    slipOf .hoist a b = ((a.first : Int) - b.first).natAbs ∧ slipOf .drag a b = ((a.first : Int) - b.first).natAbs
      ∧ (slipOf .swing a b : Int) = min (((a.first : Int) - b.first) % 3600) (((b.first : Int) - a.first) % 3600)
      ∧ slipOf .walk a b = max ((a.first : Int) - b.first).natAbs ((a.second : Int) - b.second).natAbs := by
  refine ⟨?_, ?_, ?_, ?_⟩
  · unfold slipOf; dsimp only; omega
  · unfold slipOf; dsimp only; omega
  · unfold slipOf separation; dsimp only
    rw [← angleDiff_mod, ← angleDiff_mod]
    omega
  · unfold slipOf; dsimp only; omega

/-! OUT while it is sending. -/

/-- What OUT sends, the own station number and the tables stand. -/
structure OutKept (s t : State) : Prop where
  sending : t.ring.sending = s.ring.sending
  own : t.ring.own = s.ring.own
  tables : t.tables = s.tables

theorem OutKept.refl (s : State) : OutKept s s := ⟨rfl, rfl, rfl⟩

theorem OutKept.trans {a b c : State} (h : OutKept a b) (k : OutKept b c) : OutKept a c :=
  ⟨k.sending.trans h.sending, k.own.trans h.own, k.tables.trans h.tables⟩

theorem OutKept.of_kept {s t : State} (h : TripKept s t) : OutKept s t := ⟨h.sending, h.own, h.tables⟩

theorem joinInsert_busy (e : InsEntry) {s : State} (h : s.ring.sending ≠ none) :
    joinInsert e s = { s with ring := { s.ring with ins := insertEntry e s.ring.ins } } := by
  unfold joinInsert chooseIfIdle
  rw [if_neg]
  intro k
  exact h (Option.isNone_iff_eq_none.mp k)

theorem handTest_busy (x : Axis) (v : Int) (q : Nat) {s : State} (h : s.ring.sending ≠ none) :
    OutKept s (handTest x v q s) := by
  unfold handTest handTestRef
  split
  · rw [joinInsert_busy _ (by exact h)]; constructor <;> rfl
  · exact .refl s

theorem endTest_out (st : TestStatus) (c : Option Chan) (s : State) : OutKept s (endTest st c s) := by
  unfold endTest
  dsimp only
  split
  · exact .of_kept ((endRecord_kept st c s).trans (changeMode_kept .parked _))
  · exact .of_kept (endRecord_kept st c s)

theorem periodicTest_busy (c : Chan) {s : State} (h : s.ring.sending ≠ none) : OutKept s (periodicTest c s) := by
  unfold periodicTest
  dsimp only
  split
  · refine OutKept.trans ?_ (handTest_busy _ _ _ ?_)
    · constructor <;> rfl
    · exact h
  · exact handTest_busy _ _ _ h

theorem beginSegment_busy {s : State} (h : s.ring.sending ≠ none) : OutKept s (beginSegment s) := by
  unfold beginSegment
  split
  · exact .refl s
  · split
    · refine OutKept.trans ?_ (periodicTest_busy _ ?_)
      · constructor <;> rfl
      · exact h
    · exact endTest_out ..

theorem segmentBegin_busy {s : State} (h : s.ring.sending ≠ none) : OutKept s (segmentBegin s) := by
  unfold segmentBegin
  split
  · exact beginSegment_busy h
  · exact .refl s

theorem secondFinal_busy {s : State} (h : s.ring.sending ≠ none) : OutKept s (secondFinal s) := by
  unfold secondFinal
  repeat' split
  · exact .refl s
  · refine OutKept.trans ?_ (handTest_busy _ _ _ ?_)
    · constructor <;> rfl
    · exact h
  · exact .refl s

theorem testPoll_busy {s : State} (h : s.ring.sending ≠ none) : OutKept s (testPoll s) := by
  have k := secondFinal_busy h
  exact k.trans (segmentBegin_busy (by rw [k.sending]; exact h))

/-- While a test Reference is queued the tester waits for OUT (R185, R186). -/
theorem testPoll_queued {s : State} (h : s.testQueued = true) : testPoll s = s := by
  have k : secondFinal s = s := by
    unfold secondFinal
    split
    · rw [if_pos h]
    · rfl
  unfold testPoll segmentBegin
  rw [k, if_neg]
  rintro ⟨_, _, k, _⟩
  rw [h] at k; cases k

/-! A test Reference out. -/

theorem TestRefOut.keep {x : Axis} {v : Int} {q : Nat} {s t : State} (h : TestRefOut x v q s) (k : s.tables = t.tables)
    (o : t.ring.own = s.ring.own) (i : t.ring.ins = s.ring.ins) (n : t.ring.sending = s.ring.sending) :
    TestRefOut x v q t := by
  unfold TestRefOut State.driveEntry State.act Inserted State.ownByte at *
  rw [o, i, n, ← k]
  exact h

/-- A test Reference that OUT is sending is out whatever joins the queues (R19). -/
theorem TestRefOut.busy {x : Axis} {v : Int} {q : Nat} {s t : State} (h : TestRefOut x v q s)
    (hq : s.testQueued = false) (k : OutKept s t) : TestRefOut x v q t := by
  obtain ⟨e, h1, h2⟩ := h
  refine ⟨e, by unfold State.driveEntry State.act at *; rw [k.tables]; exact h1, .inr ?_⟩
  rcases h2 with ⟨e', m, hc, _⟩ | ⟨f, hf, h2⟩
  · exfalso
    unfold State.testQueued at hq
    rw [List.any_eq_false] at hq
    exact hq e' m (by unfold InsEntry.isTest; rw [hc]; rfl)
  · refine ⟨f, k.sending.trans hf, ?_⟩
    unfold State.act State.ownByte at *
    rw [k.tables, k.own]
    exact h2

theorem TestRefOut.finish {x : Axis} {v : Int} {q : Nat} {s : State} (h : TestRefOut x v q s) :
    TestRefOut x v q (finish s) := by
  obtain ⟨e, h1, h2⟩ := h
  refine ⟨e, by unfold State.driveEntry State.act at *; rw [finish_tables]; exact h1, ?_⟩
  have : (Machine.finish s).act = s.act := by unfold State.act; rw [finish_tables]
  rw [this]
  exact finish_inserted h2

theorem handTest_out (x : Axis) (v : Int) (q : Nat) {s : State} {e : Fin 16} (h : s.driveEntry x = some e) :
    TestRefOut x v q (handTest x v q s) := by
  have ht : (handTest x v q s).tables = s.tables := by
    unfold handTest
    rw [h]
    dsimp only
    unfold handTestRef
    rw [(joinInsert_kept _ _).rest]
  refine ⟨e, by unfold State.driveEntry State.act at *; rw [ht]; exact h, ?_⟩
  unfold State.act
  rw [ht]
  unfold handTest
  rw [h]
  dsimp only
  unfold handTestRef
  exact joinInsert_self (e := { cls := .testRef, dst := _, src := _, kind := 1#4, life := _, payload := _ }) rfl

theorem insertEntry_any (e : InsEntry) (h : e.isTest = true) : ∀ l, (insertEntry e l).any InsEntry.isTest = true := by
  intro l
  exact List.any_eq_true.mpr ⟨e, mem_insertEntry e l, h⟩

theorem isTest_rank {e : InsEntry} (h : e.isTest = false) : 0 < e.cls.rank := by
  unfold InsEntry.isTest at h
  unfold InsClass.rank
  cases hc : e.cls <;> simp_all

/-- A test Reference handed while OUT is sending is queued (R17). -/
theorem handTest_busy_queued (x : Axis) (v : Int) (q : Nat) {s : State} {e : Fin 16} (h : s.driveEntry x = some e)
    (k : s.ring.sending ≠ none) : (handTest x v q s).testQueued = true := by
  unfold handTest handTestRef
  rw [h]
  dsimp only
  rw [joinInsert_busy _ (by exact k)]
  exact insertEntry_any _ rfl _

/-- A test Reference handed while OUT is idle and no frame waits to be forwarded is taken at once (R17, R19). -/
theorem handTest_idle_taken (x : Axis) (v : Int) (q : Nat) {s : State} {e : Fin 16} (h : s.driveEntry x = some e)
    (k : s.ring.sending = none) (f : s.ring.fwd = []) : (handTest x v q s).testQueued = false := by
  unfold handTest handTestRef joinInsert chooseIfIdle
  rw [h]
  dsimp only
  rw [if_pos (by rw [k]; rfl)]
  have hall : ∀ y ∈ s.ring.ins.filter (fun x => !x.isTest), y.isTest = false := fun y hy => by
    simpa using (List.mem_filter.mp hy).2
  generalize s.ring.ins.filter (fun x => !x.isTest) = l at hall ⊢
  unfold choose
  dsimp only
  rw [f]
  have hl : ∀ z : InsEntry, z.cls = .testRef → insertEntry z l = z :: l := by
    intro z hz
    cases l with
    | nil => rfl
    | cons y l =>
      unfold insertEntry
      rw [if_pos]
      rw [hz]
      exact isTest_rank (hall y (by simp))
  rw [hl _ rfl]
  dsimp only [List.isEmpty_nil, Bool.true_or, if_true]
  unfold State.testQueued
  rw [List.any_eq_false]
  intro y hy
  rw [hall y hy]
  decide

theorem handTest_tester (x : Axis) (v : Int) (q : Nat) (s : State) : (handTest x v q s).tester = s.tester := by
  unfold handTest handTestRef
  split
  · rw [(joinInsert_kept _ _).rest]
  · rfl

theorem buildOne_queued {s : State} (h : s.testQueued = true) (k : s.ring.sending ≠ none) :
    (buildOne s).testQueued = true ∧ (buildOne s).ring.sending ≠ none := by
  have one : ∀ e (b : State), b.ring = s.ring → (joinInsert e b).testQueued = true
      ∧ (joinInsert e b).ring.sending ≠ none := by
    intro e b hb
    rw [joinInsert_busy _ (by rw [hb]; exact k), hb]
    refine ⟨?_, k⟩
    unfold State.testQueued at *
    obtain ⟨y, hy, hy'⟩ := List.any_eq_true.mp h
    exact List.any_eq_true.mpr ⟨y, mem_insertEntry_of_mem hy, hy'⟩
  unfold buildOne
  repeat' split
  all_goals first | exact ⟨h, k⟩ | exact one _ _ rfl

/-- Notices built while OUT is sending leave a queued test Reference queued (R18, R19). -/
theorem finish_queued {s : State} (h : s.testQueued = true) (k : s.ring.sending ≠ none) :
    (finish s).testQueued = true := by
  have : ∀ n s, s.testQueued = true → s.ring.sending ≠ none → (buildNotices n s).testQueued = true := by
    intro n
    induction n with
    | zero => exact fun _ h _ => h
    | succ n ih =>
      intro s h k
      have o := buildOne_queued h k
      exact ih _ o.1 o.2
  exact this 16 s h k

theorem finalTest_busy (c : Chan) {s : State} (h : s.ring.sending ≠ none) : OutKept s (finalTest c s) := by
  unfold finalTest
  dsimp only
  split
  · refine OutKept.trans ?_ (handTest_busy _ _ _ ?_)
    · constructor <;> rfl
    · exact h
  · exact handTest_busy _ _ _ h

/-- A segment's beginning leaves the second final Reference as it was, or as the ending of the test does (R183). -/
theorem segmentBegin_secondFinal {s : State}
    (h : s.tester.status ≠ .inProgress ∨ (s.mode = .testing ∧ s.heldTrips = [])) :
    (segmentBegin s).tester.secondFinal = s.tester.secondFinal := by
  unfold segmentBegin
  split
  · rename_i hc
    rcases h with h | ⟨h1, h2⟩
    · exact absurd hc.1 h
    · unfold beginSegment
      split
      · rfl
      · split
        · unfold periodicTest
          dsimp only
          split <;> rw [handTest_tester]
        · unfold endTest
          dsimp only
          rw [if_pos (by exact h1), (parked_from_testing (by exact h1) (by exact h2) rfl).2]
          rfl
  · rfl

/-- A final Reference handed touches the ring interface and the tester alone (R185). -/
theorem finalTest_rest (c : Chan) (s : State) :
    finalTest c s = { s with ring := (finalTest c s).ring, tester := (finalTest c s).tester } := by
  have h : ∀ x b, handTest x 0 0 b = { b with ring := (handTest x 0 0 b).ring } := by
    intro x b
    unfold handTest handTestRef joinInsert
    split
    · rw [chooseIfIdle_rest]
    · rfl
  unfold finalTest
  dsimp only
  rw [h]
  split <;> rfl

/-- A test that ends in TESTING with no trip held leaves the ring interface, the tables and a second final Reference not
yet built (R189). -/
theorem endTest_quiet (st : TestStatus) (c : Option Chan) {s : State} (h : s.mode = .testing) (k : s.heldTrips = []) :
    (endTest st c s).ring = s.ring ∧ (endTest st c s).tables = s.tables
      ∧ (endTest st c s).tester.secondFinal = s.tester.secondFinal ∧ (endTest st c s).tester.status = st := by
  unfold endTest
  dsimp only
  rw [if_pos (by exact h), (parked_from_testing (by exact h) (by exact k) rfl).2]
  exact ⟨rfl, rfl, rfl, rfl⟩

/-- What the final test Reference of a segment leaves when the segment's end and the next one's wait are past (R185,
R186): `d` is the state in which the tester looks to OUT. -/
theorem finalTest_out {s a d : State} {c : Chan} (ha : a.tester.walkTurn = s.tester.walkTurn)
    (ht : a.tables = s.tables) (hs : a.ring.sending = s.ring.sending) (hf : a.ring.fwd = s.ring.fwd)
    (hd : d.ring = (finalTest c a).ring) (hdt : d.tables = s.tables)
    (hd2 : d.tester.secondFinal = (finalTest c a).tester.secondFinal)
    (hend : (segmentBegin (secondFinal d)).tester.secondFinal = (secondFinal d).tester.secondFinal) :
    FinalReferenceOut s c (finish (testPoll d)) := by
  rintro x e rfl he
  have hx : a.testAxis c = s.testAxis c := by unfold State.testAxis; rw [ha]
  have key : ∀ b : State, b.tables = s.tables → b.ring = a.ring →
      d.ring = (handTest (s.testAxis c) 0 0 b).ring →
      TestRefOut (s.testAxis c) 0 0 d ∧ (s.ring.sending ≠ none → d.testQueued = true)
        ∧ (s.ring.sending = none → s.ring.fwd = [] → d.testQueued = false) := by
    intro b hb hr hdb
    have hbe : b.driveEntry (s.testAxis c) = some e := by
      unfold State.driveEntry State.act at *; rw [hb]; exact he
    have h1 := handTest_out (s.testAxis c) 0 0 hbe
    have h2 := handTest_busy_queued (s.testAxis c) 0 0 (s := b) hbe
    have h3 := handTest_idle_taken (s.testAxis c) 0 0 (s := b) hbe
    have htt : (handTest (s.testAxis c) 0 0 b).tables = s.tables := by
      unfold handTest
      rw [hbe]
      dsimp only
      unfold handTestRef
      rw [(joinInsert_kept _ _).rest]
      exact hb
    rw [hr, hs] at h2
    rw [hr, hs, hf] at h3
    unfold State.testQueued at *
    rw [hdb]
    exact ⟨h1.keep (by rw [hdt, htt]) (by rw [hdb]) (by rw [hdb]) (by rw [hdb]), h2, h3⟩
  have kd : TestRefOut (s.testAxis c) 0 0 d ∧ (s.ring.sending ≠ none → d.testQueued = true)
      ∧ (s.ring.sending = none → s.ring.fwd = [] → d.testQueued = false) := by
    unfold finalTest at hd
    dsimp only at hd
    rw [hx] at hd
    refine key (if c = .walk then { a with tester := { a.tester with
      walkTurn := otherCam (s.testAxis c), secondFinal := some (otherCam (s.testAxis c)) } } else a) ?_ ?_ hd
    · split <;> exact ht
    · split <;> rfl
  obtain ⟨k1, k2, k3⟩ := kd
  have k4 : TestRefOut (s.testAxis c) 0 0 (testPoll d) := by
    cases hq : d.testQueued
    · refine k1.busy hq (testPoll_busy ?_)
      obtain ⟨_, _, h2⟩ := k1
      rcases h2 with ⟨e', m, hc, _⟩ | ⟨f, hf', _⟩
      · exfalso
        unfold State.testQueued at hq
        rw [List.any_eq_false] at hq
        exact hq e' m (by unfold InsEntry.isTest; rw [hc]; rfl)
      · rw [hf']; intro h; cases h
    · rw [testPoll_queued hq]; exact k1
  refine ⟨k4.finish, ?_⟩
  rintro rfl
  have h2 : d.tester.secondFinal = some (otherCam (s.testAxis .walk)) := by
    rw [hd2]
    unfold finalTest
    dsimp only
    rw [handTest_tester, hx]
    rfl
  constructor
  · intro hb
    have hq := k2 hb
    rw [testPoll_queued hq]
    refine ⟨by rw [finish_tester]; exact h2, finish_queued hq ?_⟩
    have hdr : d.ring.sending = (finalTest .walk a).ring.sending := by rw [hd]
    rw [hdr, (finalTest_busy .walk (s := a) (by rw [hs]; exact hb)).sending, hs]
    exact hb
  · intro hi hfw
    have hq := k3 hi hfw
    have hsec : secondFinal d = handTest (otherCam (s.testAxis .walk)) 0 0
        { d with tester := { d.tester with secondFinal := none } } := by
      unfold secondFinal
      rw [h2]
      dsimp only
      rw [if_neg (by rw [hq]; decide)]
    have hbusy : d.ring.sending ≠ none := by
      obtain ⟨_, _, h2⟩ := k1
      rcases h2 with ⟨e', m, hc, _⟩ | ⟨f, hf', _⟩
      · exfalso
        unfold State.testQueued at hq
        rw [List.any_eq_false] at hq
        exact hq e' m (by unfold InsEntry.isTest; rw [hc]; rfl)
      · rw [hf']; intro h; cases h
    refine ⟨?_, ?_⟩
    · rw [finish_tester]
      unfold testPoll
      rw [hend, hsec, handTest_tester]
    · rintro ⟨y, hy⟩
      have hy' : State.driveEntry { d with tester := { d.tester with secondFinal := none } }
          (otherCam (s.testAxis .walk)) = some y := by
        unfold State.driveEntry State.act at *
        show findEntry d.tables.active _ = _
        rw [hdt]; exact hy
      refine TestRefOut.finish ?_
      have hqq := handTest_busy_queued (otherCam (s.testAxis .walk)) 0 0 hy' (by exact hbusy)
      have hoo := handTest_out (otherCam (s.testAxis .walk)) 0 0 hy'
      unfold testPoll segmentBegin
      rw [hsec, if_neg]
      · exact hoo
      · rintro ⟨_, _, k, _⟩
        rw [hqq] at k; cases k

end Sys2Proof.Machine
end

