-- ==== Sys2Proof/Laws/Frames.lean ====
section
/-!
SUPPORT. Taking a frame at IN: a frame that passes R8 and R9 is dispatched in the state that `received` gives, an Operator
Action acts in `actedOn` and a Management Request is carried out in `admitted`.
-/

namespace Sys2Proof.Machine

/-- What counting a frame and restarting the silence timer leave (R8, R24). -/
theorem heard_kept (s : State) :
    TripKept { s with ring := { s.ring with counters := (heard s).ring.counters,
                                            silence := (heard s).ring.silence } } (heard s) := by
  have h : TripKept { bump .taken s with ring := { (bump .taken s).ring with silence := some (s.now + 50) } }
      (heard s) := by
    unfold heard silenceRestart; dsimp only
    split
    · exact feed_kept ..
    · exact .refl _
  rw [h.counters, h.silence]
  exact h

theorem heard_tables (s : State) : (heard s).tables = s.tables := (heard_kept s).tables
theorem heard_stations (s : State) : (heard s).stations = s.stations := (heard_kept s).stations
theorem heard_own (s : State) : (heard s).ring.own = s.ring.own := (heard_kept s).own
theorem heard_now (s : State) : (heard s).now = s.now := (heard_kept s).now
theorem heard_pending (s : State) : (heard s).pending = s.pending := (heard_kept s).pending

theorem heard_sourceRun (f : Frame) (s : State) : (heard s).sourceRun f = s.sourceRun f := by
  unfold State.sourceRun State.entryOf State.act
  rw [heard_stations, heard_tables]

/-- A frame that passes R8 and R9 is dispatched (R10). -/
theorem takeFrame_passes {f : Frame} {s : State} (h : s.passes f = true) :
    takeFrame (some f) s = dispatch f (received f s) := by
  unfold State.passes at h
  simp only [Bool.and_eq_true, bne_iff_ne, ne_eq] at h
  obtain ⟨⟨⟨⟨h1, h2⟩, h3⟩, h4⟩, h5⟩ := h
  have e3 : (f.src == (heard s).ownByte) = false := by
    unfold State.ownByte at h3 ⊢; rw [heard_own]; simpa using h3
  show checkFrame f (heard s) = _
  unfold checkFrame
  rw [e3]
  simp only [h1, h2, Bool.and_self, Bool.not_true, Bool.false_eq_true, if_false, h4]
  unfold received arrive
  rw [← heard_sourceRun] at h5
  unfold State.sourceRun at h5 ⊢
  cases he : (heard s).entryOf f.src with
  | none => rfl
  | some e =>
    rw [he] at h5
    simp only [Option.bind_some] at h5 ⊢
    cases hr : (heard s).stations[e] with
    | none => rfl
    | some r =>
      rw [hr] at h5
      simp only [Option.map_some, Bool.not_eq_eq_eq_not, Bool.not_true] at h5 ⊢
      simp only [h5, Bool.false_eq_true, if_false]

/-- An Operator Action taken by the M4 is handed to its block (R11). -/
theorem takeFrame_acts {f : Frame} {s : State} {a : Action} (hk : f.kind = 4#4) (hp : parseAction f.payload = some a)
    (h : s.acts f = true) : takeFrame (some f) s = act a (actedOn f s) := by
  unfold State.acts at h
  simp only [Bool.and_eq_true] at h
  obtain ⟨⟨h1, h2⟩, h3⟩ := h
  rw [takeFrame_passes h1]
  unfold dispatch
  unfold State.addressed at h2
  rw [if_pos h2, hk]
  show takeAction f (received f s) = _
  unfold takeAction
  unfold State.consoleOk at h3
  rw [if_pos h3, hp]
  rfl

/-- A Management Request that is admitted and may be sent is carried out (R11, R191). -/
theorem takeFrame_requests {f : Frame} {s : State} (hk : f.kind = 5#4) (h : s.requests f = true) :
    takeFrame (some f) s =
      match requestOf f with
      | some r => carryOut (s.asker f) r (admitted f s)
      | none => answer (s.asker f) .badRequest [] false (admitted f s) := by
  unfold State.requests at h
  simp only [Bool.and_eq_true, Bool.or_eq_true, decide_eq_true_eq] at h
  obtain ⟨⟨⟨h1, h2⟩, h3⟩, h4⟩ := h
  rw [takeFrame_passes h1]
  have hd : dispatch f (received f s) = takeRequest f (received f s) := by
    unfold dispatch
    by_cases ha : ((received f s).ownValid && f.dst == (received f s).ownByte) = true
    · rw [if_pos ha, hk]; rfl
    · rw [if_neg ha]
      have hg : (received f s).takesGeneralCall f = true := by
        rcases h2 with h2 | h2
        · exact absurd h2 ha
        · exact h2
      rw [if_pos hg]
  rw [hd]
  unfold takeRequest
  have hr : ¬ (received f s).freeCount < Config.requestRoom := by
    have : Config.requestRoom = 2 := rfl
    omega
  rw [if_neg hr]
  have h5 : (!(takeArrival f (received f s)).tables.valid || (takeArrival f (received f s)).hasRole f.src .manager) = true := h4
  dsimp only
  rw [if_pos h5]
  rfl

/-- A frame row takes the frame it spells (log 9). -/
theorem exec_row {i : Instr} {f : Frame} (h : rowFrame i = some f) (s : State) :
    exec i s = .next (finish (takeFrame (some f) s)) := by
  cases i <;> simp only [rowFrame, Option.some.injEq, reduceCtorEq] at h <;> subst h <;> rfl

end Sys2Proof.Machine
end

