-- ==== Sys2Proof/Laws/Levers.lean ====
section
/-!
SUPPORT. The standing-request stage (R74): what it leaves beyond its channel, the park timer, and what its lever does to a
running test (R187, R188).
-/

namespace Sys2Proof.Machine

theorem writeStanding_only (x : Axis) (f : BrakeReq) (s : State) : OnlyChan (chanOf x) s (writeStanding x f s) := by
  unfold writeStanding
  dsimp only
  repeat' split
  all_goals
    first
      | exact setChan_only ..
      | exact (setChan_only ..).trans (quietTest_only ..)

/-- What the lever of a console Reference leaves of a running test (R187, R188). -/
theorem testLever_taken {x : Axis} {lever : Int} {s u : State} (h : u = { s with brakes := u.brakes, statusOwed := u.statusOwed }) (hm : s.mode = .testing)
    (hr : s.testRuns = true) : LeverTaken s lever (s.tester.levers.set x lever) (testLever x lever u) := by
  have ht : u.tester = s.tester := by rw [h]
  have hr' : u.testRuns = true := by unfold State.testRuns at *; rw [ht]; exact hr
  unfold testLever
  rw [if_pos hr']
  dsimp only
  rw [ht]
  rw [h]
  have hz : ∀ l, State.leversZero { s with brakes := u.brakes, statusOwed := u.statusOwed
                                           tester := { s.tester with levers := l } } = true ↔ ∀ x, l.get x = 0 := by
    intro l
    unfold State.leversZero allAxes
    simp only [List.all_cons, List.all_nil, Bool.and_true, Bool.and_eq_true, beq_iff_eq]
    constructor
    · rintro ⟨a, b, c, d, e⟩ x; cases x <;> assumption
    · intro h; exact ⟨h _, h _, h _, h _, h _⟩
  generalize s.tester.levers.set x lever = l
  refine ⟨?_, ?_, ?_, ?_, ?_⟩
  · intro h1 h2
    rw [if_pos h1, if_pos h2]
  · intro h1 h2 h3 h4
    rw [if_pos h1, if_neg h2, if_pos h3]
    unfold abortTest
    obtain ⟨⟨rs, e1, e2⟩, e3⟩ := endTest_ended .abortedOperator none
      (s := withdrawTest { s with brakes := u.brakes, statusOwed := u.statusOwed
                                  tester := { s.tester with levers := l } }) hm h4 (rfl)
    have e4 : (endTest .abortedOperator none (withdrawTest
        { s with brakes := u.brakes, statusOwed := u.statusOwed, tester := { s.tester with levers := l } })).tester
          = (endRecord .abortedOperator none (withdrawTest
        { s with brakes := u.brakes, statusOwed := u.statusOwed, tester := { s.tester with levers := l } })).tester := by
      unfold endTest
      dsimp only
      rw [if_pos (by exact hm), (parked_from_testing (by exact hm) (by exact h4) rfl).2]
    generalize endTest _ _ _ = t at e2 e3 e4 ⊢
    refine ⟨⟨rs, e1, e2⟩, ?_, ?_, ?_, ?_, ?_⟩
    · rw [e3]; rfl
    · rw [e4]; rfl
    · rw [e4]; rfl
    · rw [e3]; rfl
    · rw [e3]; rfl
  · intro h1 h2 h3
    rw [if_pos h1, if_neg h2, if_neg (by rw [h3]; decide)]
    rfl
  · intro h1 h2
    rw [if_neg (by rw [h1]; decide), if_pos ((hz _).mpr h2)]
    cases s.tester.tResume <;> rfl
  · rintro h1 ⟨x, h2⟩
    rw [if_neg (by rw [h1]; decide), if_neg (fun e => h2 ((hz _).mp e x))]

/-- The park timer's restart by a lever (R44, R74). -/
theorem leverRestart_eq (lever : Int) (s : State) : leverRestart lever s =
    { s with ctl := { s.ctl with parkTimer := if s.mode = .dig ∧ lever ≠ 0 then
        (parkLength s.act.mode.parkCode).map (fun n => s.now + n) else s.ctl.parkTimer } } := by
  unfold leverRestart startPark
  split <;> rfl

/-- What the standing-request stage leaves (R74). -/
theorem standingStage_leaves {r : Ref} {v u : State} (h : u = standingStage r v) :
    (v.mode ≠ .testing →
      u = { v with brakes := u.brakes, ctl := { v.ctl with parkTimer := u.ctl.parkTimer }
                   statusOwed := u.statusOwed }
        ∧ u.ctl.parkTimer = (if v.mode = .dig ∧ r.lever.toInt ≠ 0 then
            (parkLength v.act.mode.parkCode).map (fun n => v.now + n) else v.ctl.parkTimer))
    ∧ (v.mode = .testing → v.testRuns = false → u = { v with brakes := u.brakes, statusOwed := u.statusOwed })
    ∧ (v.mode = .testing → v.testRuns = true →
        LeverTaken v r.lever.toInt (v.tester.levers.set r.axis r.lever.toInt) u) := by
  have hb := (writeStanding_only r.axis r.brake v).frame
  unfold standingStage at h
  dsimp only at h
  rw [leverRestart_eq] at h
  generalize writeStanding r.axis r.brake v = w at hb h
  have hm : w.mode = v.mode := by rw [hb]
  refine ⟨?_, ?_, ?_⟩
  · intro h1
    have : ¬ ({ w with ctl := { w.ctl with parkTimer := if w.mode = .dig ∧ r.lever.toInt ≠ 0 then
        (parkLength w.act.mode.parkCode).map (fun n => w.now + n) else w.ctl.parkTimer } } : State).mode = .testing := by
      show ¬ w.mode = .testing
      rw [hm]; exact h1
    rw [if_neg this] at h
    rw [hb] at h
    subst h
    exact ⟨rfl, rfl⟩
  all_goals
    intro h1 h2
    have hd : ¬v.mode = .dig := by rw [h1]; decide
    rw [if_pos (by show w.mode = _; rw [hm]; exact h1), if_neg (by rw [hm]; exact fun e => hd e.1)] at h
    subst h
  · unfold testLever
    rw [if_neg]
    · exact hb
    · rw [show State.testRuns w = v.testRuns by rw [hb]; rfl, h2]; decide
  · exact testLever_taken hb h1 h2

end Sys2Proof.Machine
end

