-- ==== Sys2Proof/Laws/Limits.lean ====
section
/-!
SUPPORT. What the walk limits make of a speed (R113 to R115), which cam leads (R107), and the raw value of a conversion
(R145).
-/

namespace Sys2Proof.Machine

/-- The raw value of a conversion (R145). -/
theorem rawValues : RawValues := by
  intro input ref
  unfold rawOf
  refine ⟨fun h => if_pos h, fun h k => ?_, fun h k => ?_⟩
  · rw [if_neg (by omega), if_pos k]
  · rw [if_neg (by omega), if_neg (by omega)]
    exact Int.toNat_of_nonneg (Int.ediv_nonneg (by omega) (by omega))

/-- The leading cam is the one that does not lag (R107). -/
theorem leading_iff (s : State) (y : Axis) : s.leading y = true ↔ ∃ lag, s.walk.lagging = some lag ∧ lag ≠ y := by
  unfold State.leading
  split <;> rename_i h <;> simp [h]

/-- A speed of 0 has nothing to lower. -/
theorem cappedBy_zero {e : Eval} (h : e.speed = 0) (cap : Option Nat) (c : Cause) : e.cappedBy cap c = e := by
  cases cap with
  | none => rfl
  | some n =>
    show e.capped n c = e
    unfold Eval.capped
    rw [if_neg (by omega)]

/-- A forward speed above a cap becomes the cap. -/
theorem capped_below {e : Eval} {n : Nat} {c : Cause} (h : 0 < e.speed) (k : n < e.speed.natAbs) :
    (e.capped n c).speed = n ∧ (e.capped n c).lower = c := by
  unfold Eval.capped capSpeed
  rw [if_pos k, if_pos k, Int.sign_eq_one_of_pos h]
  exact ⟨Int.one_mul _, rfl⟩

/-- The speed and the cause that the walk limits leave (R113 to R115). -/
theorem walkLimits_leave (s : State) (x : Axis) (e o : Eval) (hx : isCam x = true) (ho : o = limitStage x s e) :
    (e.speed = 0 → o = e)
    ∧ (e.speed < 0 → o.speed = 0 ∧ o.lower = .walkDirection)
    ∧ (0 < e.speed → ∀ (cap : Option SectorCfg) (m : Nat) (c : Cause),
        cap = s.sectorOf (s.feedback.get x).position →
        ((∃ sec, cap = some sec ∧ sec.cap < e.speed.natAbs ∧ m = sec.cap ∧ c = .walkPhase)
          ∨ ((∀ sec, cap = some sec → e.speed.natAbs ≤ sec.cap) ∧ m = e.speed.natAbs ∧ c = e.lower)) →
        ∀ (trims : Prop) (n : Nat),
          (trims ↔ ∃ k lag, s.walk.skew = some k ∧ s.act.walk.trimLimit < k ∧ s.walk.lagging = some lag ∧ lag ≠ x) →
          n = m * (100 - s.act.walk.trimPercent) / 100 →
          (¬trims → o.speed = m ∧ o.lower = c)
          ∧ (trims → o.speed = n ∧ (n < m → o.lower = .skewTrim) ∧ (m ≤ n → o.lower = c))
          ∧ (s.act.walk.trimPercent = 0 → o.speed = m ∧ o.lower = c))
    ∧ o.block = e.block ∧ o.torque = e.torque ∧ o.brake = e.brake := by
  subst ho
  by_cases h0 : e.speed = 0
  · have hl : limitStage x s e = e := by unfold limitStage; rw [if_pos h0]
    rw [hl]
    exact ⟨fun _ => rfl, fun h => by omega, fun h => by omega, rfl, rfl, rfl⟩
  have hl : limitStage x s e = walkLimits x s e := by
    unfold limitStage
    rw [if_neg h0]
    cases x <;> first | rfl | cases hx
  rw [hl]
  refine ⟨fun h => absurd h h0, fun h => ?_, fun h cap m c hcap hm trims n ht hn => ?_, ?_⟩
  · unfold walkLimits
    dsimp only
    rw [if_pos h]
    have hz : (e.capped 0 .walkDirection).speed = 0 := by
      unfold Eval.capped capSpeed
      rw [if_pos (by omega)]
      simp
    have hd : (e.capped 0 .walkDirection).lower = .walkDirection := by
      unfold Eval.capped
      rw [if_pos (by omega)]
    rw [cappedBy_zero hz, cappedBy_zero hz]
    exact ⟨hz, hd⟩
  · unfold walkLimits
    dsimp only
    rw [if_neg (by omega), ← hcap]
    generalize hf : e.cappedBy (cap.map fun c => c.cap) .walkPhase = f
    have hf' : f.speed = m ∧ f.lower = c := by
      subst hf
      rcases hm with ⟨sec, rfl, k, rfl, rfl⟩ | ⟨k, rfl, rfl⟩
      · exact capped_below h k
      · cases cap with
        | none => exact ⟨by show e.speed = _; omega, rfl⟩
        | some sec =>
          have k := k sec rfl
          show (e.capped sec.cap .walkPhase).speed = _ ∧ (e.capped sec.cap .walkPhase).lower = _
          unfold Eval.capped
          rw [if_neg (by omega)]
          exact ⟨by omega, rfl⟩
    rw [hf'.1]
    have hp : (m : Int).natAbs = m := rfl
    have some_or : s.trimCap x (m : Int) = none ∧ ¬trims ∨ s.trimCap x (m : Int) = some n ∧ trims := by
      rw [ht, hn]
      unfold State.trimCap
      split
      · rename_i k hk
        split
        · rename_i hc
          obtain ⟨lag, h1, h2⟩ := (leading_iff s x).mp hc.2
          exact .inr ⟨rfl, k, lag, hk, hc.1, h1, h2⟩
        · rename_i hc
          refine .inl ⟨rfl, fun ⟨j, lag, e1, h1, h2, h3⟩ => hc ?_⟩
          cases hk.symm.trans e1
          exact ⟨h1, (leading_iff s x).mpr ⟨lag, h2, h3⟩⟩
      · rename_i hk
        exact .inl ⟨rfl, fun ⟨j, lag, e1, _⟩ => by cases hk.symm.trans e1⟩
    rcases some_or with ⟨tr, no⟩ | ⟨tr, yes⟩
    · rw [tr]
      exact ⟨fun _ => hf', fun y => absurd y no, fun _ => hf'⟩
    · rw [tr]
      have whole : s.act.walk.trimPercent = 0 → n = m := fun k => by rw [hn, k]; omega
      by_cases lt : n < m
      · have k := capped_below (e := f) (n := n) (c := .skewTrim) (by omega) (by omega)
        refine ⟨fun no => absurd yes no, fun _ => ⟨k.1, fun _ => k.2, fun _ => by omega⟩, fun z => ?_⟩
        have := whole z
        omega
      · have k : f.cappedBy (some n) .skewTrim = f := by
          show f.capped n .skewTrim = f
          unfold Eval.capped
          rw [if_neg (by omega)]
        have le : n ≤ m := by
          rw [hn]
          exact (Nat.div_le_div_right (Nat.mul_le_mul_left m (Nat.sub_le 100 _))).trans_eq (Nat.mul_div_cancel m (by omega))
        rw [k]
        exact ⟨fun no => absurd yes no, fun _ => ⟨by omega, fun _ => by omega, fun _ => hf'.2⟩, fun _ => hf'⟩
  · have cb : ∀ (e : Eval) (cap : Option Nat) (c : Cause), (e.cappedBy cap c).block = e.block
        ∧ (e.cappedBy cap c).torque = e.torque ∧ (e.cappedBy cap c).brake = e.brake := by
      intro e cap c
      cases cap with
      | none => exact ⟨rfl, rfl, rfl⟩
      | some n =>
        show (e.capped n c).block = _ ∧ (e.capped n c).torque = _ ∧ (e.capped n c).brake = _
        unfold Eval.capped
        split <;> exact ⟨rfl, rfl, rfl⟩
    unfold walkLimits
    dsimp only
    simp only [cb]
    split
    · exact cb e (some 0) .walkDirection
    · exact ⟨rfl, rfl, rfl⟩

end Sys2Proof.Machine
end

