-- ==== Sys2Proof/Laws/Parsers.lean ====
section
/-!
SUPPORT. Which bytes are a frame and which payloads are well formed, with what they read as (R2 to R6), and what the
look-ups in the station table find.
-/

namespace Sys2Proof.Machine

/-! Two-byte fields. -/

theorem halfOf_bytes (h : Half) : halfOf (h.extractLsb' 8 8) (h.extractLsb' 0 8) = h := by
  unfold halfOf
  apply BitVec.eq_of_getLsbD_eq
  intro i hi
  simp only [BitVec.getLsbD_append, BitVec.getLsbD_extractLsb']
  split
  · simp_all
  · rename_i c
    simp_all
    omega

theorem bytes_halfOf (hi lo : Byte) : Half.bytes (halfOf hi lo) = [hi, lo] := by
  unfold Half.bytes halfOf
  rw [BitVec.extractLsb'_append_eq_of_le (by omega), BitVec.extractLsb'_append_eq_of_add_le (by omega)]
  simp

/-- The bytes of a number are those it is written with. -/
theorem byte_eq_iff (b : Byte) {n : Nat} (h : n < 256) : b = BitVec.ofNat 8 n ↔ b.toNat = n := by
  rw [← BitVec.toNat_inj, BitVec.toNat_ofNat, Nat.mod_eq_of_lt h]

/-! References (R4). -/

theorem axisOfCode_iff (b : Byte) (x : Axis) : axisOfCode b = some x ↔ AxisNamed b x := by
  unfold axisOfCode AxisNamed
  simp only [byte_eq_iff, Nat.reduceLT]
  split <;> rename_i h <;> first | (simp [h, eq_comm]; done) | simp_all

theorem brakeOfCode_iff (b : Byte) (q : BrakeReq) : brakeOfCode b = some q ↔
    (b = 0#8 ∧ q = .hold) ∨ (b = 1#8 ∧ q = .release) ∨ (b = 2#8 ∧ q = .releaseAutoset) := by
  unfold brakeOfCode
  simp only [byte_eq_iff, Nat.reduceLT]
  split <;> rename_i h <;> first | (simp [h, eq_comm]; done) | simp_all

theorem inMille_iff (v : Int) : inMille v = true ↔ -1000 ≤ v ∧ v ≤ 1000 := by simp [inMille]

/-- The nine bytes of a Reference, with its fields (R4). -/
theorem parseRef_bytes (a b l1 l0 s1 s0 t1 t0 c : Byte) (r : Ref) :
    parseRef [a, b, l1, l0, s1, s0, t1, t0, c] = some r
      ↔ RefReads { axis := a, brake := b, lever := halfOf l1 l0, speed := halfOf s1 s0, torque := halfOf t1 t0
                   cause := c } r := by
  obtain ⟨x, q, lever, speed, torque⟩ := r
  unfold RefReads
  dsimp only
  rw [← axisOfCode_iff, ← brakeOfCode_iff]
  unfold parseRef
  dsimp only
  split
  · rename_i y p hy hp
    rw [hy, hp]
    split <;> rename_i h <;> simp only [Bool.and_eq_true, decide_eq_true_eq, inMille_iff] at h
    · simp only [Option.some.injEq, Ref.mk.injEq]
      constructor
      · rintro ⟨rfl, rfl, rfl, rfl, rfl⟩
        exact ⟨rfl, rfl, rfl, rfl, rfl, h.1.1.1, h.1.1.2, h.1.2, h.2⟩
      · rintro ⟨rfl, rfl, rfl, rfl, rfl, _⟩
        exact ⟨rfl, rfl, rfl, rfl, rfl⟩
    · constructor
      · intro e; cases e
      · rintro ⟨_, _, _, _, _, h1, h2, h3, h4⟩
        exact absurd ⟨⟨⟨h1, h2⟩, h3⟩, h4⟩ h
  · rename_i h
    constructor
    · intro e; cases e
    · rintro ⟨hx, hq, _⟩
      exact absurd hq (h _ _ hx)

/-- The bytes of a Reference's fields are read back as the fields (R4). -/
theorem parseRef_fields (w : RefWire) (r : Ref) : parseRef (refPayload w) = some r ↔ RefReads w r := by
  unfold refPayload Half.bytes
  simp only [List.cons_append, List.nil_append]
  rw [parseRef_bytes, halfOf_bytes, halfOf_bytes, halfOf_bytes]

/-- Which payloads are a Reference, and with which fields (R4). -/
theorem parseRef_iff (bs : List Byte) (r : Ref) : parseRef bs = some r ↔ ∃ w, RefBytes bs w ∧ RefReads w r := by
  constructor
  · intro h
    unfold parseRef at h
    split at h
    · rename_i a b l1 l0 s1 s0 t1 t0 c
      refine ⟨_, ?_, (parseRef_bytes a b l1 l0 s1 s0 t1 t0 c r).mp h⟩
      unfold RefBytes
      dsimp only
      rw [bytes_halfOf, bytes_halfOf, bytes_halfOf]
      rfl
    · cases h
  · rintro ⟨w, hb, hr⟩
    rw [show bs = refPayload w from hb]
    exact (parseRef_fields w r).mpr hr

/-! Drive Statuses (R5). -/

theorem driveBrakeOf_eq (b : Byte) (d : DriveBrake) : d = driveBrakeOf b ↔
    (b.toNat % 4 = 0 ∧ d = .set) ∨ (b.toNat % 4 = 1 ∧ d = .released) ∨ (b.toNat % 4 = 2 ∧ d = .transit)
      ∨ (b.toNat % 4 = 3 ∧ d = .fault) := by
  have e : (b.extractLsb' 0 2).toNat = b.toNat % 4 := by simp [BitVec.extractLsb'_toNat]
  unfold driveBrakeOf
  rw [e]
  have h : b.toNat % 4 = 0 ∨ b.toNat % 4 = 1 ∨ b.toNat % 4 = 2 ∨ b.toNat % 4 = 3 := by omega
  rcases h with h | h | h | h <;> simp [h]

theorem positionMax_eq (x : Axis) : positionMax x = if x = .hoist ∨ x = .drag then 3000 else 3599 := by
  cases x <;> rfl

/-- The ten bytes of a Drive Status, with its fields (R5). -/
theorem parseStatus_bytes (a st s1 s0 p1 p0 t1 t0 c1 c0 : Byte) (d : DriveStat) :
    parseStatus [a, st, s1, s0, p1, p0, t1, t0, c1, c0] = some d
      ↔ StatusReads { axis := a, status := st, speed := halfOf s1 s0, position := halfOf p1 p0, turns := halfOf t1 t0
                      current := halfOf c1 c0 } d := by
  obtain ⟨x, b, rdy, speed, pos, turns, cur⟩ := d
  have bits : (st.extractLsb' 2 5).toNat = st.toNat / 4 % 32 := by
    simp [BitVec.extractLsb'_toNat, Nat.shiftRight_eq_div_pow]
  have top : st.getLsbD 7 = true ↔ 128 ≤ st.toNat := by
    have := st.isLt
    simp only [BitVec.getLsbD, Nat.testBit, Nat.shiftRight_eq_div_pow]
    simp
    omega
  unfold StatusReads
  dsimp only
  rw [← axisOfCode_iff, ← driveBrakeOf_eq, ← positionMax_eq]
  unfold parseStatus
  dsimp only
  rw [bits]
  split
  · rename_i y hy
    rw [hy]
    have cam : isCam y = true ↔ y = .walkLeft ∨ y = .walkRight := by cases y <;> simp [isCam]
    split <;> rename_i h <;>
      simp only [Bool.and_eq_true, Bool.or_eq_true, decide_eq_true_eq, inMille_iff, cam] at h
    · simp only [Option.some.injEq, DriveStat.mk.injEq]
      constructor
      · rintro ⟨rfl, rfl, rfl, rfl, rfl, rfl, rfl⟩
        exact ⟨rfl, rfl, h.1.1.1.1.1, top, rfl, rfl, rfl, rfl, h.1.1.1.1.2, h.1.1.1.2, or_assoc.mp h.1.1.2,
          h.1.2, h.2⟩
      · rintro ⟨rfl, rfl, _, hr, rfl, rfl, rfl, rfl, _⟩
        exact ⟨rfl, rfl, by rw [Bool.eq_iff_iff, top, hr], rfl, rfl, rfl, rfl⟩
    · constructor
      · intro e; cases e
      · rintro ⟨e, _, h1, _, _, _, _, _, h2, h3, h4, h5, h6⟩
        cases e
        exact absurd ⟨⟨⟨⟨⟨h1, h2⟩, h3⟩, or_assoc.mpr h4⟩, h5⟩, h6⟩ h
  · rename_i h
    rw [h]
    constructor
    · intro e; cases e
    · rintro ⟨e, _⟩; cases e

/-- The bytes of a Drive Status's fields are read back as the fields (R5). -/
theorem parseStatus_fields (w : StatusWire) (d : DriveStat) : parseStatus (statusPayload w) = some d ↔ StatusReads w d := by
  unfold statusPayload Half.bytes
  simp only [List.cons_append, List.nil_append]
  rw [parseStatus_bytes, halfOf_bytes, halfOf_bytes, halfOf_bytes, halfOf_bytes]

/-- Which payloads are a Drive Status, and with which fields (R5). -/
theorem parseStatus_iff (bs : List Byte) (d : DriveStat) :
    parseStatus bs = some d ↔ ∃ w, StatusBytes bs w ∧ StatusReads w d := by
  constructor
  · intro h
    unfold parseStatus at h
    split at h
    · rename_i a st s1 s0 p1 p0 t1 t0 c1 c0
      refine ⟨_, ?_, (parseStatus_bytes a st s1 s0 p1 p0 t1 t0 c1 c0 d).mp h⟩
      unfold StatusBytes
      dsimp only
      rw [bytes_halfOf, bytes_halfOf, bytes_halfOf, bytes_halfOf]
      rfl
    · cases h
  · rintro ⟨w, hb, hr⟩
    rw [show bs = statusPayload w from hb]
    exact (parseStatus_fields w d).mpr hr

/-! Sensor Reports (R6). -/

/-- The bytes of a Sensor Report's pairs. -/
def pairBytes (ps : List (Byte × Half)) : List Byte := ps.flatMap fun p => p.1 :: Half.bytes p.2

theorem pairBytes_length (ps : List (Byte × Half)) : (pairBytes ps).length = 3 * ps.length := by
  induction ps with
  | nil => rfl
  | cons p ps ih =>
    show (p.1 :: Half.bytes p.2 ++ pairBytes ps).length = _
    simp [Half.bytes, ih]; omega

/-- The pairs read back from their bytes (R6). -/
theorem parsePairs_fields (ps : List (Byte × Half)) : ∀ l : List (Fin 16 × Int), parsePairs (pairBytes ps) = some l ↔
    ps.map (fun p => (p.1.toNat, p.2.toInt)) = l.map fun q => (q.1.val, q.2) := by
  induction ps with
  | nil => intro l; cases l <;> simp [pairBytes, parsePairs]
  | cons p ps ih =>
    intro l
    obtain ⟨ch, v⟩ := p
    show parsePairs (ch :: v.extractLsb' 8 8 :: v.extractLsb' 0 8 :: pairBytes ps) = _ ↔ _
    unfold parsePairs
    rw [halfOf_bytes]
    split
    · rename_i h
      cases e : parsePairs (pairBytes ps) with
      | none =>
        constructor
        · intro k; cases k
        · intro k
          cases l with
          | nil => simp at k
          | cons q l =>
            simp only [List.map_cons, List.cons.injEq] at k
            rw [← ih, e] at k
            cases k.2
      | some m =>
        have hm := (ih m).mp e
        cases l with
        | nil => simp
        | cons q l =>
          obtain ⟨c, n⟩ := q
          simp only [Option.some.injEq, List.cons.injEq, List.map_cons, Prod.mk.injEq]
          rw [← ih l, e, Option.some.injEq]
          constructor
          · rintro ⟨⟨rfl, rfl⟩, rfl⟩; exact ⟨⟨rfl, rfl⟩, rfl⟩
          · rintro ⟨⟨h1, rfl⟩, rfl⟩; exact ⟨⟨Fin.ext h1, rfl⟩, rfl⟩
    · rename_i h
      constructor
      · intro k; cases k
      · intro k
        cases l with
        | nil => simp at k
        | cons q l =>
          simp only [List.map_cons, List.cons.injEq, Prod.mk.injEq] at k
          exact absurd (k.1.1 ▸ q.1.isLt) h

theorem parsePairs_some (bs : List Byte) : ∀ l, parsePairs bs = some l → ∃ ps, bs = pairBytes ps := by
  induction bs using parsePairs.induct with
  | case1 => exact fun _ _ => ⟨[], rfl⟩
  | case2 ch hi lo rest _ m hm ih =>
    intro _ _
    obtain ⟨ps, rfl⟩ := ih m hm
    refine ⟨(ch, halfOf hi lo) :: ps, ?_⟩
    show _ = ch :: Half.bytes (halfOf hi lo) ++ pairBytes ps
    rw [bytes_halfOf]
    rfl
  | case3 ch hi lo rest h hm _ =>
    intro l hl
    unfold parsePairs at hl
    rw [dif_pos h, hm] at hl
    cases hl
  | case4 ch hi lo rest h =>
    intro l hl
    unfold parsePairs at hl
    rw [dif_neg h] at hl
    cases hl
  | case5 bs h1 h2 =>
    intro l hl
    unfold parsePairs at hl
    split at hl
    · exact absurd rfl h1
    · exact (h2 _ _ _ _ rfl).elim
    · cases hl

/-- The bytes of a Sensor Report's pairs are read back as the pairs (R6). -/
theorem parseReport_fields (ps : List (Byte × Half)) (l : List (Fin 16 × Int)) :
    parseReport (pairBytes ps) = some l ↔ PairsRead ps l := by
  unfold parseReport PairsRead
  rw [pairBytes_length, ← parsePairs_fields]
  split <;> rename_i h
  · exact ⟨fun k => ⟨by omega, by omega, k⟩, fun k => k.2.2⟩
  · constructor
    · intro k; cases k
    · rintro ⟨h1, h2, _⟩; omega

/-- Which payloads are a Sensor Report, and with which pairs (R6). -/
theorem parseReport_iff (bs : List Byte) (l : List (Fin 16 × Int)) :
    parseReport bs = some l ↔ ∃ ps, bs = pairBytes ps ∧ PairsRead ps l := by
  constructor
  · intro h
    have k : ∃ ps, bs = pairBytes ps := by
      unfold parseReport at h
      split at h
      · exact parsePairs_some bs l h
      · cases h
    obtain ⟨ps, rfl⟩ := k
    exact ⟨ps, rfl, (parseReport_fields ps l).mp h⟩
  · rintro ⟨ps, rfl, h⟩
    exact (parseReport_fields ps l).mpr h

/-! Operator Actions (R6). -/

/-- A code above 7 is no action (R6). -/
theorem parseAction_unknown {code : Byte} (args : List Byte) (h : 8 ≤ code.toNat) : parseAction (code :: args) = none := by
  obtain ⟨n, hn⟩ : ∃ n, code.toNat = n + 8 := ⟨code.toNat - 8, by omega⟩
  unfold parseAction
  dsimp only
  rw [hn]
  rcases args with _ | ⟨_, _ | ⟨_, _ | ⟨_, _ | ⟨_, _⟩⟩⟩⟩ <;> rfl

/-- The action in a well-formed payload is the one its bytes ask for (R6). -/
theorem parseAction_reads (bs : List Byte) (a : Action) (h : parseAction bs = some a) : ActionReads bs a := by
  rcases bs with _ | ⟨code, args⟩
  · cases h
  by_cases hc : 8 ≤ code.toNat
  · rw [parseAction_unknown args hc] at h; cases h
  obtain hc | hc | hc | hc | hc | hc | hc | hc : code.toNat = 0 ∨ code.toNat = 1 ∨ code.toNat = 2 ∨ code.toNat = 3
      ∨ code.toNat = 4 ∨ code.toNat = 5 ∨ code.toNat = 6 ∨ code.toNat = 7 := by omega
  all_goals obtain rfl := (byte_eq_iff code (by omega)).mpr hc
  · rcases args with _ | ⟨t, _ | ⟨_, _⟩⟩
    · cases h
    · change (match t.toNat with
        | 0 => some (Action.modeRequest .park)
        | 1 => some (.modeRequest .dig)
        | 2 => some (.modeRequest .walk)
        | _ => none) = some a at h
      split at h <;> rename_i ht <;> cases h <;> obtain rfl := (byte_eq_iff t (by omega)).mpr ht
      · exact .inl ⟨rfl, rfl⟩
      · exact .inr (.inl ⟨rfl, rfl⟩)
      · exact .inr (.inr (.inl ⟨rfl, rfl⟩))
    · cases h
  · rcases args with _ | ⟨p, _ | ⟨_, _⟩⟩
    · cases h
    · change (if p.toNat ≤ 48 then some (Action.ack p.toNat) else none) = some a at h
      split at h <;> cases h
      rename_i k
      exact .inr (.inr (.inr (.inl ⟨p, rfl, k, rfl⟩)))
    · cases h
  · rcases args with _ | ⟨p, _ | ⟨m1, _ | ⟨m0, _ | ⟨_, _⟩⟩⟩⟩ <;> first | cases h | skip
    change (if 1 ≤ p.toNat ∧ p.toNat ≤ 48 ∧ 1 ≤ (halfOf m1 m0).toNat ∧ (halfOf m1 m0).toNat ≤ 480 then
      some (Action.shelve p.toNat (halfOf m1 m0).toNat) else none) = some a at h
    split at h <;> cases h
    rename_i k
    refine .inr (.inr (.inr (.inr (.inl ⟨p, halfOf m1 m0, ?_, k.1, k.2.1, k.2.2.1, k.2.2.2, rfl⟩))))
    rw [bytes_halfOf]
  · rcases args with _ | ⟨p, _ | ⟨_, _⟩⟩
    · cases h
    · change (if 1 ≤ p.toNat ∧ p.toNat ≤ 48 then some (Action.unshelve p.toNat) else none) = some a at h
      split at h <;> cases h
      rename_i k
      exact .inr (.inr (.inr (.inr (.inr (.inl ⟨p, rfl, k.1, k.2, rfl⟩)))))
    · cases h
  all_goals
    rcases args with _ | ⟨_, _⟩ <;> cases h
    simp [ActionReads]

/-- Which payloads are an Operator Action, and which (R6, R191). -/
theorem parseAction_iff (bs : List Byte) (a : Action) : parseAction bs = some a ↔ ActionReads bs a := by
  refine ⟨parseAction_reads bs a, ?_⟩
  rintro (⟨rfl, rfl⟩ | ⟨rfl, rfl⟩ | ⟨rfl, rfl⟩ | ⟨p, rfl, h, rfl⟩ | ⟨p, m, rfl, h1, h2, h3, h4, rfl⟩
    | ⟨p, rfl, h1, h2, rfl⟩ | ⟨rfl, rfl⟩ | ⟨rfl, rfl⟩ | ⟨rfl, rfl⟩ | ⟨rfl, rfl⟩)
  · rfl
  · rfl
  · rfl
  · change (if p.toNat ≤ 48 then some (Action.ack p.toNat) else none) = _
    rw [if_pos h]
  · change (if 1 ≤ p.toNat ∧ p.toNat ≤ 48 ∧ 1 ≤ (halfOf (m.extractLsb' 8 8) (m.extractLsb' 0 8)).toNat
        ∧ (halfOf (m.extractLsb' 8 8) (m.extractLsb' 0 8)).toNat ≤ 480 then
      some (Action.shelve p.toNat (halfOf (m.extractLsb' 8 8) (m.extractLsb' 0 8)).toNat) else none) = _
    rw [halfOf_bytes, if_pos ⟨h1, h2, h3, h4⟩]
  · change (if 1 ≤ p.toNat ∧ p.toNat ≤ 48 then some (Action.unshelve p.toNat) else none) = _
    rw [if_pos ⟨h1, h2⟩]
  all_goals rfl

/-! The frame check (R2, R8). -/

/-- The addresses and the payload that pass the frame check (R2, R3). -/
theorem frameOk_iff (f : Frame) : frameOk f = true ↔
    (1 ≤ f.dst.toNat ∧ f.dst.toNat ≤ 63) ∧ (1 ≤ f.src.toNat ∧ f.src.toNat ≤ 62) ∧ f.payload.length ≤ 48 := by
  simp [frameOk, and_assoc]

/-- Which payloads pass the form check (R8). -/
theorem formOk_iff (f : Frame) : formOk f = true ↔ GoodPayload f := by
  have n : ∀ k : Nat, k < 16 → (f.kind = BitVec.ofNat 4 k ↔ f.kind.toNat = k) := fun k hk => by
    rw [← BitVec.toNat_inj, BitVec.toNat_ofNat, Nat.mod_eq_of_lt hk]
  unfold formOk GoodPayload
  rw [n 1 (by omega), n 2 (by omega), n 3 (by omega), n 4 (by omega)]
  split <;> rename_i h <;> simp only [h, Option.isSome_iff_exists, parseRef_iff, parseStatus_iff, parseReport_iff,
    parseAction_iff, forall_const, Nat.reduceEqDiff, IsEmpty.forall_iff, and_true, true_and]
  · exact exists_comm
  · exact exists_comm
  · exact exists_comm
  · simp only [true_iff]
    rename_i h1 h2 h3
    exact ⟨fun e => (h1 e).elim, fun e => (h2 e).elim, fun e => (h3 e).elim, fun e => (h e).elim⟩

/-- The bytes received are a frame exactly when they are those it goes out as, and its payload fits (R2, R3). -/
theorem parseFrame_iff (bytes : List Byte) (f : Frame) :
    parseFrame bytes = some f ↔ f.payload.length ≤ 48 ∧ bytes = wireBytes f := by
  constructor
  · intro h
    unfold parseFrame at h
    split at h
    · rename_i d s kl q n rest
      dsimp only at h
      split at h
      · rename_i hl
        split at h
        · rename_i hc
          cases h
          have hn : (rest.take n.toNat).length = n.toNat := by rw [List.length_take]; omega
          have hk : (kl.extractLsb' 4 4 ++ kl.extractLsb' 0 4 : Byte) = kl := by
            apply BitVec.eq_of_getLsbD_eq
            intro i hi
            simp only [BitVec.getLsbD_append, BitVec.getLsbD_extractLsb']
            split
            · simp_all
            · rename_i c
              simp_all
              omega
          refine ⟨by rw [hn]; exact hl.1, ?_⟩
          unfold wireBytes bodyBytes headerBytes
          dsimp only
          rw [hn, hk, show byte n.toNat = n from BitVec.ofNat_toNat _ n]
          simp only [List.cons_append, List.nil_append]
          rw [hc, List.take_append_drop]
        · cases h
      · cases h
    · cases h
  · rintro ⟨h, rfl⟩
    obtain ⟨d, s, k, l, q, p⟩ := f
    dsimp only at h
    have hn : (byte p.length).toNat = p.length := by simp [byte]; omega
    unfold wireBytes bodyBytes headerBytes
    simp only [List.cons_append, List.nil_append]
    unfold parseFrame
    dsimp only
    rw [hn, if_pos ⟨h, by simp [Half.bytes]⟩, List.take_left', List.drop_left', if_pos rfl]
    · congr 2
      · rw [BitVec.extractLsb'_append_eq_of_le (by omega)]; simp
      · rw [BitVec.extractLsb'_append_eq_of_add_le (by omega)]; simp
    · rfl
    · rfl

/-- The bytes of a frame on the wire (R2, R3). -/
theorem wireBytes_eq (f : Frame) (body : List Byte)
    (h : body = [f.dst, f.src, byte (f.kind.toNat * 16 + f.life.toNat), f.seq, byte f.payload.length] ++ f.payload) :
    wireBytes f = body ++ [byte ((crc16 body).toNat / 256), byte (crc16 body).toNat] := by
  have hb : bodyBytes f = body := by
    rw [h]
    unfold bodyBytes headerBytes
    congr 4
    apply BitVec.eq_of_toNat_eq
    have := f.life.isLt
    have := f.kind.isLt
    simp only [BitVec.toNat_append, byte, BitVec.toNat_ofNat]
    rw [← Nat.shiftLeft_add_eq_or_of_lt (by omega), Nat.shiftLeft_eq]
    omega
  unfold wireBytes
  rw [hb]
  unfold Half.bytes
  congr 2
  · apply BitVec.eq_of_toNat_eq
    simp [byte, BitVec.extractLsb'_toNat, Nat.shiftRight_eq_div_pow]

/-- The check of one byte more (R2). -/
theorem crc16_append (bs : List Byte) (b : Byte) : crc16 (bs ++ [b]) =
    (fun c : BitVec 16 => if c.getLsbD 15 then (c <<< 1) ^^^ 0x1021#16 else c <<< 1)^[8]
      (crc16 bs ^^^ b.setWidth 16 <<< 8) := by
  unfold crc16
  rw [List.foldl_append]
  show crc16Byte _ b = _
  have hb : (b ++ 0#8 : BitVec 16) = b.setWidth 16 <<< 8 := by
    apply BitVec.eq_of_toNat_eq
    have := b.isLt
    rw [BitVec.toNat_append]
    simp [Nat.shiftLeft_eq]
    omega
  unfold crc16Byte
  rw [hb]
  rfl

/-! The station table. -/

/-- The entry that a look-up finds is the lowest in use with the property (log 56). -/
theorem findEntry_iff (s : State) (p : StationCfg → Bool) (e : Fin 16) :
    findEntry s.act p = some e ↔ IsEntry s (fun c => p c = true) e := by
  unfold findEntry IsEntry
  rw [List.find?_eq_some_iff_getElem]
  simp only [Bool.and_eq_true, bne_iff_ne, ne_eq, List.getElem_finRange, Bool.not_eq_true', List.length_finRange]
  constructor
  · rintro ⟨⟨h1, h2⟩, i, hi, rfl, h3⟩
    refine ⟨h1, h2, fun d hd hn hp => ?_⟩
    have k : ((s.act.stations[d]).number != 0 && p s.act.stations[d]) = false := h3 d.val hd
    rw [bne_iff_ne.mpr hn, hp] at k
    cases k
  · rintro ⟨h1, h2, h3⟩
    refine ⟨⟨h1, h2⟩, e.val, e.isLt, rfl, fun j hj => ?_⟩
    have := h3 ⟨j, by omega⟩ hj
    by_cases hn : (s.act.stations[(⟨j, by omega⟩ : Fin 16)]).number = 0
    · simp_all
    · have := this hn
      simp_all

/-- The entry of a station number (R9). -/
theorem entryOf_iff (s : State) (station : Byte) (e : Fin 16) :
    s.entryOf station = some e ↔ IsEntry s (fun c => c.number = station.toNat) e := by
  unfold State.entryOf
  rw [findEntry_iff]
  simp only [beq_iff_eq]

/-- The DRIVE entry of an axis (R13, R73). -/
theorem driveEntry_iff (s : State) (x : Axis) (e : Fin 16) :
    s.driveEntry x = some e ↔ IsEntry s (fun c => c.role = .drive ∧ c.axis = some x) e := by
  unfold State.driveEntry
  rw [findEntry_iff]
  simp only [Bool.and_eq_true, beq_iff_eq]

/-- The station of an axis's DRIVE entry (R13, R73). -/
theorem isDriveOf_iff (s : State) (station : Byte) (x : Axis) :
    s.isDriveOf station x = true ↔ IsDriveStation s station x := by
  unfold State.isDriveOf IsDriveStation
  simp only [← driveEntry_iff]
  split <;> rename_i h <;> simp [h]

/-- The source and destination stages of a Reference (R72, R73). -/
theorem refAddressed_iff (s : State) (f : Frame) (r : Ref) : s.refAddressed f r = true ↔
    (∃ e, IsEntry s (fun c => c.number = f.src.toNat) e ∧ (s.act.stations[e]).role = .console)
      ∧ IsDriveStation s f.dst r.axis := by
  rw [← isDriveOf_iff]
  simp only [← entryOf_iff]
  unfold State.refAddressed State.isDriveOf State.hasRole
  rw [Bool.and_eq_true]
  refine and_congr_left fun _ => ?_
  split <;> rename_i h <;> simp [h]

end Sys2Proof.Machine
end

