-- ==== Sys2Proof/Laws/Points.lean ====
section
/-!
SUPPORT. The alarm points: what a change of a point does, the zones as R128 words them, and what a source update does where
no point on it is of class TRIP.
-/

namespace Sys2Proof.Machine

/-- A change of a point records what R129 says and nothing else (R129, R139, R141). -/
theorem setPoint_takes (p : Fin 48) (st : PState) (m : Bool) (timer : Option Nat) (s : State) :
    PointTakes s p st m (setPoint p st m timer s) := by
  unfold PointTakes setPoint OnlyPoints
  dsimp only
  by_cases h : st = (s.alarm.points[p]).state ∧ m = (s.alarm.points[p]).mark
  · rw [if_pos h]
    obtain ⟨h1, h2⟩ := h
    subst h1 h2
    simp
  · rw [if_neg h]
    simp
    grind

theorem zone_met_iff (c : PointCfg) (v : Int) : zoneOfValue c v = .met ↔ MetZone c v := by
  unfold MetZone zoneOfValue
  cases c.dir <;> simp <;> constructor <;> split <;> simp_all

theorem zone_clear_iff (c : PointCfg) (v : Int) : zoneOfValue c v = .clear ↔ ClearZone c v := by
  unfold ClearZone
  rw [← zone_met_iff]
  unfold zoneOfValue
  cases c.dir <;> simp <;> split <;> (try split) <;> simp_all

theorem setPoint_heldTrips (p : Fin 48) (st : PState) (m : Bool) (timer : Option Nat) (s : State) :
    (setPoint p st m timer s).heldTrips = s.heldTrips := by
  unfold setPoint
  dsimp only
  split <;> rfl

theorem setPoint_tables (p : Fin 48) (st : PState) (m : Bool) (timer : Option Nat) (s : State) :
    (setPoint p st m timer s).tables = s.tables := by
  unfold setPoint
  dsimp only
  split <;> rfl

/-- A point that is not of class TRIP hands no trip (R138). -/
theorem evalPoint_heldTrips (trig : Option (List Byte)) (p : Fin 48) (s : State) (h : (s.act.points[p]).cls ≠ .trip) :
    (evalPoint trig p s).heldTrips = s.heldTrips := by
  unfold evalPoint activatePoint
  dsimp only
  simp only [if_neg h]
  repeat' split
  all_goals first | rfl | exact setPoint_heldTrips ..

theorem evalPoint_tables (trig : Option (List Byte)) (p : Fin 48) (s : State) :
    (evalPoint trig p s).tables = s.tables := by
  unfold evalPoint activatePoint
  dsimp only
  repeat' split
  all_goals first | rfl | exact setPoint_tables ..

/-- A point evaluated leaves the records of the others (R130). -/
theorem evalPoint_ne {p q : Fin 48} (h : q ≠ p) (trig : Option (List Byte)) (s : State) :
    (evalPoint trig p s).alarm.points[q] = s.alarm.points[q] := by
  have k : (activatePoint trig p s).alarm.points[q] = s.alarm.points[q] := by
    unfold activatePoint; dsimp only
    split <;> exact (setPoint_ne h ..).1
  unfold evalPoint; dsimp only
  repeat' split
  all_goals first | rfl | exact (setPoint_ne h ..).1 | exact k

/-- A DISARMED point is not evaluated (R130). -/
theorem evalPoint_disarmed {p : Fin 48} {s : State} (h : (s.alarm.points[p]).state = .disarmed)
    (trig : Option (List Byte)) : evalPoint trig p s = s := by
  unfold evalPoint; dsimp only
  rw [h]
  split <;> rfl

/-- The points that an update evaluates: enabled, on its source, and not DISARMED when it is made (R123, R130, R135). -/
theorem mem_updatePoints {p : Fin 48} {code : Nat} {s : State} :
    p ∈ s.updatePoints code ↔ p ∈ s.pointsOn code ∧ (s.alarm.points[p]).state ≠ .disarmed := by
  simp [State.updatePoints]

/-- Where no trip comes between them, the points that are DISARMED at an update are met without effect, so that it makes no
difference to leave them out (R130). -/
theorem foldl_evalPoint_filter (trig : Option (List Byte)) {l : List (Fin 48)} (hl : l.Nodup) : ∀ {s t : State},
    (∀ p ∈ l, (s.alarm.points[p]).state = (t.alarm.points[p]).state) →
    (l.filter fun p => (s.alarm.points[p]).state != .disarmed).foldl (fun s p => evalPoint trig p s) t
      = l.foldl (fun s p => evalPoint trig p s) t := by
  induction l with
  | nil => exact fun _ => rfl
  | cons p l ih =>
    intro s t h
    obtain ⟨hp, hn⟩ := List.nodup_cons.mp hl
    have next : ∀ q ∈ l, (s.alarm.points[q]).state = ((evalPoint trig p t).alarm.points[q]).state := fun q hq => by
      rw [evalPoint_ne (by rintro rfl; exact hp hq)]
      exact h q (by simp [hq])
    by_cases hd : (s.alarm.points[p]).state = .disarmed
    · rw [List.filter_cons_of_neg (by simpa using hd), List.foldl_cons, ← ih hn next,
        evalPoint_disarmed ((h p (by simp)).symm.trans hd)]
    · rw [List.filter_cons_of_pos (by simpa using hd), List.foldl_cons, List.foldl_cons, ih hn next]

/-- With no trip between them an update evaluates every point on its source in turn (R123, R130). -/
theorem updatePoints_foldl (trig : Option (List Byte)) (code : Nat) (v : Int) (ok : Bool) (s : State) :
    (s.updatePoints code).foldl (fun s p => evalPoint trig p s) (s.setSource code v ok)
      = (s.pointsOn code).foldl (fun s p => evalPoint trig p s) (s.setSource code v ok) :=
  foldl_evalPoint_filter trig ((List.nodup_finRange 48).filter _) fun _ _ => rfl

end Sys2Proof.Machine
end

