-- ==== Sys2Proof/Laws/Records.lean ====
section
/-!
SUPPORT. A trip taken where no point watches what it hands (R155 to R166): what its record captures, and what the trip unit
leaves of its queue and its sources.
-/

namespace Sys2Proof.Machine

/-- What a trip's own steps leave as it is before its record is appended. -/
structure TripAlike (s t : State) : Prop where
  trip : t.trip = s.trip
  held : t.heldTrips = s.heldTrips
  updates : t.updates = s.updates
  tables : t.tables = s.tables
  s54 : t.source 54 = s.source 54
  s55 : t.source 55 = s.source 55
  s77 : t.source 77 = s.source 77

theorem TripAlike.refl (s : State) : TripAlike s s := ⟨rfl, rfl, rfl, rfl, rfl, rfl, rfl⟩

theorem TripAlike.trans {a b c : State} (h : TripAlike a b) (k : TripAlike b c) : TripAlike a c :=
  ⟨k.trip.trans h.trip, k.held.trans h.held, k.updates.trans h.updates, k.tables.trans h.tables, k.s54.trans h.s54,
    k.s55.trans h.s55, k.s77.trans h.s77⟩

/-- An update handed where none is evaluated and no point watches it writes its record alone (R123). -/
theorem feedHeld_alone {code : Nat} {s : State} (h : s.pointsOn code = []) (k : s.updates = none) (v : Int)
    (ok : Bool) (trig : Option (List Byte)) : feedHeld code v ok trig s = s.setSource code v ok := by
  unfold feedHeld
  rw [k]
  dsimp only
  rw [h]
  rfl

theorem setChan_alike (c : Chan) (ch : Channel) (s : State) : TripAlike s (s.setChan c ch) := by constructor <;> rfl

theorem tripSetAll_alike (s : State) : TripAlike s (tripSetAll s) := by
  unfold tripSetAll
  generalize allChans = l
  induction l generalizing s with
  | nil => exact .refl s
  | cons c l ih =>
    refine TripAlike.trans ?_ (ih _)
    unfold tripChannel
    dsimp only
    split
    all_goals first | exact .refl s | exact setChan_alike ..

/-- The steps of a change of mode to TRIPPED (R31), where no point watches the end of a tightline episode. -/
theorem modeSteps_tripAlike {s : State} (u : s.updates = none)
    (h : s.mode = .dig → s.tight.start = none ∨ s.pointsOn 37 = []) : TripAlike s (modeSteps .tripped s) := by
  unfold modeSteps
  dsimp only
  generalize ha : ({ s with ctl := { s.ctl with
        mode := .tripped, entryTime := s.now, slot := none, hold := .none,
        reason := if s.mode = .init then .none else s.ctl.reason,
        parkTimer := if s.mode = .dig then none else s.ctl.parkTimer } } : State) = a
  have h1 : TripAlike s a ∧ a.tight = s.tight := by subst ha; exact ⟨by constructor <;> rfl, rfl⟩
  rw [if_neg (show Mode.tripped ≠ .dig by decide)]
  have h2 : TripAlike s (rearmPoints a) ∧ (rearmPoints a).tight = s.tight := by
    have := (rearmPoints_armed a).points
    unfold Points at this
    generalize rearmPoints a = b at this ⊢
    rw [this]
    exact ⟨h1.1.trans (by constructor <;> rfl), h1.2⟩
  have h3 : TripAlike s (walkModeChange s.mode .tripped (rearmPoints a))
      ∧ (walkModeChange s.mode .tripped (rearmPoints a)).tight = s.tight := by
    unfold walkModeChange
    dsimp only
    generalize rearmPoints a = b at h2 ⊢
    repeat' split
    all_goals exact ⟨h2.1.trans (by constructor <;> rfl), h2.2⟩
  generalize walkModeChange s.mode .tripped (rearmPoints a) = b at h3 ⊢
  have h4 : TripAlike s (tightModeChange s.mode b) := by
    unfold tightModeChange
    split
    · rename_i hc
      simp only [Bool.and_eq_true, decide_eq_true_eq] at hc
      rcases h hc.1 with k | k
      · rw [h3.2, k] at hc; cases hc.2
      · rw [feedHeld_alone (s := clearEpisode b) (by
          unfold State.pointsOn State.act at *; unfold clearEpisode; rw [← h3.1.tables] at k; exact k)
          (h3.1.updates.trans u)]
        refine h3.1.trans ⟨rfl, rfl, rfl, rfl, ?_, ?_, ?_⟩ <;>
          exact setSource_source_ne (by decide) (by decide) ..
    · exact h3.1
  rw [if_neg (by intro e; cases e.2)]
  exact h4.trans (by constructor <;> rfl)

/-- A record appended where no point watches what that hands (R163, R166). -/
theorem appendRecord_taken {r : TripRecord} {s : State} (h54 : s.pointsOn 54 = []) (h55 : s.pointsOn 55 = [])
    (u : s.updates = none) (hr : r.number = s.trip.next) :
    RecordTaken s r (appendRecord r s)
      ∧ (appendRecord r s).heldTrips = s.heldTrips
      ∧ (appendRecord r s).trip.field = s.trip.field ∧ (appendRecord r s).trip.brake = s.trip.brake
      ∧ (appendRecord r s).ctl = s.ctl ∧ (appendRecord r s).brakes = s.brakes
      ∧ (s.trip.queue.length < 32 →
          (appendRecord r s).source 54 = { value := s.trip.queue.length + 1, valid := true }
            ∧ (appendRecord r s).source 55 = s.source 55)
      ∧ (32 ≤ s.trip.queue.length → s.trip.notStored < 65535 →
          (appendRecord r s).source 55 = { value := s.trip.notStored + 1, valid := true }
            ∧ (appendRecord r s).source 54 = s.source 54)
      ∧ (32 ≤ s.trip.queue.length → 65535 ≤ s.trip.notStored →
          (appendRecord r s).source 55 = s.source 55 ∧ (appendRecord r s).source 54 = s.source 54) := by
  have hrr : ({ r with number := s.trip.next } : TripRecord) = r := by rw [← hr]
  unfold appendRecord RecordTaken
  dsimp only
  rw [hrr]
  split
  · rename_i hq
    rw [feedHeld_alone (by exact h54) (by exact u)]
    have hq' : s.trip.queue.length < 32 := hq
    refine ⟨⟨fun _ => ⟨rfl, rfl⟩, fun k => by omega, fun k => ?_, fun k => ?_⟩, rfl, rfl, rfl, rfl, rfl, fun _ => ⟨?_, ?_⟩,
      fun k => by omega, fun k => by omega⟩
    · show (if _ then _ else _) = _; rw [if_pos k]
    · show (if _ then _ else _) = _; rw [if_neg (by omega)]
    · rw [setSource_source_same (by decide) (by decide)]; simp
    · rw [setSource_source_ne (by decide) (by decide)]; rfl
  · rename_i hq
    have hq' : 32 ≤ s.trip.queue.length := Nat.le_of_not_lt hq
    split
    · rename_i hn
      rw [feedHeld_alone (by exact h55) (by exact u)]
      refine ⟨⟨fun k => by omega, fun _ => ⟨rfl, fun _ => rfl, fun k => by omega⟩, fun k => ?_, fun k => ?_⟩, rfl, rfl,
        rfl, rfl, rfl, fun k => by omega, fun _ _ => ⟨?_, ?_⟩, fun _ k => by omega⟩
      · show (if _ then _ else _) = _; rw [if_pos k]
      · show (if _ then _ else _) = _; rw [if_neg (by omega)]
      · rw [setSource_source_same (by decide) (by decide)]; simp
      · rw [setSource_source_ne (by decide) (by decide)]; rfl
    · refine ⟨⟨fun k => by omega, fun _ => ⟨rfl, fun k => by omega, fun _ => rfl⟩, fun k => ?_, fun k => ?_⟩, rfl, rfl,
        rfl, rfl, rfl, fun k => by omega, fun _ k => by omega, fun _ _ => ⟨rfl, rfl⟩⟩
      · show (if _ then _ else _) = _; rw [if_pos k]
      · show (if _ then _ else _) = _; rw [if_neg (by omega)]

/-- What a trip's record captures (R161, R162). -/
theorem capture_captured (i : TripIn) (first : Bool) (s : State) : Captured s i first (capture i first s) := by
  unfold Captured capture State.time32
  refine ⟨rfl, rfl, rfl, rfl, rfl, rfl, rfl, rfl, ?_, ?_, ?_, ?_, ?_⟩
  · intro h
    rcases h with h | h <;> rw [h] <;> refine ⟨rfl, fun k => ?_, fun k => ?_⟩ <;>
      (cases hp : s.walk.phase <;> simp_all)
  · intro h1 h2
    have : (s.mode == .walkPrep || s.mode == .walking) = false := by simp [h1, h2]
    simp only [this]
    exact ⟨rfl, rfl⟩
  · intro x
    cases x <;> simp [PerAxis.get, State.snapshot]
  · intro h
    have : ∀ p, i.cause.isPoint p = false := fun p => by simp [TripCause.isPoint, h p]
    simp [this]
  · intro p h
    have : ∀ q, i.cause.isPoint q = (p == q) := fun q => by rw [h]; unfold TripCause.isPoint; simp
    simp only [this]
    congr 1
    refine List.filter_congr fun q _ => ?_
    simp [bne, BEq.comm]

/-- A record as taken from an earlier state, when the queue, its count and its numbering stood meanwhile. -/
theorem RecordTaken.of_trip {s a t : State} {r : TripRecord} (h : RecordTaken a r t) (hq : a.trip.queue = s.trip.queue)
    (hn : a.trip.notStored = s.trip.notStored) (hx : a.trip.next = s.trip.next) : RecordTaken s r t := by
  unfold RecordTaken at *
  rw [hq, hn, hx] at h
  exact h

/-- A trip handed where none is held and no point watches what it hands (R155, R157, R158, R163, R166). -/
theorem handTrip_taken (i : TripIn) {s : State} (hh : s.heldTrips = []) (hu : s.updates = none) (hw : TripUnwatched s) :
    (handTrip i s).mode = .tripped ∧ (handTrip i s).trip.field = .deEnergised
      ∧ (i.action = .both → (handTrip i s).trip.brake = .deEnergised)
      ∧ (i.action = .field → (handTrip i s).trip.brake = s.trip.brake)
      ∧ (∃ r, Captured s i (decide (s.mode ≠ .tripped)) r ∧ RecordTaken s r (handTrip i s))
      ∧ (s.trip.queue.length < 32 →
          (handTrip i s).source 54 = { value := s.trip.queue.length + 1, valid := true }
            ∧ (handTrip i s).source 55 = s.source 55)
      ∧ (32 ≤ s.trip.queue.length → s.trip.notStored < 65535 →
          (handTrip i s).source 55 = { value := s.trip.notStored + 1, valid := true }
            ∧ (handTrip i s).source 54 = s.source 54)
      ∧ (32 ≤ s.trip.queue.length → 65535 ≤ s.trip.notStored →
          (handTrip i s).source 55 = s.source 55 ∧ (handTrip i s).source 54 = s.source 54)
      ∧ (s.mode = .tripped → (handTrip i s).brakes = s.brakes ∧ (handTrip i s).ctl = s.ctl) := by
  obtain ⟨w1, w2, w3⟩ := hw
  have e1 : (takeTrip i s).heldTrips = [] → handTrip i s = takeTrip i s := by
    intro h
    unfold handTrip drain
    conv_lhs => unfold drainTrips
    rw [hh]
    dsimp only [List.nil_append]
    rw [show ({ s with heldTrips := [] } : State) = s by rw [← hh]]
    unfold drainTrips
    rw [h]
  unfold takeTrip at e1
  by_cases hm : s.mode = .tripped
  · rw [if_pos hm] at e1
    unfold repeatTrip at e1
    obtain ⟨a1, a2, a3, a4, a5, a6, a7, a8, a9⟩ := appendRecord_taken (r := capture i false s) (s := deEnergise i.action s)
      w1 w2 hu rfl
    rw [e1 (a2.trans hh)]
    refine ⟨?_, a3, ?_, ?_, ⟨capture i false s, ?_, a1.of_trip rfl rfl rfl⟩, a7, a8, a9, fun _ => ⟨a6, a5⟩⟩
    · unfold State.mode; rw [a5]; exact hm
    · intro h; rw [a4]; unfold deEnergise; simp [h]
    · intro h; rw [a4]; unfold deEnergise; simp [h]
    · rw [show decide (s.mode ≠ .tripped) = false by simp [hm]]
      exact capture_captured ..
  · rw [if_neg hm] at e1
    have hA := modeSteps_tripAlike hu w3
    have hmo := (modeSteps_rearmed (m := .tripped) w3 (by intro e; cases e)).1
    unfold firstTrip at e1
    dsimp only at e1
    generalize modeSteps .tripped s = a at hA hmo e1
    have hB : TripAlike (deEnergise i.action a) (tripSetAll (deEnergise i.action a)) := tripSetAll_alike _
    have hBm : (tripSetAll (deEnergise i.action a)).mode = .tripped := by
      rw [← hmo]
      show _ = (deEnergise i.action a).mode
      generalize deEnergise i.action a = b
      unfold tripSetAll
      generalize allChans = l
      induction l generalizing b with
      | nil => rfl
      | cons c l ih => rw [List.foldl_cons, ih]; unfold tripChannel; split <;> rfl
    generalize tripSetAll (deEnergise i.action a) = b at hB hBm e1
    have hC : TripAlike b (if s.mode = .testing then withdrawTest (endRecord .abortedTrip none b) else b)
        ∧ (if s.mode = .testing then withdrawTest (endRecord .abortedTrip none b) else b).mode = .tripped := by
      split
      · exact ⟨by constructor <;> rfl, hBm⟩
      · exact ⟨.refl b, hBm⟩
    generalize (if s.mode = .testing then withdrawTest (endRecord .abortedTrip none b) else b) = c at hC e1
    obtain ⟨hC, hCm⟩ := hC
    have hD := hB.trans hC
    have hq : c.trip.queue = s.trip.queue := by rw [hD.trip]; show a.trip.queue = _; rw [hA.trip]
    have hns : c.trip.notStored = s.trip.notStored := by rw [hD.trip]; show a.trip.notStored = _; rw [hA.trip]
    have hnx : c.trip.next = s.trip.next := by rw [hD.trip]; show a.trip.next = _; rw [hA.trip]
    have htb : c.tables = s.tables := hD.tables.trans hA.tables
    have hup : c.updates = none := (hD.updates.trans hA.updates).trans hu
    have hpo : ∀ n, c.pointsOn n = s.pointsOn n := fun n => by unfold State.pointsOn State.act; rw [htb]
    obtain ⟨a1, a2, a3, a4, a5, a6, a7, a8, a9⟩ := appendRecord_taken (r := capture i true s) (s := c)
      ((hpo 54).trans w1) ((hpo 55).trans w2) hup hnx.symm
    have s54 : c.source 54 = s.source 54 := hD.s54.trans hA.s54
    have s55 : c.source 55 = s.source 55 := hD.s55.trans hA.s55
    rw [hq, s55] at a7
    rw [hq, hns, s54] at a8
    rw [hq, hns, s54, s55] at a9
    rw [e1 (a2.trans ((hD.held.trans hA.held).trans hh))]
    refine ⟨?_, ?_, ?_, ?_, ⟨capture i true s, ?_, a1.of_trip hq hns hnx⟩, a7, a8, a9, fun h => absurd h hm⟩
    · unfold State.mode at *; rw [a5]; exact hCm
    · rw [a3, hD.trip]; rfl
    · intro h; rw [a4, hD.trip]; unfold deEnergise; simp [h]
    · intro h; rw [a4, hD.trip]; unfold deEnergise; simp [h, hA.trip]
    · rw [show decide (s.mode ≠ .tripped) = true by simp [hm]]
      exact capture_captured ..

/-- The set-all of a trip (R63). -/
theorem tripChannel_sets (c : Chan) (s : State) : TripSet s c (s.brakes.get c) ((tripChannel c s).brakes.get c) := by
  unfold TripSet tripChannel
  cases h : (s.brakes.get c).state
  all_goals simp
  · unfold returnToSet
    rw [setChan_get]
  all_goals exact enterSetting_enters c none s _ rfl

theorem tripChannel_only (c : Chan) (s : State) : OnlyChan c s (tripChannel c s) := by
  unfold tripChannel
  split
  all_goals first | exact .refl .. | exact setChan_only ..

/-- The set-all reads the clock, the feedback records and the tables alone. -/
theorem TripSet.of_eq {s t : State} {c : Chan} {ch ch' : Channel} (h : TripSet t c ch ch')
    (hf : t.feedback = s.feedback) (ht : t.tables = s.tables) (hn : t.now = s.now) : TripSet s c ch ch' := by
  unfold TripSet EntersSetting Standstill at *
  simp only [State.act, hf, ht, hn] at *
  exact h

theorem tripSetAll_sets (s : State) :
    (∀ c, TripSet s c (s.brakes.get c) ((tripSetAll s).brakes.get c))
      ∧ tripSetAll s = { s with brakes := (tripSetAll s).brakes, statusOwed := (tripSetAll s).statusOwed } := by
  have step : ∀ (l : List Chan) (s : State), l.Nodup →
      (∀ c, (c ∈ l → TripSet s c (s.brakes.get c) ((l.foldl (fun s c => tripChannel c s) s).brakes.get c))
        ∧ (c ∉ l → (l.foldl (fun s c => tripChannel c s) s).brakes.get c = s.brakes.get c))
      ∧ l.foldl (fun s c => tripChannel c s) s = { s with
          brakes := (l.foldl (fun s c => tripChannel c s) s).brakes
          statusOwed := (l.foldl (fun s c => tripChannel c s) s).statusOwed } := by
    intro l
    induction l with
    | nil => intro s _; exact ⟨fun c => ⟨fun h => (by cases h), fun _ => rfl⟩, rfl⟩
    | cons c l ih =>
      intro s hl
      obtain ⟨hc, hl⟩ := List.nodup_cons.mp hl
      rw [List.foldl_cons]
      obtain ⟨i1, i2⟩ := ih (tripChannel c s) hl
      have ho := tripChannel_only c s
      generalize List.foldl (fun s c => tripChannel c s) (tripChannel c s) l = t at i1 i2 ⊢
      have hf := ho.frame
      refine ⟨fun d => ⟨fun hd => ?_, fun hd => ?_⟩, by rw [i2, hf]⟩
      · rcases List.mem_cons.mp hd with rfl | hd
        · rw [(i1 d).2 hc]; exact tripChannel_sets ..
        · have hne : d ≠ c := fun e => hc (e ▸ hd)
          have := (i1 d).1 hd
          rw [ho.others d hne] at this
          exact this.of_eq (by rw [hf]) (by rw [hf]) (by rw [hf])
      · rw [(i1 d).2 (fun k => hd (by simp [k])), ho.others d (fun e => hd (by simp [e]))]
  obtain ⟨h1, h2⟩ := step allChans s (by decide)
  exact ⟨fun c => (h1 c).1 (by cases c <;> decide), h2⟩

/-- The steps of a change of mode to TRIPPED (R31), where no point watches the end of a tightline episode. -/
theorem modeSteps_tripped_frame {s : State} (u : s.updates = none)
    (h : s.mode = .dig → s.tight.start = none ∨ s.pointsOn 37 = []) :
    modeSteps .tripped s = { s with
      ctl := { s.ctl with
        mode := .tripped, entryTime := s.now, slot := none, hold := .none
        reason := if s.mode = .init then .none else s.ctl.reason
        parkTimer := if s.mode = .dig then none else s.ctl.parkTimer }
      alarm := (modeSteps .tripped s).alarm, owed := (modeSteps .tripped s).owed
      statusOwed := (modeSteps .tripped s).statusOwed, tight := (modeSteps .tripped s).tight
      walk := { s.walk with
        tConfirm := if s.mode = .walkPrep then none else s.walk.tConfirm
        tTimeout := if s.mode = .walkPrep then none else s.walk.tTimeout
        stepMark := if s.mode = .walking then none else s.walk.stepMark } } := by
  unfold modeSteps
  dsimp only
  generalize ha : ({ s with ctl := { s.ctl with
        mode := .tripped, entryTime := s.now, slot := none, hold := .none,
        reason := if s.mode = .init then .none else s.ctl.reason,
        parkTimer := if s.mode = .dig then none else s.ctl.parkTimer } } : State) = a
  rw [if_neg (show Mode.tripped ≠ .dig by decide)]
  have hr := rearmPoints_rest a
  generalize rearmPoints a = b at hr ⊢
  have hw : walkModeChange s.mode .tripped b = { b with walk := { b.walk with
        tConfirm := if s.mode = .walkPrep then none else b.walk.tConfirm
        tTimeout := if s.mode = .walkPrep then none else b.walk.tTimeout
        stepMark := if s.mode = .walking then none else b.walk.stepMark } } := by
    unfold walkModeChange
    dsimp only
    cases s.mode <;> rfl
  rw [hw]
  have ht : ∀ d : State, d.updates = none → d.tables = s.tables → d.tight = s.tight →
      tightModeChange s.mode d = { d with alarm := (tightModeChange s.mode d).alarm
                                          tight := (tightModeChange s.mode d).tight } := by
    intro d h1 h2 h3
    unfold tightModeChange
    split
    · rename_i hc
      simp only [Bool.and_eq_true, decide_eq_true_eq] at hc
      rcases h hc.1 with k | k
      · rw [h3, k] at hc; cases hc.2
      · rw [feedHeld_alone (s := clearEpisode d) (by
          unfold State.pointsOn State.act at *; unfold clearEpisode; rw [← h2] at k; exact k) h1]
        rfl
    · rfl
  have hb1 : b.updates = none := by rw [hr, ← ha]; exact u
  have hb2 : b.tables = s.tables := by rw [hr, ← ha]
  have hb3 : b.tight = s.tight := by rw [hr, ← ha]
  have hb4 : b.walk = s.walk := by rw [hr, ← ha]
  generalize hd : ({ b with walk := _ } : State) = d
  have key := ht d (by rw [← hd]; exact hb1) (by rw [← hd]; exact hb2) (by rw [← hd]; exact hb3)
  generalize tightModeChange s.mode d = e at key ⊢
  rw [if_neg (by intro k; cases k.2)]
  unfold oweStatus
  rw [key]
  subst hd
  dsimp only
  rw [hb4]
  rw [hr]
  subst ha
  rfl

/-- A record appended where no point watches what that hands leaves all but the trip unit, the sources and the Status
Notice's mark (R163, R166). -/
theorem appendRecord_frame {r : TripRecord} {s : State} (h54 : s.pointsOn 54 = []) (h55 : s.pointsOn 55 = [])
    (u : s.updates = none) :
    appendRecord r s = { s with
      trip := (appendRecord r s).trip, statusOwed := (appendRecord r s).statusOwed
      alarm := { s.alarm with sources := (appendRecord r s).alarm.sources } } := by
  unfold appendRecord
  dsimp only
  split
  · rw [feedHeld_alone (by exact h54) (by exact u)]; rfl
  · split
    · rw [feedHeld_alone (by exact h55) (by exact u)]; rfl
    · rfl

theorem appendRecord_source_77 {r : TripRecord} {s : State} (h54 : s.pointsOn 54 = []) (h55 : s.pointsOn 55 = [])
    (u : s.updates = none) : (appendRecord r s).source 77 = s.source 77 := by
  unfold appendRecord
  dsimp only
  split
  · rw [feedHeld_alone (by exact h54) (by exact u)]; exact setSource_source_ne (by decide) (by decide) ..
  · split
    · rw [feedHeld_alone (by exact h55) (by exact u)]; exact setSource_source_ne (by decide) (by decide) ..
    · rfl

theorem rearmed_congr {s t u : State} (h : Rearmed s t) (hm : u.mode = t.mode)
    (hp : u.alarm.points = t.alarm.points) (hl : u.alarm.list = t.alarm.list) : Rearmed s u := by
  unfold Rearmed at *
  rw [hm, hp, hl]
  exact h

/-- What the end of a test's record leaves (R189, R190). -/
theorem endRecord_stopped (st : TestStatus) (failing : Option Chan) {s a t : State} (ha : a.tester = s.tester)
    (hb : a.tables = s.tables) (hm : a.attrs = s.attrs)
    (ht : t.tester = { (endRecord st failing a).tester with secondFinal := none }) :
    ∃ rs, EndResults s rs ∧ TestStopped s t st failing rs := by
  have hc : a.testChan = s.testChan := by unfold State.testChan State.act; rw [ha, hb]
  refine ⟨(endRecord st failing a).tester.results, ?_, ?_⟩
  · unfold EndResults endRecord writeLog
    rw [hc, ha]
    constructor
    · intro c hc hn
      simp [hc, hn, oweStatus]
    · intro hc
      rcases hc with hc | hc <;> simp [hc, oweStatus]
  · unfold TestStopped
    rw [ht]
    unfold endRecord writeLog oweStatus
    rw [hc, ha, hm]
    simp
    intro n hn
    simp [hn]

/-- What else a first-out trip does where no point watches what it hands (R31, R63, R135, R157, R189, R190). -/
theorem handTrip_first (i : TripIn) {s : State} (hh : s.heldTrips = []) (hu : s.updates = none) (hw : TripUnwatched s)
    (hm : s.mode ≠ .tripped) :
    (∀ c, TripSet s c (s.brakes.get c) ((handTrip i s).brakes.get c)) ∧ Rearmed s (handTrip i s)
      ∧ (handTrip i s).ctl = { s.ctl with
          mode := .tripped, entryTime := s.now, slot := none, hold := .none
          reason := if s.mode = .init then .none else s.ctl.reason
          parkTimer := if s.mode = .dig then none else s.ctl.parkTimer }
      ∧ (s.mode = .testing →
          (∃ rs, EndResults s rs ∧ TestStopped s (handTrip i s) .abortedTrip none rs)
            ∧ (handTrip i s).ring = { s.ring with ins := s.ring.ins.filter (fun e => !e.isTest) }
            ∧ (handTrip i s).tester.secondFinal = none)
      ∧ (s.mode ≠ .testing → (handTrip i s).tester = s.tester ∧ (handTrip i s).ring = s.ring)
      ∧ (handTrip i s).walk = { s.walk with
          tConfirm := if s.mode = .walkPrep then none else s.walk.tConfirm
          tTimeout := if s.mode = .walkPrep then none else s.walk.tTimeout
          stepMark := if s.mode = .walking then none else s.walk.stepMark }
      ∧ (handTrip i s).source 77 = s.source 77 := by
  obtain ⟨w1, w2, w3⟩ := hw
  have e1 : (takeTrip i s).heldTrips = [] → handTrip i s = takeTrip i s := by
    intro h
    unfold handTrip drain
    conv_lhs => unfold drainTrips
    rw [hh]
    dsimp only [List.nil_append]
    rw [show ({ s with heldTrips := [] } : State) = s by rw [← hh]]
    unfold drainTrips
    rw [h]
  unfold takeTrip at e1
  rw [if_neg hm] at e1
  have hA := modeSteps_tripped_frame hu w3
  have hS := (modeSteps_tripAlike hu w3).s77
  obtain ⟨hmo, hre, _⟩ := modeSteps_rearmed (m := .tripped) w3 (by intro e; cases e)
  unfold firstTrip at e1
  dsimp only at e1
  generalize modeSteps .tripped s = a at hA hS hmo hre e1
  have hB := tripSetAll_sets (deEnergise i.action a)
  generalize tripSetAll (deEnergise i.action a) = b at hB e1
  obtain ⟨hB1, hB2⟩ := hB
  have hBA : b = { a with brakes := b.brakes, statusOwed := b.statusOwed, trip := b.trip } := by
    rw [hB2]; unfold deEnergise; rfl
  generalize hc : (if s.mode = .testing then withdrawTest (endRecord .abortedTrip none b) else b) = c at e1
  have hC : c = { b with tester := c.tester, ring := c.ring, statusOwed := c.statusOwed } := by
    rw [← hc]; split <;> rfl
  have htb : c.tables = s.tables := by rw [hC, hBA, hA]
  have hup : c.updates = none := by rw [hC, hBA, hA]; exact hu
  have hpo : ∀ n, c.pointsOn n = s.pointsOn n := fun n => by unfold State.pointsOn State.act; rw [htb]
  have hD := appendRecord_frame (r := capture i true s) (s := c) ((hpo 54).trans w1) ((hpo 55).trans w2) hup
  have hDs := appendRecord_source_77 (r := capture i true s) (s := c) ((hpo 54).trans w1) ((hpo 55).trans w2) hup
  have hDh : (appendRecord (capture i true s) c).heldTrips = [] := by rw [hD, hC, hBA, hA]; exact hh
  rw [e1 hDh]
  generalize appendRecord (capture i true s) c = d at hD hDs ⊢
  have d1 : d.ctl = a.ctl := by rw [hD, hC, hBA]
  have d2 : d.brakes = b.brakes := by rw [hD, hC]
  have d3 : d.alarm.points = a.alarm.points ∧ d.alarm.list = a.alarm.list := by rw [hD, hC, hBA]; exact ⟨rfl, rfl⟩
  have d4 : d.tester = c.tester ∧ d.ring = c.ring := by rw [hD]; exact ⟨rfl, rfl⟩
  have b1 : b.tester = s.tester ∧ b.ring = s.ring ∧ b.attrs = s.attrs ∧ b.tables = s.tables := by
    rw [hBA, hA]; exact ⟨rfl, rfl, rfl, rfl⟩
  have a1 : a.brakes = s.brakes := by rw [hA]
  refine ⟨fun ch => ?_, rearmed_congr hre ?_ d3.1 d3.2, ?_, fun ht => ?_, fun ht => ?_, ?_, ?_⟩
  · rw [d2, ← a1]
    exact (hB1 ch).of_eq (by unfold deEnergise; rw [hA]) (by unfold deEnergise; rw [hA]) (by unfold deEnergise; rw [hA])
  · unfold State.mode; rw [d1]
  · rw [d1, hA]
  · rw [if_pos ht] at hc
    refine ⟨endRecord_stopped .abortedTrip none b1.1 b1.2.2.2 b1.2.2.1 ?_, ?_, ?_⟩
    · rw [d4.1, ← hc]; rfl
    · rw [d4.2, ← hc]
      unfold withdrawTest endRecord oweStatus
      dsimp only
      rw [b1.2.1]
    · rw [d4.1, ← hc]; rfl
  · rw [if_neg ht] at hc
    rw [d4.1, d4.2, ← hc]
    exact ⟨b1.1, b1.2.1⟩
  · rw [hD, hC, hBA, hA]
  · rw [hDs, ← hS, hC, hBA]; rfl

/-- What a trip in TRIPPED leaves alone, where no point watches what it hands (R158). -/
theorem handTrip_repeat (i : TripIn) {s : State} (hh : s.heldTrips = []) (hu : s.updates = none) (hw : TripUnwatched s)
    (hm : s.mode = .tripped) : (handTrip i s).tester = s.tester ∧ (handTrip i s).ring = s.ring := by
  have hD := appendRecord_frame (r := capture i false s) (s := deEnergise i.action s) hw.1 hw.2.1 hu
  have hf : takeTrip i s = appendRecord (capture i false s) (deEnergise i.action s) := by
    unfold takeTrip repeatTrip; rw [if_pos hm]
  have : handTrip i s = takeTrip i s := by
    unfold handTrip drain drainTrips
    rw [hh]
    dsimp only [List.nil_append]
    rw [show ({ s with heldTrips := [] } : State) = s by rw [← hh]]
    unfold drainTrips
    rw [show (takeTrip i s).heldTrips = [] by rw [hf, hD]; exact hh]
  rw [this, hf, hD]
  exact ⟨rfl, rfl⟩

end Sys2Proof.Machine
end

