-- ==== Sys2Proof/Laws/Requests.lean ====
section
/-!
SUPPORT. Which Management Requests are well formed (R191).
-/

namespace Sys2Proof.Machine

/-- Which requests are well formed (R191; log 29). -/
theorem parseRequest_none_iff (code : Byte) (args : List Byte) :
    parseRequest code args = none ↔ ¬GoodRequest code.toNat args := by
  have some' : ∀ {P Q : Prop} [Decidable P] {r : Request}, (P ↔ Q) → ((if P then some r else none) = none ↔ ¬Q) := by
    intro P Q _ r h
    by_cases p : P
    · simp [p, ← h]
    · simp [p, ← h]
  have none' : ∀ {P Q : Prop} [Decidable P] {r : Request}, (¬P ↔ Q) → ((if P then none else some r) = none ↔ ¬Q) := by
    intro P Q _ r h
    by_cases p : P
    · simp [p, ← h]
    · simp [p, ← h]
  have h1 : ∀ p : Byte, within 1 2 p.toNat = true ↔ (p = 1#8 ∨ p = 2#8) := by decide
  have h2 : ∀ c : Byte, nameOk 2 c = true ↔ (c = 0#8 ∨ c = 1#8) := by decide
  have h3 : ∀ k : Byte, ¬k.toNat = 0 ↔ k ≠ 0#8 := by decide
  have h5 : ∀ p : Byte, within 1 5 p.toNat = true ↔ (1 ≤ p.toNat ∧ p.toNat ≤ 5) := fun p => by simp [within]
  have h6 : ∀ p : Byte, within 1 3 p.toNat = true ↔ (1 ≤ p.toNat ∧ p.toNat ≤ 3) := fun p => by simp [within]
  have h7 : ∀ p : Byte, within 1 16 p.toNat = true ↔ (1 ≤ p.toNat ∧ p.toNat ≤ 16) := fun p => by simp [within]
  have h8 : ∀ p : Byte, (p.toNat == 1) = true ↔ p = 1#8 := by decide
  have h4 : ∀ p c : Byte, (within 1 2 p.toNat && nameOk 2 c && (p.toNat == 1 || c == 0#8)) = true
      ↔ (p = 1#8 ∧ (c = 0#8 ∨ c = 1#8)) ∨ (p = 2#8 ∧ c = 0#8) := by
    intro p c
    simp only [Bool.and_eq_true, Bool.or_eq_true, h1, h2, h8, beq_iff_eq]
    have a : p = 2#8 → p ≠ 1#8 := by rintro rfl; decide
    tauto
  unfold parseRequest
  generalize code.toNat = n
  by_cases hn : n < 19
  · interval_cases n
    all_goals conv_rhs => rw [GoodRequest]; simp only [List.mem_cons, List.not_mem_nil, Nat.reduceEqDiff, or_false,
      false_or, false_and, true_and, or_true, or_self, OfNat.ofNat_ne_zero, OfNat.zero_ne_ofNat,
      OfNat.ofNat_ne_one, OfNat.one_ne_ofNat, zero_ne_one, one_ne_zero]
    all_goals rcases args with _ | ⟨a, _ | ⟨b, _ | ⟨c, l⟩⟩⟩
    all_goals
      first
        | exact ⟨fun _ => by simp, fun _ => rfl⟩
        | exact ⟨fun h => absurd (show some _ = none from h) nofun, fun h => absurd (by simp) h⟩
        | skip
    · exact some' ((h1 a).trans (by simp))
    · rcases l with _ | ⟨d, l⟩
      · exact some' ((h2 a).trans (by simp))
      · exact ⟨fun _ => by simp, fun _ => rfl⟩
    · exact some' ((h5 a).trans (by simp))
    · exact none' ((h3 a).trans (by simp))
    · exact some' ((h6 b).trans (by simp))
    · exact none' ((h3 a).trans (by simp))
    · exact some' ((h7 a).trans (by simp))
    · exact some' ((h4 a b).trans (by simp))
  · obtain ⟨m, rfl⟩ : ∃ m, n = m + 19 := ⟨n - 19, by omega⟩
    exact ⟨fun _ => by unfold GoodRequest; simp, fun _ => rfl⟩

/-- Which frames carry no well-formed request (R191; log 29). -/
theorem requestOf_none_iff (f : Frame) : requestOf f = none ↔
    ¬∃ (c a b : Byte) (args : List Byte), f.payload = c :: a :: b :: args ∧ GoodRequest c.toNat args := by
  unfold requestOf
  rcases f.payload with _ | ⟨c, _ | ⟨a, _ | ⟨b, args⟩⟩⟩
  · simp
  · simp
  · simp
  · simp only [parseRequest_none_iff, List.cons.injEq]
    exact not_congr ⟨fun h => ⟨c, a, b, args, ⟨rfl, rfl, rfl, rfl⟩, h⟩, fun ⟨_, _, _, _, ⟨h1, _, _, h2⟩, h⟩ => by
      subst h1 h2; exact h⟩

end Sys2Proof.Machine
end

