-- ==== Sys2Proof/Laws/Settling.lean ====
section
/-!
SUPPORT. While every analog channel settles no frame leads into DIG, WALK_PREP or WALKING (R35, R149): what the frames
taken before steps 3 to 5 of R201 keep.
-/

namespace Sys2Proof.Machine

/-- Every analog channel settles, and the mode is none of the three that a DIG or a WALK request leads into. -/
structure Settling (s : State) : Prop where
  ain : ∀ ch : Fin 4, (s.analog[ch]).ready = false
  dig : s.mode ≠ .dig
  prep : s.mode ≠ .walkPrep
  walk : s.mode ≠ .walking

/-- What changes neither the mode nor the analog channels keeps this. -/
theorem Settling.of {s t : State} (h : Settling s) (m : t.mode = s.mode) (a : t.analog = s.analog) : Settling t :=
  ⟨fun ch => by rw [a]; exact h.ain ch, by rw [m]; exact h.dig, by rw [m]; exact h.prep, by rw [m]; exact h.walk⟩

/-- A mode that is none of the three, with the analog channels as they were. -/
theorem Settling.into {s t : State} (h : Settling s) (m : t.mode = .parked ∨ t.mode = .testing ∨ t.mode = .tripped)
    (a : t.analog = s.analog) : Settling t :=
  ⟨fun ch => by rw [a]; exact h.ain ch, by rcases m with m | m | m <;> rw [m] <;> decide,
    by rcases m with m | m | m <;> rw [m] <;> decide, by rcases m with m | m | m <;> rw [m] <;> decide⟩

theorem Settling.foldl {β : Type} {f : State → β → State} (h : ∀ s b, Settling s → Settling (f s b)) (l : List β) :
    ∀ s, Settling s → Settling (l.foldl f s) := by
  induction l with
  | nil => exact fun _ k => k
  | cons b l ih => exact fun s k => ih _ (h s b k)

/-- With a channel settling a DIG or WALK request is refused (R35). -/
theorem Settling.refused {s : State} (h : Settling s) : s.requestCheck ≠ none := by
  have k : s.settling = true := by
    unfold State.settling
    exact List.any_eq_true.mpr ⟨0, List.mem_finRange 0, by rw [h.ain 0]; rfl⟩
  unfold State.requestCheck
  repeat' split
  all_goals exact fun e => nomatch e

/-! The shared operations. -/

/-- The mode stays. -/
def SameMode (s t : State) : Prop := t.mode = s.mode

theorem SameMode.foldl {β : Type} {f : State → β → State} (h : ∀ s b, SameMode s (f s b)) (l : List β) :
    ∀ s, SameMode s (l.foldl f s) := by
  induction l with
  | nil => exact fun _ => rfl
  | cons b l ih => exact fun s => (ih _).trans (h s b)

theorem setPoint_mode (p : Fin 48) (st : PState) (m : Bool) (t : Option Nat) (s : State) :
    SameMode s (setPoint p st m t s) := by
  unfold setPoint; dsimp only; split <;> rfl

theorem activatePoint_mode (trig : Option (List Byte)) (p : Fin 48) (s : State) : SameMode s (activatePoint trig p s) := by
  unfold activatePoint; dsimp only; split <;> exact setPoint_mode p .activeUnack false none s

theorem evalPoint_mode (trig : Option (List Byte)) (p : Fin 48) (s : State) : SameMode s (evalPoint trig p s) := by
  unfold evalPoint; dsimp only
  repeat' split
  all_goals first | rfl | exact setPoint_mode .. | exact activatePoint_mode ..

theorem feedHeld_mode (code : Nat) (v : Int) (ok : Bool) (trig : Option (List Byte)) (s : State) :
    SameMode s (feedHeld code v ok trig s) := by
  unfold feedHeld; split
  · rfl
  · exact SameMode.foldl (fun s p => evalPoint_mode trig p s) _ _

theorem rearmPoints_mode (s : State) : SameMode s (rearmPoints s) := by
  refine SameMode.foldl (fun s p => ?_) _ s
  unfold rearmPoint; dsimp only
  repeat' split
  all_goals first | rfl | exact setPoint_mode ..

theorem walkModeChange_mode (old : Mode) {new : Mode} (h : new ≠ .walking) (s : State) :
    SameMode s (walkModeChange old new s) := by
  unfold walkModeChange; dsimp only
  repeat' split
  all_goals first | rfl | exact absurd rfl h

theorem tightModeChange_mode (old : Mode) (s : State) : SameMode s (tightModeChange old s) := by
  unfold tightModeChange; split
  · exact feedHeld_mode 37 0 true none (clearEpisode s)
  · rfl

/-- The steps of a change of mode to one other than WALKING leave that mode (R31). -/
theorem modeSteps_mode {new : Mode} (h : new ≠ .walking) (s : State) : (modeSteps new s).mode = new := by
  unfold modeSteps; dsimp only
  generalize ha : ({ s with ctl := { s.ctl with
        mode := new, entryTime := s.now, slot := none, hold := .none,
        reason := if s.mode = .init then .none else s.ctl.reason,
        parkTimer := if s.mode = .dig then none else s.ctl.parkTimer } } : State) = a
  have hA : a.mode = new := by subst ha; rfl
  have hB : (if new = .dig then startPark a else a).mode = new := by split <;> exact hA
  generalize (if new = .dig then startPark a else a) = b at hB ⊢
  have hC := (tightModeChange_mode s.mode (walkModeChange s.mode new (rearmPoints b))).trans
    ((walkModeChange_mode s.mode h (rearmPoints b)).trans (rearmPoints_mode b))
  show State.mode (if _ then _ else _) = new
  split <;> exact hC.trans hB

theorem tripSetAll_mode (s : State) : SameMode s (tripSetAll s) := by
  refine SameMode.foldl (fun s c => ?_) _ s
  unfold tripChannel; split <;> rfl

theorem appendRecord_mode (r : TripRecord) (s : State) : SameMode s (appendRecord r s) := by
  unfold appendRecord; dsimp only
  repeat' split
  all_goals first | rfl | exact feedHeld_mode ..

/-- After a trip the mode is TRIPPED (R157, R158). -/
theorem takeTrip_mode (t : TripIn) (s : State) : (takeTrip t s).mode = .tripped := by
  unfold takeTrip; split
  · rename_i h
    exact (appendRecord_mode _ _).trans h
  · unfold firstTrip; dsimp only
    refine (appendRecord_mode _ _).trans ?_
    have h : (tripSetAll (deEnergise t.action (modeSteps .tripped s))).mode = .tripped :=
      (tripSetAll_mode _).trans (modeSteps_mode (by decide) s)
    split <;> exact h

theorem drainTrips_settling (n : Nat) : ∀ s, Settling s → Settling (drainTrips n s) := by
  induction n with
  | zero => exact fun s h => h.of rfl rfl
  | succ n ih =>
    intro s h
    unfold drainTrips
    split
    · exact h
    · exact ih _ (h.into (.inr (.inr (takeTrip_mode _ _))) (takeTrip_kept ..).analog)

theorem drain_settling {s : State} (h : Settling s) : Settling (drain s) := drainTrips_settling 256 s h

theorem handTrip_settling (t : TripIn) {s : State} (h : Settling s) : Settling (handTrip t s) :=
  drain_settling (h.of rfl rfl)

theorem takeUpdates_settling (n : Nat) : ∀ s, Settling s → Settling (takeUpdates n s) := by
  induction n with
  | zero => exact fun _ h => h
  | succ n ih =>
    intro s h
    unfold takeUpdates
    split
    · refine ih _ (Settling.foldl (fun s p k => ?_) _ _ (h.of rfl rfl))
      exact drain_settling (k.of (evalPoint_mode _ p s) (evalPoint_kept _ p s).analog)
    · exact h

theorem feedAll_settling (us : List Update) {s : State} (h : Settling s) : Settling (feedAll us s) := by
  have k : Settling (takeUpdates 256 { s with updates := some us }) := takeUpdates_settling 256 _ (h.of rfl rfl)
  exact k.of rfl rfl

theorem feed_settling (code : Nat) (v : Int) (ok : Bool) (trig : Option (List Byte)) {s : State} (h : Settling s) :
    Settling (feed code v ok trig s) := feedAll_settling _ h

/-- A change of mode to PARKED or TESTING (R31). -/
theorem changeMode_settling {new : Mode} (m : new = .parked ∨ new = .testing) {s : State} (h : Settling s) :
    Settling (changeMode new s) := by
  have w : new ≠ .walking := by rcases m with rfl | rfl <;> decide
  have e := modeSteps_mode w s
  refine drain_settling (h.into ?_ (modeSteps_kept new s).analog)
  rcases m with rfl | rfl
  · exact .inl e
  · exact .inr (.inl e)

theorem initTest_settling {s : State} (h : Settling s) : Settling (initTest s) := by
  unfold initTest
  split
  · split
    · exact changeMode_settling (.inl rfl) h
    · unfold updateReason
      split <;> first | exact h | exact h.of rfl rfl
  · exact h

theorem parkingTest_settling {s : State} (h : Settling s) : Settling (parkingTest s) := by
  unfold parkingTest
  split
  · exact changeMode_settling (.inl rfl) h
  · exact h

theorem prepRetest_settling {s : State} (h : Settling s) : Settling (prepRetest s) := by
  unfold prepRetest
  rw [if_neg h.prep]
  exact h

theorem setNorm_settling (i : Fin 13) (r : AttrRun) (n : Nat) {s : State} (h : Settling s) : Settling (setNorm i r n s) := by
  unfold setNorm; dsimp only
  split
  · exact h.of rfl rfl
  · exact feed_settling _ _ _ _ (h.of rfl rfl)

theorem gain_settling (i : Fin 13) (n : Nat) {s : State} (h : Settling s) : Settling (gain i n s) := setNorm_settling _ _ _ h

theorem endTest_settling (st : TestStatus) (c : Option Chan) {s : State} (h : Settling s) : Settling (endTest st c s) := by
  have k : Settling (endRecord st c s) := h.of rfl rfl
  unfold endTest; dsimp only
  split
  · exact changeMode_settling (.inl rfl) k
  · exact k

theorem choose_settling {s : State} (h : Settling s) : Settling (choose s) := by
  unfold choose; dsimp only
  repeat' split
  all_goals exact h.of rfl rfl

theorem chooseIfIdle_settling {s : State} (h : Settling s) : Settling (chooseIfIdle s) := by
  unfold chooseIfIdle
  split
  · exact choose_settling h
  · exact h

theorem joinInsert_settling (e : InsEntry) {s : State} (h : Settling s) : Settling (joinInsert e s) :=
  chooseIfIdle_settling (h.of rfl rfl)

theorem handTestRef_settling (e : InsEntry) {s : State} (h : Settling s) : Settling (handTestRef e s) :=
  joinInsert_settling e (h.of rfl rfl)

theorem forward_settling (f : Frame) (taken : List Byte) {s : State} (h : Settling s) : Settling (forward f taken s) := by
  unfold forward
  split
  · exact h.of rfl rfl
  · exact chooseIfIdle_settling (h.of rfl rfl)

theorem answer_settling (rq : Requester) (st : Status) (rs : List Byte) (b : Bool) {s : State} (h : Settling s) :
    Settling (answer rq st rs b s) := joinInsert_settling _ (h.of rfl rfl)

theorem buildOne_settling {s : State} (h : Settling s) : Settling (buildOne s) := by
  unfold buildOne
  repeat' split
  · exact joinInsert_settling _ (h.of rfl rfl)
  · exact joinInsert_settling _ (h.of rfl rfl)
  all_goals exact h

theorem buildNotices_settling (n : Nat) : ∀ s, Settling s → Settling (buildNotices n s) := by
  induction n with
  | zero => exact fun _ h => h
  | succ n ih => exact fun s h => ih _ (buildOne_settling h)

theorem finish_settling {s : State} (h : Settling s) : Settling (finish s) := buildNotices_settling 16 s h

/-! The brake channels. -/

theorem beginToSet_settling (c : Chan) {s : State} (h : Settling s) : Settling (beginToSet c s) := by
  unfold beginToSet; dsimp only
  split <;> exact h.of rfl rfl

theorem parkingSetAll_settling {s : State} (h : Settling s) : Settling (parkingSetAll s) := by
  refine Settling.foldl (fun s c k => ?_) _ s h
  unfold parkChannel
  split
  · exact k.of rfl rfl
  · exact beginToSet_settling c k
  · exact k

theorem staleSet_settling (c : Chan) {s : State} (h : Settling s) : Settling (staleSet c s) := by
  unfold staleSet
  split
  all_goals first | exact beginToSet_settling c h | exact h.of rfl rfl

theorem completeRelease_settling (c : Chan) {s : State} (h : Settling s) : Settling (completeRelease c s) := by
  unfold completeRelease; dsimp only
  split <;> exact h.of rfl rfl

theorem enterPending_settling (c : Chan) {s : State} (h : Settling s) : Settling (enterPending c s) := by
  unfold enterPending; dsimp only
  split
  · exact completeRelease_settling c (h.of rfl rfl)
  · exact h.of rfl rfl

theorem brakeRequest_settling (x : Axis) (r : BrakeReq) (l : Int) {s : State} (h : Settling s) :
    Settling (brakeRequest x r l s) := by
  unfold brakeRequest; dsimp only
  repeat' split
  all_goals first
    | exact enterPending_settling _ h | exact beginToSet_settling _ h | exact h | exact h.of rfl rfl

theorem quietTest_settling (c : Chan) {s : State} (h : Settling s) : Settling (quietTest c s) := by
  unfold quietTest; dsimp only
  repeat' split
  all_goals first | exact h | exact beginToSet_settling c h | exact h.of rfl rfl

theorem writeStanding_settling (x : Axis) (r : BrakeReq) {s : State} (h : Settling s) :
    Settling (writeStanding x r s) := by
  unfold writeStanding; dsimp only
  repeat' split
  all_goals first | exact h.of rfl rfl | exact quietTest_settling _ (h.of rfl rfl)

theorem setProveFailed_settling (c : Chan) (v : Bool) {s : State} (h : Settling s) : Settling (setProveFailed c v s) := by
  unfold setProveFailed; dsimp only
  split
  · exact h
  · exact feed_settling _ _ _ _ (h.of rfl rfl)

theorem setReleaseTimeout_settling (c : Chan) (v : Bool) {s : State} (h : Settling s) :
    Settling (setReleaseTimeout c v s) := by
  unfold setReleaseTimeout; dsimp only
  split
  · exact h
  · exact feed_settling _ _ _ _ (h.of rfl rfl)

theorem enterReleased_settling (c : Chan) {s : State} (h : Settling s) : Settling (enterReleased c s) := by
  unfold enterReleased; dsimp only
  generalize hu : s.setChan c _ = u
  have hU : Settling u := by subst hu; exact h.of rfl rfl
  have k := setReleaseTimeout_settling c false (setProveFailed_settling c false hU)
  split
  · exact beginToSet_settling c k
  · exact k

theorem reachSet_settling (c : Chan) (b : Bool) {s : State} (h : Settling s) : Settling (reachSet c b s) := by
  unfold reachSet; dsimp only
  refine initTest_settling (parkingTest_settling ?_)
  split
  · exact gain_settling _ _ (h.of rfl rfl)
  · exact h.of rfl rfl

theorem enterFault_settling (c : Chan) (trig : Option (List Byte)) {s : State} (h : Settling s) :
    Settling (enterFault c trig s) := handTrip_settling _ (h.of rfl rfl)

theorem confirmMark_settling (c : Chan) (x : Axis) (v : Bool) {g : State → State}
    (hg : ∀ s, Settling s → Settling (g s)) {s : State} (h : Settling s) : Settling (confirmMark c x v g s) := by
  unfold confirmMark; dsimp only
  split
  · exact hg _ (h.of rfl rfl)
  · exact h.of rfl rfl

theorem setByDrive_settling (c : Chan) (x : Axis) {s : State} (h : Settling s) : Settling (setByDrive c x s) := by
  have k : Settling (enterSetting c (some x) s) := h.of rfl rfl
  unfold setByDrive; dsimp only
  split
  · exact reachSet_settling c true k
  · exact k

theorem provingArrival_settling (c : Chan) (n : Int) {s : State} (h : Settling s) : Settling (provingArrival c n s) := by
  unfold provingArrival; dsimp only
  repeat' split
  · exact completeRelease_settling c (h.of rfl rfl)
  · exact h.of rfl rfl
  · exact h

theorem channelArrival_settling (x : Axis) (trig : List Byte) {s : State} (h : Settling s) :
    Settling (channelArrival x trig s) := by
  unfold channelArrival; dsimp only
  refine quietTest_settling _ ?_
  repeat' split
  all_goals first
    | exact h
    | exact enterFault_settling _ _ h
    | exact provingArrival_settling _ _ h
    | exact setByDrive_settling _ _ h
    | exact confirmMark_settling _ _ _ (fun _ k => enterReleased_settling _ k) h
    | exact confirmMark_settling _ _ _ (fun _ k => reachSet_settling _ _ k) h

/-! The walk sequencer, the tightline check and the wear records. -/

theorem ropeArrival_settling (x : Axis) {s : State} (h : Settling s) : Settling (ropeArrival x s) := by
  unfold ropeArrival; dsimp only
  repeat' split
  all_goals first | exact h | exact gain_settling _ _ h

theorem tightTest_settling {s : State} (h : Settling s) : Settling (tightTest s) := by
  unfold tightTest
  repeat' split
  all_goals first | exact h | exact h.of rfl rfl

theorem handSeconds_settling {s : State} (h : Settling s) : Settling (handSeconds s) := by
  unfold handSeconds; dsimp only
  split
  · exact gain_settling _ _ (h.of rfl rfl)
  · exact h

theorem tightArrival_settling {s : State} (h : Settling s) : Settling (tightArrival s) :=
  handSeconds_settling (feed_settling _ _ _ _ (tightTest_settling h))

theorem feedSkew_settling (trig : Option (List Byte)) {s : State} (h : Settling s) : Settling (feedSkew trig s) :=
  feed_settling _ _ _ _ h

theorem inWalking_settling (g : State → State) {s : State} (h : Settling s) : inWalking g s = s := if_neg h.walk

theorem workWalk_settling {s : State} (h : Settling s) : Settling (workWalk s) := by
  unfold workWalk
  split
  · exact h.of rfl rfl
  · exact h

theorem walkArrival_settling (x : Axis) (trig : List Byte) {s : State} (h : Settling s) :
    Settling (walkArrival x trig s) := by
  unfold walkArrival walkTests; dsimp only
  have k : Settling (workWalk (putProgress x s)) := workWalk_settling (h.of rfl rfl)
  rw [inWalking_settling _ k, inWalking_settling _ k, inWalking_settling _ k, inWalking_settling _ k]
  exact feedSkew_settling _ (prepRetest_settling k)

/-! The brake tester. -/

theorem handTest_settling (x : Axis) (v : Int) (n : Nat) {s : State} (h : Settling s) : Settling (handTest x v n s) := by
  unfold handTest
  split
  · exact handTestRef_settling _ h
  · exact h

theorem periodicTest_settling (c : Chan) {s : State} (h : Settling s) : Settling (periodicTest c s) := by
  unfold periodicTest; dsimp only
  split
  · exact handTest_settling _ _ _ (h.of rfl rfl)
  · exact handTest_settling _ _ _ h

theorem segmentBegin_settling {s : State} (h : Settling s) : Settling (segmentBegin s) := by
  unfold segmentBegin
  split
  · unfold beginSegment
    repeat' split
    · exact h
    · exact periodicTest_settling _ (h.of rfl rfl)
    · exact endTest_settling _ _ h
  · exact h

theorem acceptTest_settling {s : State} (h : Settling s) : Settling (acceptTest s) :=
  segmentBegin_settling ((changeMode_settling (.inr rfl) h).of rfl rfl)

theorem abortTest_settling {s : State} (h : Settling s) : Settling (abortTest s) := endTest_settling _ _ (h.of rfl rfl)

theorem testStale_settling (c : Chan) {s : State} (h : Settling s) : Settling (testStale c s) := by
  unfold testStale
  split
  · exact endTest_settling _ _ (h.of rfl rfl)
  · exact h

theorem testArrival_settling (x : Axis) {s : State} (h : Settling s) : Settling (testArrival x s) := by
  unfold testArrival; dsimp only
  repeat' split
  all_goals first | exact h | exact h.of rfl rfl

theorem testLever_settling (x : Axis) (l : Int) {s : State} (h : Settling s) : Settling (testLever x l s) := by
  unfold testLever; dsimp only
  repeat' split
  all_goals first | exact h | exact h.of rfl rfl | exact abortTest_settling (h.of rfl rfl)

/-! The frames. -/

theorem limit_settling (f : Frame) (r : Ref) {s : State} (h : Settling s) : Settling (limit f r s) := by
  have hs : Settling (standingStage r s) := by
    have k : Settling (leverRestart r.lever.toInt (writeStanding r.axis r.brake s)) := by
      unfold leverRestart
      split
      · exact (writeStanding_settling r.axis r.brake h).of rfl rfl
      · exact writeStanding_settling r.axis r.brake h
    unfold standingStage; dsimp only
    split
    · exact testLever_settling _ _ k
    · exact k
  unfold limit; dsimp only
  split
  · exact forward_settling _ _ h
  · split
    · split
      · exact hs.of rfl rfl
      · refine forward_settling _ _ (quietTest_settling _ ?_)
        exact (brakeRequest_settling _ _ _ hs).of rfl rfl
    · unfold refuseRef; dsimp only
      split
      · exact h.of rfl rfl
      · exact feed_settling _ _ _ _ (h.of rfl rfl)

theorem driveArrival_settling (d : DriveStat) (trig : List Byte) {s : State} (h : Settling s) :
    Settling (driveArrival d trig s) := by
  have k : Settling (channelArrival d.axis trig (putFeedback d s)) := channelArrival_settling _ _ (h.of rfl rfl)
  have w : Settling (walkReceiver d.axis trig (channelArrival d.axis trig (putFeedback d s))) := by
    unfold walkReceiver
    split
    · exact walkArrival_settling _ _ k
    · exact prepRetest_settling k
  have t : Settling (tightReceiver d.axis (walkReceiver d.axis trig (channelArrival d.axis trig (putFeedback d s)))) := by
    unfold tightReceiver
    split
    · exact tightArrival_settling w
    · exact w
  exact feed_settling _ _ _ _ (feed_settling _ _ _ _ (feed_settling _ _ _ _
    (ropeArrival_settling _ (testArrival_settling _ t))))

theorem takeReport_settling (f : Frame) (ps : List (Fin 16 × Int)) {s : State} (h : Settling s) :
    Settling (takeReport f ps s) := by
  refine forward_settling _ _ ?_
  repeat' split
  · refine prepRetest_settling (Settling.foldl (fun _ _ k => feed_settling _ _ _ _ k) _ _ ?_)
    exact Settling.foldl (f := fun s p => putSensor _ p s) (fun _ _ k => k.of rfl rfl) _ _ h
  all_goals exact h

theorem dropSensors_settling (e : Fin 16) {s : State} (h : Settling s) : Settling (dropSensors e s) := by
  refine Settling.foldl (fun s ch k => ?_) _ s h
  unfold dropSensor; dsimp only
  split
  · exact feed_settling _ _ _ _ (k.of rfl rfl)
  · exact k

theorem skewAgain_settling (x : Axis) {s : State} (h : Settling s) : Settling (skewAgain x s) := by
  unfold skewAgain
  split
  · exact feedSkew_settling _ h
  · exact h

theorem dropAxis_settling (x : Axis) {s : State} (h : Settling s) : Settling (dropAxis x s) :=
  feed_settling _ _ _ _ (feed_settling _ _ _ _ (feed_settling _ _ _ _ h))

theorem freshnessChange_settling (e : Fin 16) (old : Fresh) {s : State} (h : Settling s) :
    Settling (freshnessChange e old .fresh s) := by
  unfold freshnessChange driveChange; dsimp only
  have a : Settling (feed (freshSource e) Fresh.fresh.code true none s) := feed_settling _ _ _ _ h
  have b : Settling (if old = .fresh then dropSensors e (feed (freshSource e) Fresh.fresh.code true none s)
      else feed (freshSource e) Fresh.fresh.code true none s) := by
    split
    · exact dropSensors_settling e a
    · exact a
  generalize (if old = .fresh then dropSensors e (feed (freshSource e) Fresh.fresh.code true none s)
      else feed (freshSource e) Fresh.fresh.code true none s) = u at b ⊢
  have c : Settling (initTest (onAxis (s.act.stations[e]).axis skewAgain u)) := by
    refine initTest_settling ?_
    unfold onAxis
    split
    · exact skewAgain_settling _ b
    · exact b
  repeat' split
  all_goals first | exact prepRetest_settling c | exact prepRetest_settling b | exact c | exact b

theorem arrival_settling (e : Fin 16) (r : StationRun) (seq : Byte) {s : State} (h : Settling s) :
    Settling (arrival e r seq s) := by
  have k : Settling (if isGap r seq then bump .seqGaps s else s) := by
    split
    · exact h.of rfl rfl
    · exact h
  unfold arrival; dsimp only
  generalize (if isGap r seq then bump .seqGaps s else s) = u at k ⊢
  split
  · exact k.of rfl rfl
  · exact freshnessChange_settling _ _ (k.of rfl rfl)

theorem modeRequest_settling (t : Target) {s : State} (h : Settling s) : Settling (modeRequest t s) := by
  have start : ∀ g, Settling (requestStart g s) := fun g => by
    unfold requestStart
    split
    · exact h.of rfl rfl
    · rename_i e
      exact absurd e h.refused
  have current : Settling (requestCurrent s) := by
    unfold requestCurrent; dsimp only
    split <;> exact h.of rfl rfl
  unfold modeRequest
  split
  all_goals first
    | exact start _ | exact current | exact absurd (by assumption) h.dig | exact absurd (by assumption) h.prep
    | exact absurd (by assumption) h.walk | exact h.of rfl rfl

theorem setPoint_settling (p : Fin 48) (st : PState) (m : Bool) (t : Option Nat) {s : State} (h : Settling s) :
    Settling (setPoint p st m t s) := h.of (setPoint_mode p st m t s) (setPoint_kept p st m t s).analog

/-- What the console asks of the alarm points (R133, R134, R136, R137). -/
theorem pointActions_settling {s : State} (h : Settling s) :
    (∀ p, Settling (ack p s)) ∧ (∀ p m, Settling (shelve p m s)) ∧ (∀ p, Settling (unshelve p s))
      ∧ Settling (resetLatched s) := by
  have one : ∀ (p : Fin 48) (s : State), Settling s → Settling (ackPoint p s) := fun p s k => by
    unfold ackPoint; dsimp only
    split
    all_goals first | exact setPoint_settling _ _ _ _ k | exact k
  refine ⟨fun p => ?_, fun p m => ?_, fun p => ?_, ?_⟩
  · unfold ack
    repeat' split
    · exact Settling.foldl (fun s p k => one p s k) _ _ h
    · exact one _ s h
    · exact h
  · unfold shelve shelvePoint; dsimp only
    repeat' split
    all_goals first | exact h | exact setPoint_settling _ _ _ _ h | exact h.of rfl rfl
  · unfold unshelve unshelvePoint
    repeat' split
    all_goals first | exact h | exact setPoint_settling _ _ _ _ h
  · refine Settling.foldl (fun s p k => ?_) _ s h
    unfold resetPointLatch; dsimp only
    repeat' split
    all_goals first | exact k | exact setPoint_settling _ _ _ _ k

theorem resetTrip_settling {s : State} (h : Settling s) : Settling (resetTrip s) := by
  unfold resetTrip
  repeat' split
  · exact h.of rfl rfl
  · have e := modeSteps_mode (new := .parked) (by decide) s
    have k : Settling (modeSteps .parked s) := h.into (.inl e) (modeSteps_kept .parked s).analog
    exact drain_settling (k.of rfl rfl)
  · exact h.of rfl rfl

theorem act_settling (a : Action) {s : State} (h : Settling s) : Settling (act a s) := by
  unfold act
  split
  · exact modeRequest_settling _ h
  · exact (pointActions_settling h).1 _
  · exact (pointActions_settling h).2.1 _ _
  · exact (pointActions_settling h).2.2.1 _
  · exact (pointActions_settling h).2.2.2
  · exact resetTrip_settling h
  · unfold testStart
    split
    · exact acceptTest_settling h
    · exact h.of rfl rfl
    · exact h.of rfl rfl
  · unfold testAbort
    split
    · exact abortTest_settling h
    · exact h

theorem installAnalog_settling (ch : Fin 4) (old new : AnalogCfg) {s : State} (h : Settling s) :
    Settling (installAnalog ch old new s) := by
  have put : ∀ r : AinRun, r.ready = false → Settling (s.setAin ch r) := fun r e =>
    ⟨fun d => by
      show ((s.analog.set ch r)[d]).ready = false
      by_cases k : d = ch
      · subst k
        rw [Fin.getElem_fin, Vector.getElem_set_self]
        exact e
      · rw [Fin.getElem_fin, Vector.getElem_set_ne _ _ (fun q => k (Fin.ext q.symm))]
        exact h.ain d, h.dig, h.prep, h.walk⟩
  unfold installAnalog; dsimp only
  split
  · exact feed_settling _ _ _ _ (put _ rfl)
  · refine put _ ?_
    repeat' split
    all_goals exact h.ain ch

theorem installStations_settling (old : TableSet) {s : State} (h : Settling s) : Settling (installStations old s) := by
  unfold installStations; dsimp only
  refine Settling.foldl (fun s e k => ?_) _ _ (Settling.foldl (fun s e k => ?_) _ _ h)
  · exact Settling.foldl (fun _ _ j => skewAgain_settling _ (dropAxis_settling _ j)) _ _ (dropSensors_settling e k)
  · unfold installStation; dsimp only
    split
    · exact k.of rfl rfl
    · exact k

theorem installPoints_settling {s : State} (h : Settling s) : Settling (installPoints s) := by
  unfold installPoints; dsimp only
  exact Settling.of (s := s) h (Eq.refl s.mode) (Eq.refl s.analog)

theorem installSource_settling (old : TableSet) (e : Fin 16) {s : State} (h : Settling s) :
    Settling (installSource old e s) := by
  unfold installSource
  repeat' split
  all_goals first | exact feed_settling _ _ _ _ h | exact h

theorem install_settling {s : State} (h : Settling s) : Settling (install s) := by
  unfold install; dsimp only
  generalize hu : ({ s with tables := { s.tables with active := s.tables.staging, valid := true,
                                                      committed := false } } : State) = u
  have k : Settling u := by subst hu; exact h.of rfl rfl
  refine initTest_settling (Settling.foldl (fun _ _ k => setNorm_settling _ _ _ k) _ _ ?_)
  refine Settling.foldl (fun _ _ k => installAnalog_settling _ _ _ k) _ _ ?_
  refine Settling.foldl (fun _ _ k => installSource_settling _ _ k) _ _ ?_
  exact installPoints_settling (installStations_settling _ k)

theorem consume_settling (n : Nat) {s : State} (h : Settling s) : Settling (consume n s) := by
  unfold consume; dsimp only
  split
  · exact initTest_settling (feedAll_settling _ (h.of rfl rfl))
  · exact feedAll_settling _ (h.of rfl rfl)

theorem renew_settling (i : Fin 13) {s : State} (h : Settling s) : Settling (renew i s) := by
  unfold renew; dsimp only
  split
  · exact h.of rfl rfl
  · exact feed_settling _ _ _ _ (h.of rfl rfl)

theorem countersRead_settling (p : Nat) (c : Bool) {s : State} (h : Settling s) : Settling (countersRead p c s) := by
  unfold countersRead; dsimp only
  repeat' split
  · exact feed_settling _ _ _ _ (h.of rfl rfl)
  · exact h.of rfl rfl
  · exact h

theorem writeTable_settling (t e : Nat) (rest : List Byte) {s : State} (h : Settling s) :
    Settling (writeTable t e rest s).2 := by
  unfold writeTable
  repeat' split
  all_goals first | exact h | exact h.of rfl rfl

theorem activate_settling (rq : Requester) {s : State} (h : Settling s) : Settling (activate rq s) := by
  unfold activate
  repeat' split
  · exact answer_settling _ _ _ _ h
  · exact answer_settling _ _ _ _ h
  · exact answer_settling _ _ _ _ (install_settling h)
  · exact answer_settling _ _ _ _ h

theorem commit_settling (rq : Requester) {s : State} (h : Settling s) : Settling (commit rq s) := by
  have k : Settling (beginCommit rq s) := by
    unfold beginCommit
    exact Settling.of (s := s) h (Eq.refl s.mode) (Eq.refl s.analog)
  unfold commit
  repeat' split
  · exact answer_settling _ _ _ _ h
  · exact answer_settling _ _ _ _ h
  · exact k

theorem saveAttributes_settling (rq : Requester) {s : State} (h : Settling s) : Settling (saveAttributes rq s) := by
  unfold saveAttributes
  split
  · exact answer_settling _ _ _ _ h
  · exact h.of rfl rfl

theorem renewAttribute_settling (rq : Requester) (i : Nat) {s : State} (h : Settling s) :
    Settling (renewAttribute rq i s) := by
  unfold renewAttribute
  repeat' split
  all_goals first | exact answer_settling _ _ _ _ h | exact answer_settling _ _ _ _ (renew_settling _ h)

/-- The requests that read keep it, as they change nothing but the ring (R192, R194, R164, R190). -/
theorem readings_settling (rq : Requester) {s : State} (h : Settling s) :
    (∀ b t e, Settling (readTable rq b t e s)) ∧ (∀ k, Settling (readActiveList rq k s))
      ∧ (∀ k p, Settling (readTrip rq k p s)) ∧ (∀ a, Settling (readTestLog rq a s)) := by
  refine ⟨fun b t e => ?_, fun k => ?_, fun k p => ?_, fun a => ?_⟩
  · unfold readTable
    split <;> exact answer_settling _ _ _ _ h
  · unfold readActiveList
    repeat' split
    all_goals exact answer_settling _ _ _ _ h
  · unfold readTrip
    repeat' split
    all_goals exact answer_settling _ _ _ _ h
  · unfold readTestLog
    split <;> exact answer_settling _ _ _ _ h

theorem carryOut_settling (rq : Requester) (r : Request) {s : State} (h : Settling s) : Settling (carryOut rq r s) := by
  cases r with
  | identify => exact answer_settling _ _ _ _ h
  | readStatus p => exact answer_settling _ _ _ _ h
  | readTable c t e => exact (readings_settling rq h).1 c t e
  | writeTable t e rest => exact answer_settling _ _ _ _ (writeTable_settling t e rest h)
  | copyActiveToStaging => exact answer_settling _ _ _ _ (h.of rfl rfl)
  | activate => exact activate_settling rq h
  | commit => exact commit_settling rq h
  | saveAttributes => exact saveAttributes_settling rq h
  | readAttributes p => exact answer_settling _ _ _ _ h
  | renewAttribute i => exact renewAttribute_settling rq i h
  | readActiveList k => exact (readings_settling rq h).2.1 k
  | readTrip k p => exact (readings_settling rq h).2.2.1 k p
  | consumeTrips n => exact answer_settling _ _ _ _ (consume_settling n h)
  | readTestLog a => exact (readings_settling rq h).2.2.2 a
  | startBrakeTest =>
    show Settling (startBrakeTest rq s)
    unfold startBrakeTest
    split
    · exact answer_settling _ _ _ _ (acceptTest_settling h)
    · exact answer_settling _ _ _ _ h
  | abortBrakeTest =>
    show Settling (abortBrakeTest rq s)
    unfold abortBrakeTest
    split
    · exact answer_settling _ _ _ _ (abortTest_settling h)
    · exact answer_settling _ _ _ _ h
  | readStation e => exact answer_settling _ _ _ _ h
  | readCounters p c => exact answer_settling _ _ _ _ (countersRead_settling p c h)
  | restart =>
    show Settling (requestRestart rq s)
    unfold requestRestart
    split
    · exact answer_settling _ _ _ _ h
    · exact answer_settling _ _ _ _ (h.of rfl rfl)

theorem takeRequest_settling (f : Frame) {s : State} (h : Settling s) : Settling (takeRequest f s) := by
  have k : Settling (takeArrival f s) := h.of rfl rfl
  unfold takeRequest; dsimp only
  repeat' split
  · exact h.of rfl rfl
  · exact carryOut_settling _ _ k
  · exact answer_settling _ _ _ _ k
  · exact answer_settling _ _ _ _ k

theorem dispatch_settling (f : Frame) {s : State} (h : Settling s) : Settling (dispatch f s) := by
  have p : Settling (passing f s) := by
    unfold passing
    repeat' split
    · exact limit_settling _ _ h
    · exact h
    · unfold takeStatus
      refine forward_settling _ _ ?_
      split
      · exact driveArrival_settling _ _ h
      · exact h
    · exact h
    · exact takeReport_settling _ _ h
    · exact h
    · exact forward_settling _ _ h
  unfold dispatch
  repeat' split
  · unfold takeAction
    repeat' split
    · exact act_settling _ (h.of rfl rfl)
    · exact h.of rfl rfl
    · exact h.of rfl rfl
  · exact takeRequest_settling _ h
  · exact h.of rfl rfl
  · exact takeRequest_settling _ h
  · exact p

/-- A frame taken at IN keeps this (R8 to R12). -/
theorem takeFrame_settling (f : Option Frame) {s : State} (h : Settling s) : Settling (takeFrame f s) := by
  have k : Settling (silenceRestart (bump .taken s)) := by
    unfold silenceRestart; dsimp only
    split
    · exact feed_settling _ _ _ _ (h.of rfl rfl)
    · exact h.of rfl rfl
  unfold takeFrame checkFrame arrive; dsimp only
  repeat' split
  all_goals first
    | exact k.of rfl rfl
    | exact dispatch_settling _ k
    | exact dispatch_settling _ (arrival_settling _ _ _ k)

/-- The frames taken before steps 3 to 5 keep it: none of them leads into DIG, WALK_PREP or WALKING (R201). -/
theorem earlyFrames_settling (early : List (List Byte)) {s : State} (h : Settling s) : Settling (earlyFrames early s) :=
  earlyFrames_keep (fun _ _ k => finish_settling (takeFrame_settling _ k)) early s h

/-- Before steps 3 to 5 every channel settles, in INIT (R29, R148, R201). -/
theorem volatileReset_settling (straps : BitVec 6) (s : State) : Settling (volatileReset straps s) := by
  have m : (volatileReset straps s).mode = .init := rfl
  refine ⟨fun ch => ?_, by rw [m]; decide, by rw [m]; decide, by rw [m]; decide⟩
  show ((Vector.replicate 4 resetAin)[ch]).ready = false
  rw [Fin.getElem_fin, Vector.getElem_replicate]
  rfl

theorem keepOver_settling {old s : State} (h : Settling s) : Settling (keepOver old s) := h.of rfl rfl

end Sys2Proof.Machine
end

