-- ==== Sys2Proof/Laws/Tables.lean ====
section
/-!
SUPPORT. WRITE_TABLE: the taking apart of the values and the change of a field as the conditions R191 and R195 word.
-/

namespace Sys2Proof.Machine

theorem nameOk_iff (k : Nat) (b : Byte) : nameOk k b = true ↔ b.toNat < k := by simp [nameOk]

theorem split_num (n : Nat) (bs : List Byte) :
    (FieldForm.num n).split bs = if n ≤ bs.length then some (bs.take n, bs.drop n) else none := by
  cases bs <;> rfl

/-- A field of one byte taken off the front. -/
theorem split_one (f : FieldForm) (k : Nat) (bs x rest : List Byte)
    (h0 : f.split [] = none) (h1 : ∀ b bs, f.split (b :: bs) = if nameOk k b then some ([b], bs) else none) :
    f.split bs = some (x, rest) ↔ bs = x ++ rest ∧ ∃ b : Byte, x = [b] ∧ b.toNat < k := by
  cases bs with
  | nil =>
    rw [h0]
    simp
    rintro rfl _ b hb
    cases hb
  | cons b bs =>
    rw [h1]
    by_cases h : nameOk k b = true
    · rw [if_pos h]
      rw [nameOk_iff] at h
      constructor
      · intro e; cases e; exact ⟨rfl, b, rfl, h⟩
      · rintro ⟨e, c, rfl, _⟩; cases e; rfl
    · rw [if_neg h]
      rw [nameOk_iff] at h
      constructor
      · intro e; cases e
      · rintro ⟨e, c, rfl, hc⟩; cases e; exact absurd hc h

/-- A field's bytes taken off the front of a byte string are bytes that carry a value of its form (R191). -/
theorem split_iff (f : FieldForm) (bs x rest : List Byte) :
    f.split bs = some (x, rest) ↔ bs = x ++ rest ∧ Carries 0 f x := by
  cases f with
  | num n =>
    rw [split_num]
    unfold Carries
    constructor
    · intro h
      split at h
      · simp only [Option.some.injEq, Prod.mk.injEq] at h
        obtain ⟨rfl, rfl⟩ := h
        exact ⟨(List.take_append_drop n bs).symm, by simpa⟩
      · cases h
    · rintro ⟨rfl, rfl⟩
      simp
  | name k => exact split_one _ k _ _ _ rfl fun _ _ => rfl
  | flag => simpa [Carries] using split_one .flag 2 bs x rest rfl fun _ _ => rfl
  | modes => exact split_one _ 128 _ _ _ rfl fun _ _ => rfl
  | optName k =>
    unfold Carries
    cases bs with
    | nil =>
      constructor
      · intro h; cases h
      · rintro ⟨h, rfl | ⟨b, rfl, _⟩⟩ <;> cases h
    | cons b bs =>
      show (if b = 0#8 then some ([b], bs) else if b = 1#8 then
        match bs with
        | c :: bs' => if nameOk k c then some ([b, c], bs') else none
        | [] => none
        else none) = _ ↔ _
      by_cases h0 : b = 0#8
      · rw [if_pos h0]; subst h0
        constructor
        · intro e; cases e; exact ⟨rfl, .inl rfl⟩
        · rintro ⟨e, rfl | ⟨c, rfl, _⟩⟩ <;> cases e; rfl
      rw [if_neg h0]
      by_cases h1 : b = 1#8
      · rw [if_pos h1]; subst h1
        cases bs with
        | nil =>
          constructor
          · intro e; cases e
          · rintro ⟨e, rfl | ⟨c, rfl, _⟩⟩ <;> cases e
        | cons c bs =>
          dsimp only
          by_cases h : nameOk k c = true
          · rw [if_pos h]; rw [nameOk_iff] at h
            constructor
            · intro e; cases e; exact ⟨rfl, .inr ⟨c, rfl, h⟩⟩
            · rintro ⟨e, rfl | ⟨d, rfl, _⟩⟩ <;> cases e; rfl
          · rw [if_neg h]; rw [nameOk_iff] at h
            constructor
            · intro e; cases e
            · rintro ⟨e, rfl | ⟨d, rfl, hd⟩⟩ <;> cases e; exact absurd hd h
      · rw [if_neg h1]
        constructor
        · intro e; cases e
        · rintro ⟨e, rfl | ⟨d, rfl, hd⟩⟩
          · cases e; exact absurd rfl h0
          · cases e; exact absurd rfl h1
  | chans =>
    unfold Carries
    cases bs with
    | nil =>
      constructor
      · intro h; cases h
      · rintro ⟨h, l, rfl, _⟩; cases h
    | cons b bs =>
      show (if b.toNat ≤ bs.length ∧ (bs.take b.toNat).all (nameOk 4) then
        some (b :: bs.take b.toNat, bs.drop b.toNat) else none) = _ ↔ _
      constructor
      · intro h; split at h
        · rename_i hc
          simp only [Option.some.injEq, Prod.mk.injEq] at h
          obtain ⟨rfl, rfl⟩ := h
          refine ⟨by simp, bs.take b.toNat, ?_, ?_, ?_⟩
          · congr 1
            rw [List.length_take, Nat.min_eq_left hc.1]
            simp [byte]
          · have := b.isLt
            simp; omega
          · intro y hy
            exact (nameOk_iff _ _).mp (List.all_eq_true.mp hc.2 y hy)
        · cases h
      · rintro ⟨h, l, rfl, hl, hb⟩
        have hn : (byte l.length).toNat = l.length := by simp [byte]; omega
        simp only [List.cons_append, List.cons.injEq] at h
        obtain ⟨rfl, rfl⟩ := h
        rw [hn, if_pos ⟨by simp, by simpa [nameOk_iff] using hb⟩]
        simp

/-- The bytes a marked field takes under a write mode are bytes that carry a value of its form (R195). -/
theorem splitValue_iff (mode : Nat) (f : FieldForm) (bs x rest : List Byte) :
    splitValue mode f bs = some (x, rest) ↔ bs = x ++ rest ∧ Carries mode f x := by
  rcases mode with _ | n
  · show f.split bs = _ ↔ _
    exact split_iff f bs x rest
  · have other : f ≠ .flag → splitValue (n + 1) f bs = f.split bs ∧ (Carries (n + 1) f x ↔ Carries 0 f x) := by
      intro h
      cases f <;> first | exact absurd rfl h | exact ⟨by cases bs <;> rfl, Iff.rfl⟩
    by_cases h : f = .flag
    · subst h
      unfold Carries
      cases bs with
      | nil =>
        constructor
        · intro e; cases e
        · rintro ⟨e, b, rfl, _⟩; cases e
      | cons b bs =>
        constructor
        · intro e; cases e; exact ⟨rfl, b, rfl, fun k => by cases k⟩
        · rintro ⟨e, c, rfl, _⟩; cases e; rfl
    · obtain ⟨h1, h2⟩ := other h
      rw [h1, h2, split_iff]

/-- What a marked field becomes is what the table of R195 gives. -/
theorem applyField_iff {mode : Nat} (hm : mode < 4) (f : FieldForm) (old x b : List Byte) :
    applyField mode f old x = some b ↔ FieldBecomes mode f old x b := by
  unfold FieldBecomes
  rcases mode with _ | _ | _ | _ | n <;> first | omega | (cases f <;> simp [applyField] <;> exact eq_comm)

/-- The fields after an accepted WRITE_TABLE are those R195 words. -/
theorem applyFields_iff {mode : Nat} (hm : mode < 4) :
    ∀ (fs : List FieldBytes) (m v : List Byte) (bs : List (List Byte)),
      applyFields mode fs m v = some bs ↔ Written mode fs m v bs := by
  intro fs
  induction fs with
  | nil =>
    intro m v bs
    cases m <;> cases v <;> simp [applyFields, Written, eq_comm]
  | cons f fs ih =>
    obtain ⟨f, old⟩ := f
    intro m v bs
    cases m with
    | nil => cases bs <;> simp [applyFields, Written]
    | cons m ms =>
      have key : ∀ b bs', applyFields mode ((f, old) :: fs) (m :: ms) v = some (b :: bs') ↔
          Written mode ((f, old) :: fs) (m :: ms) v (b :: bs') := by
        intro b bs'
        unfold applyFields Written
        by_cases h0 : m = 0#8
        · subst h0
          simp [ih, eq_comm, and_comm]
        · by_cases h1 : m = 1#8
          · subst h1
            simp only [if_true, h0, false_and, false_or, true_and, ← and_assoc, ← splitValue_iff, if_false]
            simp only [and_assoc, ← applyField_iff hm, ← ih]
            constructor
            · intro h
              split at h
              · rename_i x rest hx
                split at h
                · rename_i y hy
                  obtain ⟨l, hl, e⟩ := Option.map_eq_some_iff.mp h
                  cases e
                  exact ⟨x, rest, hx, hy, hl⟩
                · cases h
              · cases h
            · rintro ⟨x, rest, hx, hy, hl⟩
              simp only [hx, hy, hl, Option.map_some]
          · simp [h0, h1]
      cases bs with
      | nil =>
        unfold applyFields Written
        simp only [iff_false]
        repeat' split
        all_goals simp
      | cons b bs => exact key b bs

end Sys2Proof.Machine
end

