-- ==== Sys2Proof/Laws/Timers.lean ====
section
/-!
SUPPORT. What the tick queues: the expiries of the timers that stand and have run out, each once (log 2).
-/

namespace Sys2Proof.Machine

theorem expired_iff (s : State) (t : Option Nat) : s.expired t = true ↔ RunOut s t := by
  unfold State.expired RunOut
  cases t <;> simp

theorem mem_dueIf (s : State) (t : Option Nat) (c d : Instr) : d ∈ s.dueIf t c ↔ d = c ∧ RunOut s t := by
  unfold State.dueIf
  rw [← expired_iff]
  split <;> rename_i h <;> simp [h]

theorem runOut_bind {α : Type} (s : State) (o : Option α) (f : α → Option Nat) :
    RunOut s (o.bind f) ↔ ∃ a, o = some a ∧ RunOut s (f a) := by
  cases o <;> simp [RunOut]

theorem runOut_slot (s : State) :
    RunOut s (s.ctl.slot.bind Slot.dwellEnd)
      ↔ ∃ g d, s.ctl.slot = some { target := g, wait := .dwell d } ∧ d ≤ s.now := by
  rw [runOut_bind]
  constructor
  · rintro ⟨⟨g, w⟩, h, d, hd, hn⟩
    cases w <;> simp only [Slot.dwellEnd] at hd <;> cases hd
    exact ⟨g, _, h, hn⟩
  · rintro ⟨g, d, h, hn⟩
    exact ⟨_, h, d, rfl, hn⟩

theorem mem_allChans (c : Chan) : c ∈ allChans := by cases c <;> decide

/-- The commands that a tick queues are the expiries of the timers that stand and have run out. -/
theorem mem_due (s : State) (c : Instr) : c ∈ s.due ↔ IsDue s c := by
  unfold State.due State.dueStation State.dueChan State.duePoint State.dueTest
  simp only [List.mem_append, List.mem_flatMap, mem_dueIf, List.mem_finRange, mem_allChans, true_and, runOut_slot]
  cases c <;> simp [IsDue, runOut_bind]

/-- A timer's expiry is queued once. -/
theorem dueIf_nodup (s : State) (t : Option Nat) (c : Instr) : (s.dueIf t c).Nodup := by
  unfold State.dueIf
  split <;> simp

/-- Lists of expiries for the members of a list without repetitions, each member's its own, hold none twice. -/
theorem nodup_flatMap_of {α : Type} {l : List α} (h : l.Nodup) {f : α → List Instr} (own : Instr → Option α)
    (hf : ∀ a, (f a).Nodup) (ho : ∀ a, ∀ c ∈ f a, own c = some a) : (l.flatMap f).Nodup := by
  rw [List.nodup_flatMap]
  refine ⟨fun a _ => hf a, h.imp ?_⟩
  intro a b hab c ha hb
  exact hab (Option.some.inj ((ho a c ha).symm.trans (ho b c hb)))

/-- A list holds no command twice, and only commands of a rank below `k`. -/
def Below (rank : Instr → Nat) (k : Nat) (l : List Instr) : Prop := l.Nodup ∧ ∀ c ∈ l, rank c < k

/-- A list of commands of the next rank joins it. -/
theorem Below.join {rank : Instr → Nat} {k : Nat} {l r : List Instr} (h : Below rank k l) (hr : r.Nodup)
    (e : ∀ c ∈ r, rank c = k) : Below rank (k + 1) (l ++ r) := by
  refine ⟨List.nodup_append'.mpr ⟨h.1, hr, fun c hl hc => ?_⟩, fun c hc => ?_⟩
  · have := h.2 c hl; have := e c hc; omega
  · rcases List.mem_append.mp hc with hc | hc
    · have := h.2 c hc; omega
    · have := e c hc; omega

theorem Below.first {rank : Instr → Nat} {r : List Instr} (hr : r.Nodup) (e : ∀ c ∈ r, rank c = 0) : Below rank 1 r :=
  ⟨hr, fun c hc => by have := e c hc; omega⟩

/-- The place of a timer in the lists of expiries, within its unit for a brake channel, a point and the tester. -/
def unitRank : Instr → Nat
  | .releaseDueExpiry _ | .onDelayExpiry _ | .rampTimeout => 0
  | .proveTimerExpiry _ | .shelfExpiry _ | .holdExpiry => 1
  | .releaseConfirmExpiry _ | .testPeriodExpiry => 2
  | .releaseDwellExpiry _ | .resumeExpiry => 3
  | .setConfirmExpiry _ | .suspendLimitExpiry => 4
  | _ => 5

/-- The place of a timer's unit in the list of expiries. -/
def timerRank : Instr → Nat
  | .freshnessTimerExpiry _ => 0
  | .ringSilenceExpiry => 1
  | .dwellExpiry => 2
  | .parkTimerExpiry => 3
  | .releaseDueExpiry _ | .proveTimerExpiry _ | .releaseConfirmExpiry _ | .releaseDwellExpiry _ | .setConfirmExpiry _
  | .autosetExpiry _ => 4
  | .onsetExpiry => 5
  | .confirmTimerExpiry => 6
  | .prepTimeoutExpiry => 7
  | .onDelayExpiry _ | .shelfExpiry _ => 8
  | .rampTimeout | .holdExpiry | .testPeriodExpiry | .resumeExpiry | .suspendLimitExpiry => 9
  | _ => 10

/-- The channel that an expiry is of. -/
def chanOfExpiry : Instr → Option Chan
  | .releaseDueExpiry c | .proveTimerExpiry c | .releaseConfirmExpiry c | .releaseDwellExpiry c | .setConfirmExpiry c
  | .autosetExpiry c => some c
  | _ => none

/-- The commands that a tick queues are queued once each. -/
theorem due_nodup (s : State) : s.due.Nodup := by
  have n : ∀ t c, (s.dueIf t c).Nodup := dueIf_nodup s
  have r : ∀ {rank : Instr → Nat} {k : Nat} {t c}, rank c = k → ∀ d ∈ s.dueIf t c, rank d = k := fun h d hd => by
    rw [((mem_dueIf ..).mp hd).1, h]
  have st : ((List.finRange 16).flatMap s.dueStation).Nodup :=
    nodup_flatMap_of (List.nodup_finRange 16) (fun c => match c with | .freshnessTimerExpiry e => some e | _ => none)
      (fun e => n _ _) (fun e c h => by rw [((mem_dueIf ..).mp h).1])
  have ch : (allChans.flatMap s.dueChan).Nodup := by
    refine nodup_flatMap_of (by decide) chanOfExpiry (fun c => ?_) (fun c d h => ?_)
    · exact ((((((Below.first (rank := unitRank) (n _ _) (r rfl)).join (n _ _) (r rfl)).join (n _ _) (r rfl)).join (n _ _)
        (r rfl)).join (n _ _) (r rfl)).join (n _ _) (r rfl)).1
    · simp only [State.dueChan, List.mem_append, mem_dueIf] at h
      rcases h with ((((h | h) | h) | h) | h) | h <;> rw [h.1] <;> rfl
  have pt : ((List.finRange 48).flatMap s.duePoint).Nodup := by
    refine nodup_flatMap_of (List.nodup_finRange 48)
      (fun c => match c with | .onDelayExpiry p => some p | .shelfExpiry p => some p | _ => none)
      (fun p => ?_) (fun p d h => ?_)
    · exact ((Below.first (rank := unitRank) (n _ _) (r rfl)).join (n _ _) (r rfl)).1
    · simp only [State.duePoint, List.mem_append, mem_dueIf] at h
      rcases h with h | h <;> rw [h.1]
  have te : s.dueTest.Nodup :=
    (((((Below.first (rank := unitRank) (n _ _) (r rfl)).join (n _ _) (r rfl)).join (n _ _) (r rfl)).join (n _ _)
      (r rfl)).join (n _ _) (r rfl)).1
  have b1 : Below timerRank 1 ((List.finRange 16).flatMap s.dueStation) := Below.first st fun c h => by
    obtain ⟨e, _, h⟩ := List.mem_flatMap.mp h
    exact r rfl c h
  have b5 := (((b1.join (n s.ring.silence .ringSilenceExpiry) (r rfl)).join
    (n (s.ctl.slot.bind Slot.dwellEnd) .dwellExpiry) (r rfl)).join (n s.ctl.parkTimer .parkTimerExpiry) (r rfl)).join ch
      fun c h => by
        simp only [State.dueChan, List.mem_flatMap, List.mem_append, mem_dueIf] at h
        obtain ⟨_, _, ((((h | h) | h) | h) | h) | h⟩ := h <;> rw [h.1] <;> rfl
  have b9 := (((b5.join (n s.tight.onset .onsetExpiry) (r rfl)).join (n s.walk.tConfirm .confirmTimerExpiry) (r rfl)).join
    (n s.walk.tTimeout .prepTimeoutExpiry) (r rfl)).join pt fun c h => by
      simp only [State.duePoint, List.mem_flatMap, List.mem_append, mem_dueIf] at h
      obtain ⟨_, _, h | h⟩ := h <;> rw [h.1] <;> rfl
  have b10 := b9.join te fun c h => by
    simp only [State.dueTest, List.mem_append, mem_dueIf] at h
    rcases h with (((h | h) | h) | h) | h <;> rw [h.1] <;> rfl
  exact (b10.join (n s.attrs.tMinute .minuteTimerExpiry) (r rfl)).1

/-- Nothing but the waiting commands and the free-value index differs. -/
def OnlyQueue (s t : State) : Prop := t = { s with pending := t.pending, freeIdx := t.freeIdx }

theorem OnlyQueue.trans {a b c : State} (h : OnlyQueue a b) (k : OnlyQueue b c) : OnlyQueue a c := by
  unfold OnlyQueue at *
  rw [h] at k
  exact k

/-- A command put into the queue is in it once more, and nothing else changes (log 2). -/
theorem post_posts (s : State) (c : Instr) : (post s c).pending.Perm (c :: s.pending) ∧ OnlyQueue s (post s c) := by
  unfold post
  split
  · rename_i h
    exact ⟨by rw [h], rfl⟩
  · exact ⟨List.perm_insertIdx _ _ (Nat.le_of_lt_succ (Nat.mod_lt _ (Nat.succ_pos _))), rfl⟩

theorem foldl_post (l : List Instr) : ∀ s : State,
    (l.foldl post s).pending.Perm (l ++ s.pending) ∧ OnlyQueue s (l.foldl post s) := by
  induction l with
  | nil => exact fun s => ⟨.refl _, rfl⟩
  | cons c l ih =>
    intro s
    obtain ⟨p1, e1⟩ := post_posts s c
    obtain ⟨p2, e2⟩ := ih (post s c)
    exact ⟨p2.trans ((p1.append_left l).trans List.perm_middle), e1.trans e2⟩

/-- A tick lets a millisecond pass and queues the expiries due, in some order (log 2). -/
theorem tick_ticks (s : State) :
    (tick s).pending.Perm (State.due { s with now := s.now + 1 } ++ s.pending)
      ∧ OnlyQueue { s with now := s.now + 1 } (tick s) :=
  foldl_post _ _

end Sys2Proof.Machine
end

