-- ==== Sys2Proof/Laws/Walking.lean ====
section
/-!
SUPPORT. The entry to WALKING from WALK_PREP (R31, R120): the steps of the change of mode, and what they leave with the skew
within its limit and above it.
-/

namespace Sys2Proof.Machine

/-- The walk sequencer's part of the change from WALK_PREP to WALKING (R120). -/
theorem enterWalking_entered {a r : State} (hr : r = enterWalking a)
    (h : a.walk.camReversal = false ∨ a.pointsOn 77 = []) :
    r = { a with
      walk := { a.walk with steps := 0, distance := 0, stepMark := a.lagTurn, reversal := ⟨false, false⟩ }
      alarm := { a.alarm with sources := r.alarm.sources }
      updates := r.updates
      heldTrips := a.heldTrips ++ match a.walk.skew with
        | some k => if a.act.walk.tripLimit < k then [{ cause := .skew, action := .both, frame := none }] else []
        | none => [] }
    ∧ (a.walk.camReversal = false → r.source 77 = a.source 77 ∧ r.updates = a.updates)
    ∧ (a.updates = none → r.updates = none
        ∧ (a.walk.camReversal = true → r.source 77 = { value := 0, valid := true })) := by
  unfold enterWalking at hr
  dsimp only at hr
  generalize hb : ({ a with walk := { a.walk with steps := 0, distance := 0, stepMark := a.lagTurn
                                                  reversal := ⟨false, false⟩ } } : State) = b at hr
  have hw : b.walk = { a.walk with steps := 0, distance := 0, stepMark := a.lagTurn, reversal := ⟨false, false⟩ } := by
    rw [← hb]
  have hB : ∀ c : State, c = (if a.walk.camReversal = true then feedHeld 77 0 true none b else b) →
      c = { b with alarm := { b.alarm with sources := c.alarm.sources }, updates := c.updates }
      ∧ (a.walk.camReversal = false → c.source 77 = a.source 77 ∧ c.updates = a.updates)
      ∧ (a.updates = none → c.updates = none ∧ (a.walk.camReversal = true → c.source 77 = { value := 0, valid := true })) := by
    rintro c rfl
    cases hc : a.walk.camReversal
    · rw [if_neg Bool.false_ne_true]
      subst hb
      exact ⟨rfl, fun _ => ⟨rfl, rfl⟩, fun u => ⟨u, fun k => by cases k⟩⟩
    · rw [if_pos rfl]
      have hp : b.pointsOn 77 = [] := by
        rcases h with h | h
        · rw [hc] at h; cases h
        · rw [← hb]; exact h
      refine ⟨?_, fun k => by simp at k, fun u => ?_⟩
      · unfold feedHeld
        rw [hp]
        cases b.updates <;> rfl
      · have hu : b.updates = none := by rw [← hb]; exact u
        rw [feedHeld_alone hp hu]
        exact ⟨hu, fun _ => setSource_source_same (by decide) (by decide) ..⟩
  obtain ⟨b1, b2, b3⟩ := hB _ rfl
  generalize (if a.walk.camReversal = true then feedHeld 77 0 true none b else b) = c at b1 b2 b3 hr
  have hcw : c.walk.skew = a.walk.skew := by rw [b1, hw]
  have hca : c.act = a.act := by rw [b1, ← hb]
  have hch : c.heldTrips = a.heldTrips := by rw [b1, ← hb]
  have hl : ∀ l : List TripIn, l = (match a.walk.skew with
        | some k => if a.act.walk.tripLimit < k then [{ cause := .skew, action := .both, frame := none }] else []
        | none => []) →
      (match c.walk.skew with
        | some k =>
          if c.act.walk.tripLimit < k then
            { c with heldTrips := c.heldTrips ++ [{ cause := .skew, action := .both, frame := none }] }
          else c
        | none => c) = { c with heldTrips := a.heldTrips ++ l } := by
    intro l hl
    rw [hl, hcw, hca]
    cases a.walk.skew with
    | none => rw [← hch]; simp
    | some k =>
      dsimp only
      split
      · rw [← hch]
      · rw [← hch]; simp
  have hr := hr.trans (hl _ rfl)
  subst hr
  refine ⟨?_, b2, b3⟩
  generalize (match a.walk.skew with
        | some k => if a.act.walk.tripLimit < k then [{ cause := .skew, action := .both, frame := none }] else []
        | none => [] : List TripIn) = l
  rw [b1, ← hb]

/-- The steps of the change from WALK_PREP to WALKING (R31, R118, R120). -/
theorem modeSteps_walking {s r : State} (hr : r = modeSteps .walking s) (hm : s.mode = .walkPrep)
    (h : s.walk.camReversal = false ∨ s.pointsOn 77 = []) :
    r = { s with
      ctl := r.ctl
      walk := { s.walk with steps := 0, distance := 0, stepMark := s.lagTurn, reversal := ⟨false, false⟩
                            tConfirm := none, tTimeout := none }
      alarm := r.alarm, owed := r.owed, statusOwed := r.statusOwed, updates := r.updates
      heldTrips := s.heldTrips ++ match s.walk.skew with
        | some k => if s.act.walk.tripLimit < k then [{ cause := .skew, action := .both, frame := none }] else []
        | none => [] }
    ∧ r.ctl.slot = none
    ∧ (s.walk.camReversal = false → r.source 77 = s.source 77 ∧ r.updates = s.updates)
    ∧ (s.updates = none → r.updates = none
        ∧ (s.walk.camReversal = true → r.source 77 = { value := 0, valid := true })) := by
  unfold modeSteps at hr
  dsimp only at hr
  rw [if_neg (show Mode.walking ≠ .dig by decide), hm] at hr
  generalize ha : ({ s with ctl := _ } : State) = a at hr
  have h1 := rearmPoints_rest a
  have h2 := (rearmPoints_armed a).points
  generalize rearmPoints a = b at h1 h2 hr
  have hs : b.alarm.sources = s.alarm.sources := by unfold Points at h2; rw [h2, ← ha]
  have hc : ∀ c, c = walkModeChange .walkPrep .walking b → c = enterWalking { b with walk := { b.walk with
      tConfirm := none, tTimeout := none } } := fun c hc => hc
  generalize walkModeChange .walkPrep .walking b = c at hr hc
  obtain ⟨c1, c2, c3⟩ := enterWalking_entered (hc c rfl) (by
    show b.walk.camReversal = false ∨ b.pointsOn 77 = []
    rw [h1, ← ha]; exact h)
  have ht : tightModeChange .walkPrep c = c := rfl
  rw [ht, if_neg (by intro k; cases k.1)] at hr
  have e1 : b.walk = s.walk ∧ b.act = s.act ∧ b.heldTrips = s.heldTrips ∧ b.updates = s.updates := by
    rw [h1, ← ha]; exact ⟨rfl, rfl, rfl, rfl⟩
  have e2 : ∀ n, b.source n = s.source n := source_congr hs
  refine ⟨?_, ?_, ?_, ?_⟩
  · subst hr
    unfold oweStatus
    have hb : b.lagTurn = s.lagTurn := by unfold State.lagTurn; rw [e1.1]
    have hl : ({ b with walk := { b.walk with tConfirm := none, tTimeout := none } } : State).lagTurn = s.lagTurn := hb
    rw [hl] at c1
    dsimp only at c1
    rw [e1.1, e1.2.2.1] at c1
    have ea : State.act { b with walk := { s.walk with tConfirm := none, tTimeout := none } } = s.act := e1.2.1
    rw [ea] at c1
    have hb' : b = { s with ctl := b.ctl, alarm := b.alarm, owed := b.owed, statusOwed := b.statusOwed } := by
      rw [h1, ← ha]
    generalize (match s.walk.skew with
        | some k => if s.act.walk.tripLimit < k then [{ cause := .skew, action := .both, frame := none }] else []
        | none => [] : List TripIn) = l at c1 ⊢
    dsimp only
    rw [c1]
    dsimp only
    rw [hb']
  · rw [hr]
    show c.ctl.slot = none
    rw [c1, h1, ← ha]
  · intro k
    have := c2 (by show b.walk.camReversal = false; rw [e1.1]; exact k)
    rw [hr]
    exact ⟨this.1.trans (e2 77), this.2.trans e1.2.2.2⟩
  · intro u
    have := c3 (e1.2.2.2.trans u)
    rw [hr]
    exact ⟨this.1, fun k => this.2 (by show b.walk.camReversal = true; rw [e1.1]; exact k)⟩

/-- What a trip's record captures is read from these parts alone (R161, R162). -/
theorem Captured.of_eq {s a : State} {i : TripIn} {first : Bool} {r : TripRecord} (h : Captured a i first r)
    (h1 : a.trip = s.trip) (h2 : a.now = s.now) (h3 : a.attrs = s.attrs) (h4 : a.mode = s.mode)
    (h5 : a.walk.phase = s.walk.phase) (h6 : a.walk.tubRaised = s.walk.tubRaised) (h7 : a.feedback = s.feedback)
    (h8 : a.brakes = s.brakes) (h9 : a.stations = s.stations) (h10 : a.tables = s.tables)
    (h11 : a.alarm.list = s.alarm.list) : Captured s i first r := by
  have hd : ∀ x, a.driveFresh x = s.driveFresh x := by
    intro x
    unfold State.driveFresh State.driveEntry State.entryFresh State.act
    rw [h9, h10]
  unfold Captured at *
  rw [h1, h2, h3, h4, h5, h6, h7, h8, h11] at h
  simp only [hd] at h
  exact h

/-- What the change from WALK_PREP to WALKING leaves, with no trip held (R120). -/
theorem changeMode_walking {s t : State} (ht : t = changeMode .walking s) (hm : s.mode = .walkPrep)
    (hh : s.heldTrips = []) : WalkEntered s t := by
  intro h
  unfold changeMode at ht
  obtain ⟨m1, m2, m3, m4⟩ := modeSteps_walking rfl hm h
  obtain ⟨n1, n2, _⟩ := modeSteps_rearmed (m := .walking) (s := s) (by rw [hm]; intro e; cases e) (fun _ => h)
  generalize modeSteps .walking s = a at *
  rw [hh, List.nil_append] at m1
  constructor
  · intro hk
    have ha : a.heldTrips = [] := by
      rw [m1]
      cases hs : s.walk.skew with
      | none => rfl
      | some k => dsimp only; rw [if_neg (by have := hk k hs; omega)]
    rw [drain_none ha] at ht
    subst ht
    refine ⟨⟨n1, m2, ?_, ?_, ?_, ?_, ?_, ?_, ?_⟩, n2, ?_, fun u k => (m4 u).2 k, fun k => (m3 k).1⟩
    all_goals rw [m1]
  · intro k hs hk hu hw hx
    have ha : a.heldTrips = [{ cause := .skew, action := .both, frame := none }] := by
      rw [m1, hs]; dsimp only; rw [if_pos hk]
    have hq : t = handTrip { cause := .skew, action := .both, frame := none } { a with heldTrips := [] } := by
      rw [ht]; unfold handTrip; rw [← ha]
      rfl
    have hw' : TripUnwatched { a with heldTrips := [] } := by
      have e : a.act = s.act := by rw [m1]
      refine ⟨?_, ?_, fun k => ?_⟩
      · have := hw.1; unfold State.pointsOn at *; rw [← e] at this; exact this
      · have := hw.2.1; unfold State.pointsOn at *; rw [← e] at this; exact this
      · have : a.mode = .dig := k
        rw [n1] at this; cases this
    have hwalk : State.mode { a with heldTrips := [] } = .walking := n1
    obtain ⟨t1, t2, t3, _, ⟨r, t4, t5⟩, _⟩ := handTrip_taken { cause := .skew, action := .both, frame := none }
      (s := { a with heldTrips := [] }) rfl (m4 hu).1 hw'
    obtain ⟨f1, _, f2, _, _, f3, f4⟩ := handTrip_first { cause := .skew, action := .both, frame := none }
      (s := { a with heldTrips := [] }) rfl (m4 hu).1 hw' (by rw [hwalk]; decide)
    rw [← hq] at *
    refine ⟨t1, by rw [f2], t2, t3 rfl, ⟨r, ?_, t5.of_trip (by rw [m1]) (by rw [m1]) (by rw [m1])⟩, ?_,
      fun c => f4.trans ((m4 hu).2 c), fun c => f4.trans (m3 c).1, fun c => ?_⟩
    · rw [hwalk] at t4
      refine Captured.of_eq (s := { s with ctl := { s.ctl with mode := .walking } }) (first := true)
        (a := { a with heldTrips := [] }) (by simpa using t4) ?_ ?_ ?_ n1 ?_ ?_ ?_ ?_ ?_ ?_ (n2.2.2 hx)
      all_goals (show _ = _; rw [m1])
    · rw [f3, hwalk]
      have : State.walk { a with heldTrips := [] } = { s.walk with
          steps := 0, distance := 0, stepMark := s.lagTurn, reversal := ⟨false, false⟩, tConfirm := none
          tTimeout := none } := by rw [m1]
      rw [this]
      rfl
    · have hb : State.brakes { a with heldTrips := [] } = s.brakes := by rw [m1]
      have := f1 c
      rw [hb] at this
      exact this.of_eq (by rw [m1]) (by rw [m1]) (by rw [m1])

/-- The notices built at the end of the command leave it so (R18). -/
theorem WalkEntered.finish {s t : State} (h : WalkEntered s t) : WalkEntered s (finish t) := by
  intro k
  obtain ⟨h1, h2⟩ := h k
  have e : ∀ n, (Machine.finish t).source n = t.source n := fun n => source_congr (by simp) n
  have hm : (Machine.finish t).mode = t.mode := by unfold State.mode; simp
  refine ⟨fun q => ?_, fun k a b c d f => ?_⟩
  · obtain ⟨⟨w1,w2,w3,w4,w5,w6,w7,w8,w9⟩, a2, a3, a4⟩ := h1 q
    exact ⟨⟨by rw [hm]; exact w1, by simpa using w2, by simpa using w3, by simpa using w4, by simpa using w5,
      by simpa using w6, by simpa using w7, by simpa using w8, by simpa using w9⟩,
      rearmed_congr a2 hm (by simp) (by simp), by simpa using a3, by simpa [e] using a4⟩
  · obtain ⟨b1,b2,b3,b4,⟨r,b5,b6⟩,b7,b8,b9,b10⟩ := h2 k a b c d f
    refine ⟨by rw [hm]; exact b1, by simpa using b2, by simpa using b3, by simpa using b4, ⟨r, b5, ?_⟩,
      by simpa using b7, by simpa [e] using b8, by simpa [e] using b9, by simpa using b10⟩
    unfold RecordTaken at *; simpa using b6

/-- The change from WALK_PREP to PARKED, while no trip is held (R31, R118, R119). -/
theorem changeMode_parked_from_prep {s : State} (hm : s.mode = .walkPrep) (hh : s.heldTrips = []) :
    changeMode .parked s = modeSteps .parked s ∧ (modeSteps .parked s) = { s with
      ctl := (modeSteps .parked s).ctl, walk := { s.walk with tConfirm := none, tTimeout := none }
      alarm := (modeSteps .parked s).alarm, owed := (modeSteps .parked s).owed
      statusOwed := (modeSteps .parked s).statusOwed } := by
  have : (modeSteps .parked s) = { s with
      ctl := (modeSteps .parked s).ctl, walk := { s.walk with tConfirm := none, tTimeout := none }
      alarm := (modeSteps .parked s).alarm, owed := (modeSteps .parked s).owed
      statusOwed := (modeSteps .parked s).statusOwed } := by
    unfold modeSteps walkModeChange tightModeChange
    rw [hm]
    simp
    generalize ha : ({ s with ctl := _ } : State) = a
    have h1 := rearmPoints_rest a
    generalize rearmPoints a = b at h1 ⊢
    unfold oweStatus
    simp
    have : b.walk = s.walk := by rw [h1, ← ha]
    rw [this]
    have hb' : b = { s with ctl := b.ctl, alarm := b.alarm, owed := b.owed, statusOwed := b.statusOwed } := by
      rw [h1, ← ha]
    rw [hb']
    simp
  refine ⟨drain_none (by rw [this]; exact hh), this⟩

end Sys2Proof.Machine
end

