-- ==== Sys2Proof/WellFormed.lean ====
section
/-!
DEFINITION. Which commands can be sent. A typed frame row spells a frame whose payload has 0..48 bytes (spec 01,
1.1); an answer and a request have at most 45 bytes of arguments (R191); a frame as received has at least the length
a receiver can delimit. A command outside these bounds still has a meaning in the machine (a frame that fails its
check is removed, R8), but no station that keeps to the frame format sends it.
-/

namespace Sys2Proof

/-- The payload bytes a typed frame row spells beyond its fixed part are within the 48 of a payload (spec 01, 1.1;
R6 for the 1..8 pairs of a Sensor Report; R191 for the 45 argument bytes of a request). -/
def Instr.WellFormed : Instr → Bool
  | .sensorReport _ pairs => decide (1 ≤ pairs.length) && decide (pairs.length ≤ 8)
  | .writeTable _ _ _ _ mask _ values => decide (mask.length + values.length + 3 ≤ 45)
  | .unknownRequest _ payload => decide (payload.length ≤ 48)
  | .frameTakenAtIn bytes => decide (bytes.length ≤ 262)
  | .powerOnReset _ early => early.all fun bytes => decide (bytes.length ≤ 262)
  | .restartTakesEffect early => early.all fun bytes => decide (bytes.length ≤ 262)
  | .modeRequest _ t => decide (t.toNat ≤ 2)
  | .ack _ p => decide (p.toNat ≤ 48)
  | .shelve _ p m => decide (1 ≤ p.toNat) && decide (p.toNat ≤ 48) && decide (1 ≤ m.toNat) && decide (m.toNat ≤ 480)
  | .unshelve _ p => decide (1 ≤ p.toNat) && decide (p.toNat ≤ 48)
  | _ => true

end Sys2Proof
end

