-- ==== Sys2Proof/Tests/Slice0.lean ====
section
/-!
SUPPORT. The package's own tests: the well-formedness smoke, vectors worked in the spec, and for every statement that has
premises a state and operands that meet them, clause by clause.
-/

namespace Sys2Proof.Tests

open Sys2Proof.Machine

set_option Elab.async false

/-! A small machine: tables in force, every station FRESH, mode PARKED at time 1000. -/

/-- A DRIVE entry. -/
def drive (n : Nat) (x : Axis) : StationCfg := { number := n, role := .drive, axis := some x, timeout := 500 }

/-- Station entries: CONSOLE 1, MANAGER 2, SENSOR 3, drives 10 to 14, and 60 unused. -/
def demoStations : Vector StationCfg 16 :=
  (((((((emptyTables.stations.set 0 { number := 1, role := .console, axis := none, timeout := 500 }).set 1
    { number := 2, role := .manager, axis := none, timeout := 500 }).set 2
    { number := 3, role := .sensor, axis := none, timeout := 500 }).set 3 (drive 10 .hoist)).set 4 (drive 11 .drag)).set 5
    (drive 12 .swing)).set 6 (drive 13 .walkLeft)).set 7 (drive 14 .walkRight)

/-- Brake parameters. -/
def demoBrake : BrakeCfg :=
  { minSet := 0, minRelease := 100, prove := 500, releaseConfirm := 500, setConfirm := 500, proving := 20, band := 10,
    autoset := 1000 }

/-- A point on a source, armed in every mode. -/
def demoPoint (src : Nat) (cls : PClass) (latching : Bool) : PointCfg :=
  { enabled := true, source := src, dir := .above, setThr := 100, clearThr := 50, onDelay := 20, cls := cls,
    latching := latching, mask := 127#7, action := if cls = .trip then some .both else none }

/-- The tables in force. -/
def demoTables : TableSet :=
  { emptyTables with
    stations := demoStations
    mode := { parkedDwell := 100, digDwell := 100, walkingDwell := 100, cap := ⟨900, 900, 900, 900, 900⟩, parkCode := 1 }
    brake := ⟨demoBrake, demoBrake, { demoBrake with proving := 0 }, { demoBrake with proving := 0 }⟩
    matrix := ⟨⟨none, some 0, some 0, none⟩, ⟨some 0, none, some 0, none⟩, ⟨some 0, some 0, none, none⟩, ⟨some 0, some 0, none, none⟩⟩
    drag := { rows := 1, dragMin := 100, dragMax := 2900, band := 200, slow := 200 }
    rows := emptyTables.rows.set 0 { dragStart := 0, hoistMin := 100, hoistMax := 2800, band := 200, slow := 150 }
    zones := (emptyTables.zones.set 0 { kind := .noEntry, start := 1000, stop := 1500, slow := 100, band := 50 }).set 1
      { kind := .slow, start := 2000, stop := 2500, slow := 300, band := 0 }
    walk := { emptyTables.walk with sectors := 6, trimLimit := 50, trimPercent := 20, tripLimit := 100, headingTol := 1800,
                                    slack := 300, boomMin := -100, boomMax := 100, inclChannel := 1, inclLimit := 50,
                                    prepConfirm := 1000, prepTimeout := 10000 }
    sectors := (((((emptyTables.sectors.set 0 ⟨0, .home, 300⟩).set 1 ⟨600, .lower, 500⟩).set 2 ⟨1000, .lift, 500⟩).set 3
      ⟨1500, .stride, 500⟩).set 4 ⟨2000, .setdown, 500⟩).set 5 ⟨3000, .raise, 500⟩
    points := ((emptyTables.points.set 0 (demoPoint 20 .warning false)).set 1 (demoPoint 21 .trip false)).set 2
      (demoPoint 22 .warning true)
    analog := emptyTables.analog.set 0
      { emptyAnalog with limitOn := true, rawLimit := 4000, persistence := 2, action := .both, role := .boom,
                         fatigue := 1000, reset := 500 }
    test := { segments := [.hoist, .walk], torque := 50, hold := 500, slip := ⟨10, 10, 10, 10⟩, policy := .suspend }
    options := { tripHold := true, generalCall := true, life := 5, tightLevel := 100, onset := 200, tightTorque := 80 } }

/-- The running state of a FRESH entry. -/
def freshRun : StationRun :=
  { fresh := .fresh, expiries := 0, timer := some 1400, lastSeq := some 8#8, gaps := 0, lastArrival := some 900 }

/-- A feedback record of an axis at rest. -/
def restFeedback : Feedback :=
  { brake := .set, ready := true, speed := 0, position := 1200, previous := some 1200, turns := 0, current := 0,
    updated := true }

/-- The small machine in PARKED. -/
def base : State :=
  { State.reset with
    now := 1000
    ring := { State.reset.ring with sending := none, silence := some 1040 }
    stations := demoTables.stations.map fun c => if c.number = 0 then none else some freshRun
    feedback := ⟨restFeedback, restFeedback, restFeedback, restFeedback, restFeedback⟩
    sensors := Vector.replicate 16 { value := 0, writer := some 2, valid := true }
    ctl := { State.reset.ctl with mode := .parked, reason := .none, parkTimer := none }
    analog := Vector.replicate 4 { resetAin with ready := true, settle := 50 }
    alarm := { State.reset.alarm with
      points := demoTables.points.map fun c => if c.enabled then { resetPoint with state := .normal } else resetPoint }
    trip := { State.reset.trip with field := .energised, brake := .energised }
    walk := { State.reset.walk with left := some 1200, right := some 1200, lagging := some .walkLeft, skew := some 0,
                                    phase := some .home }
    tables := { active := demoTables, staging := demoTables, valid := true, committed := true } }

/-- The small machine in another mode. -/
def inMode (m : Mode) (s : State) : State := { s with ctl := { s.ctl with mode := m } }

/-- The machine TRIPPED, FIELD and BRAKE de-energised. -/
def tripped : State :=
  { inMode .tripped base with trip := { base.trip with field := .deEnergised, brake := .deEnergised } }

/-- The machine in INIT with valid tables. -/
def inInit : State :=
  { inMode .init base with
    ctl := { base.ctl with mode := .init, reason := .waiting }
    trip := { base.trip with field := .deEnergised, brake := .deEnergised } }

/-- A channel of the machine in a state. -/
def chanIn (c : Chan) (f : Channel → Channel) (s : State) : State :=
  { s with brakes := s.brakes.set c (f (s.brakes.get c)) }

/-- An alarm point in a state, on the list when it belongs there. -/
def pointIn (p : Fin 48) (st : PState) (mark : Bool) (s : State) : State :=
  { s with alarm :=
      { s.alarm with
        points := s.alarm.points.set p
          { resetPoint with state := st, mark := mark, tDelay := if st = .delaying then some 900 else none,
                            tShelf := if st = .shelved then some 900 else none }
        list := if st.listed then s.alarm.list ++ [p] else s.alarm.list } }

/-- A test in progress on the first segment, HOIST. -/
def testing (ph : SegPhase) : State :=
  { inMode .testing base with
    tester := { base.tester with
      status := .inProgress, number := some 1, nextNumber := 2, segment := some 0, phase := some ph, count := 2
      start := if ph = .hold then some ⟨1200, 0⟩ else none
      tRamp := if ph = .ramp then some 990 else none
      tHold := if ph = .hold then some 990 else none
      tPeriod := some 1000 } }

/-- A waiting PARK. -/
def parkPending (w : Wait) (s : State) : State :=
  { s with ctl := { s.ctl with slot := some { target := .park, wait := w } } }

/-- A header from a station to the M4. -/
def from_ (src : Byte) : Header := { dst := 7#8, src := src, life := 3#4, seq := 9#8 }

/-- A header from a station past the M4. -/
def past (src dst : Byte) : Header := { dst := dst, src := src, life := 3#4, seq := 9#8 }

/-- An Operator Action from the console. -/
def action (code : Byte) (args : List Byte) : Frame := actionFrame (from_ 1#8) code args

/-- A Management Request from the manager. -/
def request (code : Byte) (args : List Byte) : Frame := requestFrame (from_ 2#8) code 0x1234#16 args

/-- The state a next outcome gives. -/
def after (o : Host.Outcome State Fault Refusal) : Option State :=
  match o with
  | .next s => some s
  | _ => none

/-- The ASCII digits 1 to 9 (R2, R198). -/
def digits : List Byte := [0x31#8, 0x32#8, 0x33#8, 0x34#8, 0x35#8, 0x36#8, 0x37#8, 0x38#8, 0x39#8]

/-! The well-formedness smoke: an ill-formed command for each check. -/

theorem test_refuses_empty_sensor_report : Instr.WellFormed (.sensorReport (past 3 1) []) = false := by decide
theorem test_refuses_nine_pairs :
    Instr.WellFormed (.sensorReport (past 3 1) (List.replicate 9 (0#8, 0#16))) = false := by decide
theorem test_refuses_long_write :
    Instr.WellFormed (.writeTable (from_ 2) 0#16 1#8 1#8 (List.replicate 20 1#8) 0#8 (List.replicate 23 0#8)) = false := by
  decide
theorem test_refuses_long_request :
    Instr.WellFormed (.unknownRequest (from_ 2) (List.replicate 49 0#8)) = false := by decide
theorem test_refuses_long_frame :
    Instr.WellFormed (.frameTakenAtIn (List.replicate 263 0#8)) = false := by decide +kernel
theorem test_refuses_long_early_frame :
    Instr.WellFormed (.powerOnReset 7#6 [List.replicate 263 0#8]) = false
      ∧ Instr.WellFormed (.restartTakesEffect [List.replicate 263 0#8]) = false := by decide +kernel
theorem test_refuses_mode_3 : Instr.WellFormed (.modeRequest (from_ 1) 3#8) = false := by decide
theorem test_refuses_ack_49 : Instr.WellFormed (.ack (from_ 1) 49#8) = false := by decide
theorem test_refuses_shelve_0 : Instr.WellFormed (.shelve (from_ 1) 0#8 1#16) = false := by decide
theorem test_refuses_shelve_49 : Instr.WellFormed (.shelve (from_ 1) 49#8 1#16) = false := by decide
theorem test_refuses_shelve_no_minutes : Instr.WellFormed (.shelve (from_ 1) 1#8 0#16) = false := by decide
theorem test_refuses_shelve_481 : Instr.WellFormed (.shelve (from_ 1) 1#8 481#16) = false := by decide
theorem test_refuses_unshelve_0 : Instr.WellFormed (.unshelve (from_ 1) 0#8) = false := by decide
theorem test_refuses_unshelve_49 : Instr.WellFormed (.unshelve (from_ 1) 49#8) = false := by decide

/-! Vectors and small runs. -/

/-- The published check value of the CRC of R2 over the nine digits. -/
theorem test_frame_check : crc16 digits = 0x29B1#16 := by decide +kernel
/-- The published check value of the CRC of R198 over the nine digits. -/
theorem test_store_check : crc32 digits = 0xFC891918#32 := by decide +kernel
/-- No row of the table gives bits, so no word spells a command. -/
theorem test_no_word : decodeTableWord 8 0 = none := rfl
/-- The reset state is what a power-on reset of it leaves (log 4). -/
theorem test_reset_is_a_fixed_point : after (exec (.powerOnReset 7#6 []) State.reset) = some State.reset := by
  decide +kernel
/-- The small machine's tables pass every check of ACTIVATE (R196). -/
theorem test_tables_pass : base.activateFailure = none := by decide +kernel
/-- The figure of R173 at its ends: nothing used, all used, more than all. -/
theorem test_normalise : [normalise 0 10, normalise 10 10, normalise 11 10] = [100, 1, 1] := by decide
/-- A conversion of half the reference, and of none and of all of it (R145). -/
theorem test_raw : [rawOf 1250000 2500000, rawOf 0 2500000, rawOf 2500000 2500000] = [2047, 0, 4095] := by decide
/-- A trip from PARKED de-energises both lines and leaves one record (R157, R163). -/
theorem test_trip :
    (let s := handTrip { cause := .direct 0, action := .both, frame := none } base
     s.mode == .tripped && s.trip.field == .deEnergised && s.trip.queue.length == 1 && s.trip.next == 2) = true := by
  decide +kernel
/-- The tables read back from their bytes are the tables (R198, R199). -/
theorem test_tables_read_back : tablesOf (tablesBytes demoTables) = some demoTables := by decide +kernel
/-- The save image reads back as the records and the minutes it was made from (R178). -/
theorem test_image_reads_back : imageOf base.saveImage = some (base.attrs.recs, base.attrs.minutes) := by
  decide +kernel
/-- A COMMIT's region passes its check, and an empty region does not (R198). -/
theorem test_region_check :
    [regionContents (.bytes (regionBytes [1#8, 2#8])), regionContents (.bytes [1#8, 2#8]), regionContents (.bytes []),
      regionContents .unfinished] = [some [1#8, 2#8], none, none, none] := by decide +kernel
/-- A wait that a mode request leaves falls due at a tick, and the tick queues its expiry (R38; log 2). -/
theorem test_tick_queues_a_dwell :
    (let s := { base with ctl := { base.ctl with slot := some { target := .dig, wait := .dwell 1001 } } }
     (after (step s)).map State.pending) = some [.dwellExpiry] := by decide +kernel
/-- A DIG request in PARKED, sent as the front command, leads to DIG (R34, R35). -/
theorem test_step_runs_a_mode_request :
    (after (step { base with pending := [.modeRequest (from_ 1#8) (targetByte .dig)] })).map State.mode = some .dig := by
  decide +kernel

/-- The worked example of chapter 5: swing angle, speed after the mode stage, speed out, cause. -/
def zoneLines : List (Nat × Int × Int × Cause) :=
  [(1000, 700, 700, .none), (1500, 700, 100, .zone), (1500, -700, -700, .none), (1650, 100, 0, .zone),
    (1650, -400, -100, .zone), (1850, -400, 0, .zone), (1850, 400, 100, .zone), (1800, -400, -100, .zone),
    (2650, 600, 300, .zone), (2900, -800, -300, .zone), (3300, -500, -500, .none)]

theorem test_worked_zones :
    (let t := { demoTables with zones :=
        (emptyTables.zones.set 0 ⟨.noEntry, 1650, 1950, 100, 200⟩).set 1 ⟨.slow, 2700, 3100, 300, 100⟩ }
     zoneLines.all fun (a, v, o, c) =>
       let s := { base with tables := { base.tables with active := t }
                            feedback := { base.feedback with swing := { restFeedback with position := a } } }
       let e := limitStage .swing s { speed := v, torque := 0, brake := 0, block := none, lower := .none }
       e.speed == o && e.cause == c) = true := by decide +kernel

/-- The worked example of chapter 4: axis, drag payout, hoist payout, speed after the mode stage, speed out, cause. -/
def envelopeLines : List (Axis × Nat × Nat × Int × Int × Cause) :=
  [(.hoist, 650, 120, -600, -600, .none), (.hoist, 650, 70, -600, -200, .envelope), (.hoist, 650, 30, -600, 0, .envelope),
    (.hoist, 650, 30, 400, 400, .none), (.drag, 650, 30, -950, -950, .none), (.hoist, 580, 45, -300, -150, .envelope),
    (.hoist, 580, 45, 900, 900, .none), (.drag, 180, 45, -950, -250, .envelope)]

theorem test_worked_envelope :
    (let t := { demoTables with
        drag := { rows := 3, dragMin := 120, dragMax := 2400, band := 100, slow := 250 }
        rows := ((emptyTables.rows.set 0 ⟨0, 40, 1800, 60, 150⟩).set 1 ⟨600, 30, 2200, 50, 200⟩).set 2
          ⟨1400, 30, 2600, 50, 200⟩ }
     envelopeLines.all fun (x, d, h, v, o, c) =>
       let s := { base with tables := { base.tables with active := t }
                            feedback := { base.feedback with hoist := { restFeedback with position := h }
                                                             drag := { restFeedback with position := d } } }
       let e := limitStage x s { speed := v, torque := 0, brake := 0, block := none, lower := .none }
       e.speed == o && e.cause == c) = true := by decide +kernel

/-- The worked example of chapter 3: the due time of a hoist release (R50). -/
theorem test_worked_due_time :
    (let b : BrakeCfg := { demoBrake with minSet := 1500 }
     let t := { demoTables with brake := { demoTables.brake with hoist := b }
                                matrix := { demoTables.matrix with drag := ⟨some 1000, none, some 0, none⟩ } }
     let s := { base with now := 21000, tables := { base.tables with active := t } }
     let at_ (c : Chan) (n : Nat) (s : State) : State := chanIn c (fun ch => { ch with setTime := n }) s
     State.dueTime (at_ .hoist 20000 (at_ .drag 20800 (at_ .swing 5000 (at_ .walk 1000 s)))) .hoist == 21800) = true := by
  decide +kernel

/-! Witnesses: for every statement with premises, states and operands that meet them, one entry for each clause. -/

/-- A machine in DIG. -/
def digging : State := inMode .dig base
/-- A machine in WALKING. -/
def walking : State := inMode .walking base
/-- A machine in WALK_PREP with both timers run out. -/
def preparing : State :=
  { inMode .walkPrep base with walk := { base.walk with tConfirm := some 1000, tTimeout := some 1000 } }
/-- The channel HOIST in RELEASED, in DIG. -/
def releasedHoist (since : Nat) : State :=
  chanIn .hoist (fun c => { c with state := .released, releasedTime := some since, standing := .release,
                                   armed := true, tAutoset := some 1000 }) digging
/-- An entry with an expiry count and its timer run out. -/
def entryAt (e : Fin 16) (n : Nat) (s : State) : State :=
  s.setStation e (some { freshRun with fresh := if n = 0 then .fresh else .stale, expiries := n, timer := some 1000 })
/-- A forward queue of 8 frames, OUT sending its head. -/
def forwardFull (s : State) : State :=
  { s with ring := { s.ring with
      fwd := List.replicate 8 { frame := frameOf (past 10 11) 8#4 [], taken := [] }, sending := some .forward } }
/-- A frame of kind 8 from drive 10 to drive 11. -/
def passingFrame : Frame := frameOf (past 10 11) 8#4 []
/-- A Reference for HOIST, speed 500. -/
def hoistRef : RefWire := { axis := 1#8, brake := 1#8, lever := 100#16, speed := 500#16, torque := 100#16, cause := 0#8 }
/-- Its frame, from the console to the HOIST drive. -/
def hoistFrame : Frame := refFrame (past 1 10) hoistRef
/-- The Reference it parses to. -/
def hoistParsed : Ref := { axis := .hoist, brake := .release, lever := 100#16, speed := 500, torque := 100 }
/-- The machine with tables that are not valid. -/
def noTables (s : State) : State := { s with tables := { s.tables with valid := false } }
/-- A Reference at a stage with a speed. -/
def atSpeed (v : Int) : Eval := { speed := v, torque := 100, brake := 0, block := none, lower := .none }
/-- HOIST or DRAG or SWING at a position. -/
def hoistAt (p : Nat) : State :=
  { base with feedback := { base.feedback with hoist := { restFeedback with position := p } } }
/-- A test suspended with both its timers run out. -/
def suspended : State :=
  { testing .ramp with tester := { (testing .ramp).tester with
      status := .suspended, tRamp := none, tPeriod := none, tResume := some 1000, tSuspend := some 1000 } }

theorem witness_StepRunsFrontCommand : ∃ (c : Instr) (rest : List Instr) (s : State), s.pending = c :: rest :=
  ⟨.initToParked, [], { State.reset with pending := [.initToParked] }, rfl⟩

theorem witness_TickAndQueue :
    State.reset.pending = [] ∧ Instr.minuteTimerExpiry ∈ State.due { State.reset with now := 60000 } := by
  refine ⟨rfl, ?_⟩
  decide +kernel

theorem witness_Restart :
    [State.sendsRestart
        { base with ring := { base.ring with sending := some (.inserted (.response true) passingFrame) } },
      !base.sendsRestart,
      base.requests (request 18#8 []),
      base.store.state == .idle && !base.store.restartPending,
      (State.store { base with store := { base.store with state := .saving } }).state != .idle].all id = true := by
  decide +kernel

theorem witness_WireBytes :
    decide ((action 5#8 []).payload.length ≤ 48) = true
      ∧ rowFrame (.resetTrip (from_ 1#8)) = some (action 5#8 []) := ⟨by decide, rfl⟩

theorem witness_FramesRemovedByStage :
    [(parseFrame []).isNone,
      (let f := frameOf (past 63 1) 7#4 []; parseFrame (wireBytes f) == some f && !(frameOk f && formOk f)),
      (let f := frameOf (past 7 1) 7#4 []
       parseFrame (wireBytes f) == some f && frameOk f && formOk f && f.src == base.ownByte),
      (let f := frameOf { past 10 1 with life := 0#4 } 7#4 []
       parseFrame (wireBytes f) == some f && frameOk f && formOk f && f.src != base.ownByte && f.life == 0#4),
      (let f := frameOf { past 10 1 with seq := 8#8 } 7#4 []
       parseFrame (wireBytes f) == some f && frameOk f && formOk f && f.src != base.ownByte && f.life != 0#4
         && base.sourceRun f == some (3, freshRun) && freshRun.lastSeq == some f.seq)].all id = true := by
  decide +kernel

theorem witness_PassingFramesAreForwarded :
    (let f := passingFrame
     parseFrame (wireBytes f) == some f && [base, forwardFull base].all fun s =>
       s.passes f && !(received f s).addressed f && !(received f s).takesGeneralCall f) = true
      ∧ base.ring.fwd.length < 8 ∧ 8 ≤ (forwardFull base).ring.fwd.length := by
  decide +kernel

theorem witness_Freshness :
    [base.sourceRun passingFrame == some (3, freshRun), !isGap freshRun passingFrame.seq,
      isGap freshRun 11#8,
      (entryAt 3 0 digging).expired (some 1000), !digging.expired freshRun.timer,
      [0, 1, 2].all fun n => ((entryAt 3 n digging).stations[3]).map StationRun.expiries == some n,
      (digging.act.stations[3]).role == .drive && (digging.act.stations[3]).axis == some .hoist,
      digging.mode == .dig && digging.heldTrips.isEmpty].all id = true := by
  decide +kernel

theorem witness_TurnedAwayAtTheM4 :
    [(let f := frameOf (from_ 1#8) 8#4 []; parseFrame (wireBytes f) == some f && base.passes f
        && (received f base).addressed f),
      (let f := actionFrame (from_ 2#8) 5#8 []; parseFrame (wireBytes f) == some f && base.passes f
        && (received f base).addressed f && !(received f base).consoleOk f),
      (let f := request 0#8 []
       let s := { base with ring := { base.ring with reserved := 15 } }
       parseFrame (wireBytes f) == some f && s.passes f && (received f s).addressed f
         && decide ((received f s).freeCount < 2)),
      (let f := frameOf (from_ 2#8) 5#4 [99#8, 0#8, 0#8]; base.requests f && (requestOf f).isNone),
      (let f := frameOf (from_ 1#8) 5#4 [0#8, 0#8, 0#8]; base.passes f && (received f base).addressed f
        && decide (2 ≤ (received f base).freeCount) && !(received f base).managerOk f)].all id = true := by
  decide +kernel

theorem witness_References :
    [(let f := hoistFrame
      parseRef f.payload == some hoistParsed && base.passes f && !(received f base).addressed f),
      (let s := received hoistFrame digging
       s.tables.valid && s.refAddressed hoistFrame hoistParsed
         && !(standingStage hoistParsed s).segmentRuns .hoist),
      !(received hoistFrame (noTables base)).tables.valid, (noTables base).passes hoistFrame,
      (forwardFull (noTables base)).passes hoistFrame,
      (let f := refFrame (past 1 11) hoistRef
       base.passes f && !(received f base).addressed f && !(received f base).refAddressed f hoistParsed
         && ((received f base).pointsOn 79).isEmpty),
      (let r : RefWire := { hoistRef with lever := 0#16 }
       let f := refFrame (past 1 10) r
       let p : Ref := { hoistParsed with lever := 0#16 }
       let s := received f (testing .ramp)
       parseRef f.payload == some p && (testing .ramp).passes f && !s.addressed f && s.tables.valid
         && s.refAddressed f p && (standingStage p s).segmentRuns .hoist)].all id = true := by
  decide +kernel

theorem witness_LimiterStages :
    [!permits base.mode .hoist, permits digging.mode .hoist && !digging.held .hoist,
      State.held { digging with ctl := { digging.ctl with hold := .digChannels } } .hoist,
      !(entryAt 3 1 digging).driveFresh .hoist,
      [ChanState.set, .releasePending, .releasing, .released, .setPending, .setting, .fault].all fun st =>
        ((chanIn .hoist (fun c => { c with state := st }) digging).brakes.get .hoist).state == st,
      base.feedback.drag.updated && (base.envelopeRow base.feedback.drag.position).isSome,
      !(State.feedback { base with feedback := { base.feedback with drag := emptyFeedback } }).drag.updated,
      [100, 101, 299, 300, 2599, 2600, 2601, 2799, 2800].all fun p => (hoistAt p).feedback.hoist.position == p,
      [(-500 : Int), -150, 0, 150, 500].all fun v => (atSpeed v).speed == v,
      (demoTables.zones[2]).kind == .unused, (demoTables.zones[1]).inside 2000, (demoTables.zones[1]).inside 2500,
      (demoTables.zones[0]).inside 1000 && (demoTables.zones[0]).inside 1250 && (demoTables.zones[0]).inside 1500,
      !(demoTables.zones[0]).inside 950 && !(demoTables.zones[0]).inside 1551,
      (zoneCap (demoTables.zones[0]) 950 500).isSome && (zoneCap (demoTables.zones[0]) 949 500).isNone,
      (base.sectorOf 1200).isSome && base.walk.skew == some 0,
      (let s := { walking with walk := { walking.walk with skew := some 51 } }
       decide (s.act.walk.trimLimit < 51) && s.leading .walkRight && !s.leading .walkLeft),
      (let s := { digging with tight := { digging.tight with start := some 0, reduction := true } }
       s.tight.reduction && decide (s.act.options.tightTorque < 100))].all id = true := by
  decide +kernel

theorem witness_DriveStatusUpdatesFeedback :
    (let w : StatusWire := { axis := 1#8, status := 0x80#8, speed := 0#16, position := 5#16, turns := 0#16, current := 0#16 }
     let f := statusFrame (past 10 1) w
     let g := statusFrame (past 11 1) w
     (parseStatus f.payload).isSome && base.passes f && !(received f base).addressed f
       && (received f base).isDriveOf f.src .hoist && base.passes g && !(received g base).isDriveOf g.src .hoist) = true := by
  decide +kernel

theorem witness_SensorReportSetsValues :
    (let ps : List (Byte × Half) := [(0#8, 5#16), (0#8, 6#16)]
     let f := sensorFrame (past 3 1) ps
     let g := sensorFrame (past 10 1) ps
     parseReport f.payload == some [(0, 5), (0, 6)] && base.passes f && !(received f base).addressed f
       && (received f base).entryOf f.src == some 2 && ((received f base).act.stations[2]).role == .sensor
       && base.passes g && !(received g base).hasRole g.src .sensor) = true := by
  decide +kernel

theorem witness_ModeRequests :
    [(let f := action 0#8 [targetByte .dig]; let u := actedOn f base
      base.acts f && u.mode == .parked && u.heldTrips.isEmpty && !u.pendingTarget .dig && u.requestCheck.isNone
        && u.dwellMet u.act.mode.parkedDwell && u.act.walk.prepConfirm != 0),
      (let f := action 0#8 [targetByte .walk]; let u := actedOn f base
       base.acts f && u.mode == .parked && !u.pendingTarget .walk && u.requestCheck.isNone),
      (let s := { base with ctl := { base.ctl with entryTime := 901 } }
       let f := action 0#8 [targetByte .dig]
       s.acts f && !(actedOn f s).dwellMet 100),
      [Mode.init, .testing, .tripped, .dig, .walkPrep, .walking].all fun m =>
        (inMode m base).acts (action 0#8 [targetByte .walk]) && (inMode m base).acts (action 0#8 [targetByte .dig])
          && (actedOn (action 0#8 [targetByte .dig]) (inMode m base)).mode == m,
      (let s := entryAt 3 1 base; (actedOn (action 0#8 [targetByte .dig]) s).requestCheck == some .stationNotFresh
        && s.acts (action 0#8 [targetByte .dig]))].all id = true := by
  decide +kernel

theorem witness_ParkingBegins :
    [(let f := action 0#8 [0#8]; let s := releasedHoist 950; let u := actedOn f s
      s.acts f && u.mode == .dig && !u.pendingTarget .park && u.dwellMet u.act.mode.digDwell
        && !(parkingSetAll u).allSet),
      (let s := releasedHoist 950
       let t := { s with ctl := { s.ctl with parkTimer := some 1000 } }
       t.mode == .dig && t.expired t.ctl.parkTimer && !t.pendingTarget .park && t.dwellMet t.act.mode.digDwell
         && !(parkingSetAll t).allSet),
      (parkPending .brakes digging).pendingTarget .park,
      !(State.dwellMet { digging with ctl := { digging.ctl with entryTime := 901 } } 100)].all id = true := by
  decide +kernel

theorem witness_Points :
    [base.acts (action 1#8 [byte 1]), base.acts (action 1#8 [byte 48]), base.acts (action 1#8 [0#8]),
      base.acts (action 4#8 []), base.acts (action 2#8 (byte 48 :: Half.bytes 480#16)),
      base.acts (action 2#8 (byte 1 :: Half.bytes 1#16)), base.acts (action 3#8 [byte 1]),
      [PState.normal, .activeUnack, .activeAck, .returnedUnack, .shelved].all fun st =>
        ((actedOn (action 1#8 [byte 1]) (pointIn 0 st false base)).alarm.points[0]).state == st,
      (let s := pointIn 2 .activeAck true base
       (s.act.points[2]).latching && (s.alarm.points[2]).mark && (s.alarm.points[2]).state == .activeAck),
      ((pointIn 2 .activeUnack true base).alarm.points[2]).state == .activeUnack,
      !(base.act.points[3]).enabled, (base.act.points[1]).enabled && (base.act.points[1]).cls == .trip,
      (base.act.points[0]).enabled && (base.act.points[0]).cls == .warning,
      (let s := pointIn 0 .shelved false base; s.expired (s.alarm.points[0]).tShelf),
      (let s := pointIn 0 .delaying false base; s.heldTrips.isEmpty && s.expired (s.alarm.points[0]).tDelay),
      (let s := pointIn 1 .delaying false base
       s.expired (s.alarm.points[1]).tDelay && (s.act.points[1]).action == some .both
         && decide (s.trip.queue.length < 32))].all id = true := by
  decide +kernel

theorem witness_ResetTrip :
    [(let u := actedOn (action 5#8 []) tripped
      tripped.acts (action 5#8 []) && u.mode == .tripped && u.heldTrips.isEmpty && !u.tripPointActive && !u.directHold
        && u.allSet && u.trip.queue.isEmpty),
      (let s := pointIn 1 .activeUnack false tripped
       s.acts (action 5#8 []) && (actedOn (action 5#8 []) s).tripPointActive),
      (let s := tripped.setAin 0 { resetAin with ready := true, beyond := 1 }
       s.acts (action 5#8 []) && (actedOn (action 5#8 []) s).directHold),
      (let s := chanIn .hoist (fun c => { c with state := .fault }) tripped
       s.acts (action 5#8 []) && !(actedOn (action 5#8 []) s).allSet),
      (let r := capture { cause := .skew, action := .both, frame := none } true base
       let s := { tripped with trip := { tripped.trip with queue := [r] } }
       s.acts (action 5#8 []) && (actedOn (action 5#8 []) s).tripHold && !(actedOn (action 5#8 []) s).trip.queue.isEmpty),
      base.acts (action 5#8 [])].all id = true := by
  decide +kernel

theorem witness_BrakeTestStarts :
    [(let u := actedOn (action 6#8 []) base
      base.acts (action 6#8 []) && u.mode == .parked && u.act.test.segments[0]? == some .hoist && u.chanFresh .hoist
        && !u.testQueued && u.tester.secondFinal.isNone && u.heldTrips.isEmpty),
      (testing .ramp).acts (action 6#8 []), digging.acts (action 6#8 []),
      (let u := admitted (request 14#8 []) base
       base.requests (request 14#8 []) && u.mode == .parked && u.chanFresh .hoist && !u.testQueued),
      digging.requests (request 14#8 [])].all id = true := by
  decide +kernel

theorem witness_BrakeTestAborts :
    [(let u := actedOn (action 7#8 []) (testing .ramp)
      (testing .ramp).acts (action 7#8 []) && u.testRuns && u.mode == .testing && u.heldTrips.isEmpty),
      base.acts (action 7#8 []) && !(actedOn (action 7#8 []) base).testRuns,
      (testing .hold).requests (request 15#8 []) && (admitted (request 15#8 []) (testing .hold)).testRuns,
      base.requests (request 15#8 [])].all id = true := by
  decide +kernel

theorem witness_ReadingRequests :
    (let trips := { base with trip := { base.trip with
        queue := [capture { cause := .skew, action := .both, frame := none } true base] } }
     let d : Descriptor := { number := 1, status := .passed, minutes := 0, failing := none, results := [] }
     let logged := { base with tester := writeLog d base.tester }
     [base.requests (request 0#8 []), base.requests (request 1#8 [1#8]), base.requests (request 1#8 [2#8]),
      base.requests (request 2#8 [0#8, 1#8, 16#8]) && (entryFields base.act 1 16).isSome,
      base.requests (request 2#8 [1#8, 12#8, 0#8]) && (entryFields base.tables.staging 12 0).isNone,
      base.requests (request 8#8 [1#8]), base.requests (request 8#8 [5#8]),
      base.requests (request 10#8 [1#8]), base.requests (request 10#8 [2#8]) && base.alarm.list.isEmpty,
      (pointIn 0 .activeUnack false base).alarm.list.length == 1,
      trips.requests (request 11#8 [1#8, 3#8]) && (trips.trip.queue[0]?).isSome,
      base.requests (request 11#8 [0#8, 1#8]) && base.requests (request 11#8 [1#8, 1#8]),
      logged.requests (request 13#8 [1#8]) && (logged.tester.aged 1).isSome && (logged.tester.aged 2).isNone,
      base.requests (request 16#8 [1#8]) && base.requests (request 16#8 [16#8]),
      base.requests (request 17#8 [1#8, flagByte true]) && base.requests (request 17#8 [1#8, flagByte false]),
      base.requests (request 17#8 [2#8, 0#8])].all id) = true := by
  decide +kernel

theorem witness_StagingEdits :
    (let good : List Byte := [1#8, 0#8, 0#8, 0#8] ++ [0#8] ++ [9#8]
     let bad : List Byte := [2#8, 0#8, 0#8, 0#8] ++ [0#8] ++ [9#8]
     let fs := (entryFields base.tables.staging 1 1).getD []
     [fs.length == 4, (writeFields fs good).isSome, (writeFields fs bad).isNone,
      ((writeFields fs good).bind (setEntry base.tables.staging 1 1)).isSome,
      base.requests (request 3#8 (1#8 :: 1#8 :: good)), base.requests (request 3#8 (1#8 :: 1#8 :: bad)),
      base.requests (request 3#8 (1#8 :: 17#8 :: good)), (entryFields base.tables.staging 1 17).isNone,
      base.requests (request 4#8 [])].all id) = true := by
  decide +kernel

theorem witness_ActivateAndStore :
    (let saving := { base with store := { base.store with state := .saving, image := [1#8] } }
     let writing := { base with store := { base.store with state := .committing, image := [1#8], held := true,
                                                           answer := some (base.asker (request 6#8 [])) } }
     let wrong := { base with tables := { base.tables with staging := emptyTables } }
     [base.requests (request 5#8 []) && (admitted (request 5#8 []) base).activateFailure.isNone,
      digging.requests (request 5#8 []), saving.requests (request 5#8 []) && saving.mode == .parked,
      wrong.requests (request 5#8 []) && (admitted (request 5#8 []) wrong).activateFailure.isSome,
      base.requests (request 6#8 []) && (noTables base).requests (request 6#8 []), saving.requests (request 6#8 []),
      base.requests (request 7#8 []) && saving.requests (request 7#8 []),
      writing.store.state == .committing && writing.store.held && writing.store.answer.isSome,
      saving.store.state == .saving && saving.store.image == [1#8],
      (let s := { base with attrs := { base.attrs with tMinute := some 1000, minutes := 59 } }
       s.expired s.attrs.tMinute && (s.attrs.minutes + 1) % 60 == 0),
      !base.expired base.attrs.tMinute].all id) = true := by
  decide +kernel

theorem witness_RenewAttribute :
    [base.requests (request 9#8 [0#8]), base.requests (request 9#8 [14#8]), base.requests (request 9#8 [1#8]),
      base.requests (request 9#8 [13#8]), digging.requests (request 9#8 [1#8])].all id = true := by
  decide +kernel

theorem witness_ConsumeTrips :
    (let s := { tripped with trip := { tripped.trip with
        notStored := 1, queue := [capture { cause := .skew, action := .both, frame := none } true base] } }
     [s.requests (request 12#8 [0#8]), s.requests (request 12#8 [1#8]), s.requests (request 12#8 [255#8]),
      s.mode != .init, (s.pointsOn 54).isEmpty, (s.pointsOn 55).isEmpty].all id) = true := by
  decide +kernel

theorem witness_OutArbiter :
    (let e : InsEntry := noticeEntry .status 8#4 [] base
     let full := forwardFull base
     [(let s := { base with ring := { base.ring with ins := [e] } }; s.ring.ins == [e] && s.ring.fwd.isEmpty),
      (let s := { full with ring := { full.ring with ins := [e], consec := 8 } }; s.ring.consec == 8),
      full.ring.ins.isEmpty && !full.ring.fwd.isEmpty, base.ring.ins.isEmpty && base.ring.fwd.isEmpty,
      !full.sendsRestart && full.ring.sending == some .forward,
      base.ring.sending.isNone].all id) = true := by
  decide +kernel

theorem witness_NoticesBuilt :
    [(let s := { base with statusOwed := true }; s.noticeRoom && s.statusBuildable),
      (let s := { base with owed := base.owed.set 47 true }
       s.noticeRoom && !s.statusBuildable && s.alarmBuildable == some 47),
      !(State.ownValid { base with ring := { base.ring with own := 63#6 } })].all id = true := by
  decide +kernel

theorem witness_ParkedIsEntered :
    [inInit.mode == .init && inInit.heldTrips.isEmpty && inInit.startReady, !(entryAt 3 1 inInit).startReady,
      (let s := parkPending .brakes digging
       s.ctl.slot == some { target := .park, wait := .brakes } && s.allSet && s.tight.start.isNone),
      (let s := parkPending .brakes (releasedHoist 950); !s.allSet),
      (let s := chanIn .walk (fun c => { c with state := .released, releasedTime := some 950 })
          (parkPending .homePhase walking)
       s.mode == .walking && s.walk.phase == some .home && !(parkingSetAll s).allSet),
      (let s := { parkPending .homePhase walking with walk := { walking.walk with phase := some .lift } }
       s.walk.phase != some .home)].all id = true := by
  decide +kernel

theorem witness_DwellExpires :
    (let waits (g : Target) (d : Nat) : State :=
        { base with ctl := { base.ctl with slot := some { target := g, wait := .dwell d } } }
     [(waits .dig 1000).requestCheck.isNone, (waits .walk 1000).requestCheck.isNone,
      (entryAt 3 1 (waits .dig 1000)).requestCheck.isSome, decide ((waits .dig 1001).now < 1001),
      (waits .dig 1000).heldTrips.isEmpty && (waits .dig 1000).mode == .parked].all id) = true := by
  decide +kernel

theorem witness_WalkPreparationEnds :
    (let crossed := { preparing with tables := { preparing.tables with
        active := { demoTables with attrs := demoTables.attrs.set 0 { life := 1, threshold := 100, cls := .prefail } } } }
     [preparing.mode == .walkPrep && preparing.heldTrips.isEmpty && !preparing.walk.camReversal,
      preparing.expired preparing.walk.tConfirm && preparing.expired preparing.walk.tTimeout,
      preparing.prepHolds && !preparing.prefailCrossed && preparing.walk.skew == some 0,
      crossed.prepHolds && crossed.prefailCrossed, !(entryAt 6 1 preparing).prepHolds].all id) = true := by
  decide +kernel

theorem witness_ChannelTimers :
    (let pend (proved : Bool) (req : BrakeReq) : State :=
        chanIn .hoist (fun c => { c with state := .releasePending, proved := proved, standing := req,
                                         due := some 1000, tDue := some 1000, tProve := some 1000 }) digging
     let barring := chanIn .walk (fun c => { c with state := .setting })
        (chanIn .swing (fun c => { c with state := .releasePending, proved := true, tDue := some 1000 }) digging)
     let at_ (st : ChanState) : State :=
        chanIn .hoist (fun c => { c with state := st, tRelease := some 1000, tDwell := some 1000,
                                         tSet := some 1000 }) digging
     [(pend true .release).expired (some 1000), !(pend true .release).barred .hoist,
      (pend true .release).request .hoist != .hold, (pend true .hold).request .hoist == .hold, barring.barred .swing,
      !((pend false .release).brakes.get .hoist).proved,
      ((at_ .releasing).brakes.get .hoist).state == .releasing, ((at_ .setPending).brakes.get .hoist).tDwell == some 1000,
      (releasedHoist 900).expired ((releasedHoist 900).brakes.get .hoist).tAutoset,
      decide (900 + ((releasedHoist 900).act.brake.get .hoist).minRelease ≤ 1000),
      decide (1000 < 901 + ((releasedHoist 901).act.brake.get .hoist).minRelease),
      ((at_ .setting).brakes.get .hoist).state == .setting && (at_ .setting).mode != .tripped
        && (at_ .setting).heldTrips.isEmpty && (at_ .setting).trip.queue.isEmpty].all id) = true := by
  decide +kernel

theorem witness_OnsetAndSilence :
    [(let s := { digging with tight := { digging.tight with start := some 0, onset := some 1000 } }
      s.tight.start.isSome && s.expired s.tight.onset),
      digging.tight.start.isNone,
      State.expired { base with ring := { base.ring with silence := some 1000 } } (some 1000),
      !base.expired base.ring.silence].all id = true := by
  decide +kernel

theorem witness_Conversions :
    [(State.analog (base.setAin 0 { resetAin with settle := 48 }))[0].settle == 48,
      (State.analog (base.setAin 0 { resetAin with settle := 49 }))[0].settle == 49,
      (base.analog[0]).ready && (base.act.analog[0]).limitOn && !(base.act.analog[1]).limitOn,
      rawOf 2442003 2500000 == 4000 && rawOf 2442002 2500000 == 3999,
      ((base.setAin 0 { resetAin with ready := true, beyond := 1 }).analog[0]).beyond + 1
        == (base.act.analog[0]).persistence,
      (base.act.analog[0]).role == .boom && (base.act.analog[1]).role == .none && !(base.analog[0]).high,
      ((base.setAin 0 { resetAin with ready := true, high := true }).analog[0]).high].all id = true := by
  decide +kernel

theorem witness_TestEvents :
    (let w := testing .waiting
     let second := { base with tester := { base.tester with secondFinal := some .walkRight } }
     [w.tester.status == .inProgress && w.tester.phase == some .waiting && !w.testQueued && w.tester.secondFinal.isNone
        && w.testChan == some .hoist && w.chanFresh .hoist,
      second.tester.secondFinal == some .walkRight && !second.testQueued && second.driveEntry .walkRight == some 7,
      (testing .ramp).segmentRuns .hoist && (testing .ramp).expired (testing .ramp).tester.tPeriod,
      (testing .ramp).expired (testing .ramp).tester.tRamp && (testing .ramp).mode == .testing
        && (testing .ramp).heldTrips.isEmpty && (testing .ramp).tester.phase == some .ramp,
      (testing .hold).tester.start == some ⟨1200, 0⟩ && (testing .hold).expired (testing .hold).tester.tHold
        && ((testing .hold).pointsOn (56 + (marginOf .hoist).val)).isEmpty,
      slipOf .hoist ((testing .hold).slipPositions .hoist) ⟨1210, 0⟩ == (testing .hold).act.test.slip.get .hoist,
      slipOf .hoist ((testing .hold).slipPositions .hoist) ⟨1211, 0⟩ == (testing .hold).act.test.slip.get .hoist + 1,
      suspended.tester.status == .suspended && suspended.testChan == some .hoist && suspended.chanFresh .hoist
        && suspended.expired suspended.tester.tResume && suspended.expired suspended.tester.tSuspend
        && suspended.mode == .testing && suspended.heldTrips.isEmpty].all id) = true := by
  decide +kernel

/-! Channels, points and arrivals: each line is a case of its statement, worked through the model. -/

/-- The machine with an axis's feedback record changed. -/
def reports (x : Axis) (g : Feedback → Feedback) (s : State) : State :=
  { s with feedback := s.feedback.set x (g (s.feedback.get x)) }

/-- HOIST in a state, in DIG, with its console asking for release, and every time of the record passed. -/
def hoistIn (st : ChanState) : State :=
  chanIn .hoist (fun c => { c with state := st, standing := .release, due := some 1000, releasedTime := some 900 }) digging

/-- What a Drive Status at standstill makes of a channel (R51 to R61; O44 to O46): state, report, state after. -/
def arrivalLines : List (ChanState × DriveBrake × ChanState) :=
  [(.set, .set, .set), (.set, .transit, .set), (.set, .released, .fault), (.set, .fault, .fault),
    (.releasePending, .set, .releasePending), (.releasePending, .released, .fault), (.releasing, .released, .released),
    (.releasing, .set, .releasing), (.releasing, .fault, .fault), (.released, .transit, .released),
    (.released, .set, .set), (.released, .fault, .fault), (.setPending, .transit, .setPending),
    (.setPending, .set, .set), (.setting, .released, .setting), (.setting, .set, .set), (.setting, .fault, .fault),
    (.fault, .set, .set), (.fault, .fault, .fault)]

theorem test_channel_arrivals :
    (arrivalLines.all fun (st, b, o) =>
      (((channelArrival .hoist [] (reports .hoist (fun f => { f with brake := b }) (hoistIn st))).brakes.hoist).state == o))
      = true := by decide +kernel

/-- What a console Reference makes of HOIST (R50, R52, R54, R56; O14): state, brake field, state after. -/
def referenceLines : List (ChanState × BrakeReq × ChanState) :=
  [(.set, .release, .releasePending), (.set, .hold, .set), (.releasePending, .hold, .set),
    (.releasePending, .release, .releasePending), (.releasing, .hold, .releasing), (.released, .hold, .setting),
    (.released, .release, .released), (.setPending, .release, .setPending), (.setting, .release, .setting),
    (.fault, .release, .fault)]

theorem test_console_references :
    (referenceLines.all fun (st, b, o) =>
      ((brakeRequest .hoist b 500 (writeStanding .hoist b (hoistIn st))).brakes.hoist).state == o) = true := by
  decide +kernel

theorem witness_ConsoleReferences :
    [(let s := received hoistFrame digging
      let u := standingStage hoistParsed s
      s.refAddressed hoistFrame hoistParsed && u.releasable .hoist && !u.barred .hoist && !u.segmentRuns .hoist
        && digging.heldTrips.isEmpty && u.proving .hoist == 20 && u.proving .swing == 0 && u.dueTime .hoist ≤ u.now),
      (let s := chanIn .drag (fun c => { c with setTime := 1001 }) digging
       s.dueTime .hoist == 1001 && s.dueTime .swing == 1001),
      (chanIn .walk (fun c => { c with state := .setting }) digging).barred .swing, !base.releasable .hoist,
      (hoistIn .released).brakes.hoist.armed == false, (releasedHoist 900).brakes.hoist.armed,
      (let s := hoistIn .released
       let r : RefWire := { hoistRef with brake := 2#8, speed := 0#16 }
       ((after (exec (.reference (past 1 10) r) s)).map fun t => t.brakes.hoist.tAutoset) == some (some 2000)),
      (let s := { hoistIn .released with ctl := { digging.ctl with hold := .digChannels } }; s.request .hoist == .hold)].all id = true := by decide +kernel

theorem witness_ChannelArrivals :
    [(let s := reports .hoist (fun f => { f with current := -20 }) (hoistIn .releasePending)
      !s.contradicts .hoist s.feedback.hoist && (s.brakes.hoist).due == some 1000 && !s.barred .hoist
        && ((channelArrival .hoist [] s).brakes.hoist).state == .releasing),
      (let s := chanIn .hoist (fun c => { c with due := some 1001 })
          (reports .hoist (fun f => { f with current := -20 }) (hoistIn .releasePending))
       ((channelArrival .hoist [] s).brakes.hoist).proved),
      (let s := chanIn .hoist (fun c => { c with standing := .hold })
          (reports .hoist (fun f => { f with current := -20 }) (hoistIn .releasePending))
       ((channelArrival .hoist [] s).brakes.hoist).state == .set),
      !(Pair.set ⟨false, false⟩ Axis.walkLeft true).all .walk, (Pair.set ⟨false, false⟩ Axis.hoist true).all .hoist,
      ((hoistIn .releasing).pointsOn 69).isEmpty && ((hoistIn .releasing).pointsOn 73).isEmpty,
      (let s := chanIn .hoist (fun c => { c with standing := .hold, proveFailed := true, releaseTimeout := true })
          (reports .hoist (fun f => { f with brake := .released }) (hoistIn .releasing))
       let t := channelArrival .hoist [] s
       (t.brakes.hoist).state == .setPending && t.source 69 == { value := 0, valid := true }
         && t.source 73 == { value := 0, valid := true }),
      (let s := reports .hoist (fun f => { f with speed := 11 }) (hoistIn .released)
       !s.inBand .hoist 11 && ((channelArrival .hoist [] s).brakes.hoist).state == .setting),
      (let s := parkPending .brakes (chanIn .hoist (fun c => { c with hardSet := true }) (hoistIn .setting))
       (s.pointsOn (56 + (brakeWearOf .hoist).val)).isEmpty && (channelArrival .hoist [] s).mode == .parked
         && ((channelArrival .hoist [] s).attrs.recs[brakeWearOf .hoist]).raw == 10),
      (let s := reports .hoist (fun f => { f with speed := 11 }) (hoistIn .set)
       let t := channelArrival .hoist [1#8] s
       s.contradicts .hoist s.feedback.hoist && t.mode == .tripped && (t.brakes.hoist).state == .fault
         && t.trip.queue.map TripRecord.frame == [some [1#8]]),
      (let s := inMode .testing (testing .hold)
       !(reports .hoist (fun f => { f with speed := 11 }) s).contradicts .hoist { restFeedback with speed := 11 })].all id = true := by decide +kernel

theorem witness_WalkArrivals :
    [(let s := workWalk (putProgress .walkLeft walking)
      s.walk.skew == some 0 && s.walk.lagging == some .walkLeft && s.walk.phase == some .lift && s.walk.tubRaised),
      (let s := workWalk (putProgress .walkLeft { walking with walk := resetWalk })
       s.walk.left == some 1200 && s.walk.right.isNone && s.walk.skew.isNone),
      (walking.pointsOn 77).isEmpty && (walking.pointsOn 62).isEmpty && (walking.pointsOn 36).isEmpty,
      ((reversalTest .walkLeft (some 4900) walking).walk.reversal).first
        && (reversalTest .walkLeft (some 4900) walking).source 77 == { value := 1, valid := true },
      !((reversalTest .walkLeft (some 1199) walking).walk.reversal).first,
      (reversalTest .walkLeft (some 1200) walking).walk.reversal == walking.walk.reversal,
      (let s := { walking with walk := { walking.walk with skew := some 101 } }
       let t := skewTest [1#8] s
       t.mode == .tripped && t.trip.queue.map TripRecord.cause == [.skew]),
      skewTest [] { walking with walk := { walking.walk with skew := some 100 } }
        == { walking with walk := { walking.walk with skew := some 100 } },
      (let s := { walking with walk := { walking.walk with left := some 7300, stepMark := some 1 } }
       let t := stepTest s
       t.walk.steps == 1 && t.walk.stepMark == some 2 && (t.attrs.recs[walkCam]).raw == 1),
      (let s := parkPending .homePhase walking
       homeTest (some .raise) s == endHomeWait s && homeTest (some .home) s == s),
      (feedSkew none walking).source 36 == { value := 0, valid := true },
      !((feedSkew none (entryAt 6 1 walking)).source 36).valid].all id = true := by decide +kernel

/-- DIG with both ropes hauling hard at standstill. -/
def tightDig : State :=
  reports .hoist (fun f => { f with current := -100 }) (reports .drag (fun f => { f with current := -100 }) digging)

theorem witness_Tightline :
    [tightDig.tightHolds && tightDig.tight.start.isNone, !digging.tightHolds,
      (tightDig.pointsOn 37).isEmpty && (tightDig.pointsOn 64).isEmpty,
      (tightTest tightDig).tight == { start := some 1000, onset := some 1200, reduction := false, duration := 0, handed := 0 },
      (let s := { tightDig with tight := { resetTight with start := some 0 } }
       let t := tightArrival s
       t.tight.duration == 1000 && t.tight.handed == 1 && (t.attrs.recs[tightExposure]).raw == 1
         && t.source 37 == { value := 1000, valid := true }),
      (let s := { digging with tight := { resetTight with start := some 0 } }
       (tightArrival s).tight == resetTight && (tightArrival s).source 37 == { value := 0, valid := true })].all id = true := by decide +kernel

/-- The small machine with a point of its own. -/
def withPoint (p : Fin 48) (c : PointCfg) (s : State) : State :=
  { s with tables := { s.tables with active := { s.act with points := s.act.points.set p c } } }

/-- What an update makes of a point that is not latching, and of one that is (R130, R132; O48): state, mark, latching,
value, state and mark after. -/
def pointLines : List (PState × Bool × Bool × Int × PState × Bool) :=
  [(.normal, false, false, 100, .delaying, false), (.normal, false, false, 99, .normal, false),
    (.delaying, false, false, 99, .delaying, false), (.delaying, false, false, 50, .normal, false),
    (.activeUnack, false, false, 50, .returnedUnack, false), (.activeUnack, false, true, 50, .activeUnack, true),
    (.activeUnack, true, true, 100, .activeUnack, false), (.activeUnack, true, true, 51, .activeUnack, true),
    (.activeAck, false, false, 50, .normal, false), (.activeAck, false, true, 50, .activeAck, true),
    (.activeAck, true, true, 100, .activeAck, false), (.returnedUnack, false, false, 100, .activeUnack, false),
    (.returnedUnack, false, false, 50, .returnedUnack, false), (.shelved, false, false, 100, .shelved, false),
    (.disarmed, false, false, 100, .disarmed, false)]

theorem test_source_updates :
    (pointLines.all fun (st, m, latching, v, st', m') =>
      let s := withPoint 0 (demoPoint 20 .warning latching) (pointIn 0 st m base)
      let t := feed 20 v true none s
      s.pointsOn 20 == [0] && (t.alarm.points[0]).state == st' && (t.alarm.points[0]).mark == m'
        && t.source 20 == { value := v, valid := true }) = true := by decide +kernel

theorem witness_SourceUpdates :
    [(let s := withPoint 1 { demoPoint 21 .trip false with onDelay := 0 } base
      let t := feed 21 100 true (some [1#8]) s
      s.pointsOn 21 == [1] && (s.alarm.points[1]).state == .normal && s.heldTrips.isEmpty && t.mode == .tripped
        && t.trip.queue.map TripRecord.frame == [some [1#8]]),
      (let s := pointIn 0 .delaying false base
       ((feed 20 0 false none s).alarm.points[0]).state == .normal && !((feed 20 0 false none s).source 20).valid),
      (let s := withPoint 0 { demoPoint 20 .warning false with mask := 0#7 } (pointIn 0 .activeAck false base)
       !s.armed 0 && ((feed 20 0 true none s).alarm.points[0]).state == .disarmed)].all id = true := by decide +kernel

/-- The small machine in DIG with a TRIP point on source 21 and a later point on it that TRIPPED alone arms. -/
def rearming : State :=
  withPoint 3 { demoPoint 21 .warning false with mask := 64#7, onDelay := 0 }
    (withPoint 1 { demoPoint 21 .trip false with onDelay := 0 } (inMode .dig base))

/-- A point that a trip re-arms is not evaluated by the update that raised the trip, in the met zone as it is, and becomes
active at the next (R135, R138; O48). -/
theorem witness_RearmedWaits :
    (let t := feed 21 100 true none rearming
     [rearming.pointsOn 21 == [1, 3], rearming.heldTrips.isEmpty, rearming.mode == .dig, rearming.tight.start.isNone,
      (rearming.pointsOn 54).isEmpty, (rearming.pointsOn 55).isEmpty, (rearming.alarm.points[1]).state == .normal,
      (rearming.alarm.points[3]).state == .disarmed, (rearming.act.points[3]).mask.getLsbD Mode.tripped.code,
      t.mode == .tripped, (t.alarm.points[3]).state == .normal, (t.alarm.points[3]).chValue == 100,
      t.alarm.list == [1], ((feed 21 100 true none t).alarm.points[3]).state == .activeUnack].all id) = true := by
  decide +kernel

/-! What the review of the model asked for. -/

/-- An update that a trip hands waits until the one evaluated has met every point (R123, R89, R159; log 39): with a TRIP
point and a later WARNING point on the tightline duration, the WARNING point meets the value handed and then the 0 of the
exit from DIG. -/
theorem test_updates_in_turn :
    (let quick (cls : PClass) : PointCfg := { demoPoint 37 cls false with onDelay := 0 }
     let s := withPoint 1 (quick .warning) (withPoint 0 (quick .trip) tightDig)
     let t := feed 37 200 true none { s with tight := { resetTight with start := some 0 } }
     t.mode == .tripped && (t.alarm.points[1]).state == .returnedUnack && (t.alarm.points[0]).state == .returnedUnack
       && t.source 37 == { value := 0, valid := true } && t.tight == resetTight && t.updates.isNone) = true := by
  decide +kernel

/-- A CONSUME_TRIPS whose new queue length trips hands the count of records not stored before the trip's own append
(R166; log 40). -/
theorem test_consume_hands_both :
    (let r := capture { cause := .skew, action := .both, frame := none } true base
     let low : PointCfg := { demoPoint 54 .trip false with dir := .below, setThr := 0, clearThr := 5, onDelay := 0 }
     let s := withPoint 1 low { tripped with trip := { tripped.trip with queue := [r], notStored := 3 } }
     let t := consume 1 s
     t.trip.queue.length == 1 && t.trip.notStored == 0 && t.source 54 == { value := 1, valid := true }
       && t.source 55 == { value := 0, valid := true }) = true := by decide +kernel

/-- A walk DRIVE entry swapped at ACTIVATE with a FRESH SENSOR entry leaves the skew source INVALID (R108; log 41). -/
theorem test_swap_leaves_skew_invalid :
    (let sensor4 : StationCfg := { number := 4, role := .sensor, axis := none, timeout := 500 }
     let old := { demoTables with stations := demoStations.set 9 sensor4 }
     let new := { demoTables with stations := (demoStations.set 9 (drive 13 .walkLeft)).set 6 sensor4 }
     let s := feedSkew none
       { base with tables := { base.tables with active := old, staging := new }
                   stations := base.stations.set 9 (some freshRun) }
     (s.source 36).valid && !((install s).source 36).valid) = true := by decide +kernel

/-- A segment list of more than four channels, or with one named twice, is held in staging and refused at ACTIVATE; one
with a channel that is none is turned away, as one that is shorter than its count (R180, R191, R195, R196; log 42). -/
theorem test_segment_lists :
    (let written (list : List Byte) : Option TableSet :=
        (entryFields demoTables 10 0).bind fun fs =>
          (writeFields fs ([1#8] ++ List.replicate (fs.length - 1) 0#8 ++ [0#8] ++ list)).bind (setEntry demoTables 10 0)
     let refused (list : List Byte) : Option (Nat × Nat) :=
        (written list).bind fun n => State.activateFailure { base with tables := { base.tables with staging := n } }
     [refused [5#8, 0#8, 1#8, 2#8, 3#8, 0#8] == some (10, 0), refused [2#8, 1#8, 1#8] == some (10, 0),
      (written [1#8, 3#8]).isSome && (refused [1#8, 3#8]).isNone, (written [1#8, 4#8]).isNone,
      (written [2#8, 1#8]).isNone].all id) = true := by
  decide +kernel

/-- READ_COUNTERS with the clear flag hands the refused-reference source with 0 whatever the count was (R25). -/
theorem test_clear_hands_the_source :
    ((countersRead 1 true base).source 79 == { value := 0, valid := true }
      && (countersRead 1 true (base.setSource 79 5 true)).source 79 == { value := 0, valid := true }) = true := by
  decide +kernel

/-- ACTIVATE in PARKED leaves what R197 leaves, starts a renumbered entry anew and resets the points (R21, R144; O33). -/
theorem test_activate :
    (let new := { demoTables with stations := demoStations.set 2 { number := 5, role := .sensor, axis := none, timeout := 700 } }
     let s := pointIn 0 .activeUnack false { base with tables := { base.tables with staging := new } }
     (after (exec (.activate (from_ 2#8) 0x1234#16) s)).map (fun t =>
       t.tables.active == new && t.brakes == s.brakes && t.trip == s.trip && t.tester == s.tester && t.ctl == s.ctl
         && t.alarm.list.isEmpty && (t.alarm.points[0]).state == .normal && (t.alarm.points[0]).chTime == 1000
         && t.stations[2] == some (startedStation 1000 700) && t.stations[3] == s.stations[3])) = some true := by
  decide +kernel

/-- PARK waits that end in DIG and in WALKING (R38, R39, R41; O42). -/
theorem witness_ParkDwellExpires :
    (let waits (d : Nat) (s : State) : State := parkPending (.dwell d) s
     [((after (exec .dwellExpiry (waits 1000 (releasedHoist 950)))).map fun t => t.ctl.slot)
        == some (some { target := .park, wait := .brakes }),
      !(parkingSetAll (releasedHoist 950)).allSet, (parkingSetAll digging).allSet && digging.tight.start.isNone,
      ((after (exec .dwellExpiry (waits 1000 digging))).map State.mode) == some .parked,
      ((after (exec .dwellExpiry (waits 1001 digging))).map State.mode) == some .dig].all id) = true := by
  decide +kernel

theorem witness_ParkDwellExpiresWalking :
    (let waits (d : Nat) (s : State) : State := parkPending (.dwell d) s
     [((after (exec .dwellExpiry (waits 1000 { walking with walk := { walking.walk with phase := some .lift } }))).map
        fun t => t.ctl.slot) == some (some { target := .park, wait := .homePhase }),
      (let s := chanIn .walk (fun c => { c with state := .released, releasedTime := some 950 }) walking
       !(parkingSetAll s).allSet && ((after (exec .dwellExpiry (waits 1000 s))).map fun t => t.ctl.hold)
         == some .walkChannel),
      ((after (exec .dwellExpiry (waits 1000 walking))).map State.mode) == some .parked].all id) = true := by
  decide +kernel

/-- A test start, and a waiting segment, with a drive not FRESH; a start in WAITING; the test torque reached (R182 to R184;
O28, O51, O52). -/
theorem witness_TestStarts :
    [(let s := entryAt 3 1 base
      let u := actedOn (action 6#8 []) s
      s.acts (action 6#8 []) && !u.chanFresh .hoist
        && ((after (exec (.testStart (from_ 1#8)) s)).map fun t =>
          (t.mode, t.tester.status, t.tester.pointer)) == some (.parked, .failedStale, 1)),
      (let s := { base with tester := { base.tester with secondFinal := some .walkRight } }
       s.acts (action 6#8 []) && s.requests (request 14#8 [])
         && ((after (exec (.testStart (from_ 1#8)) s)).map fun t =>
           (t.mode, t.tester.phase, t.tester.secondFinal)) == some (.testing, some .waiting, some .walkRight)),
      (let s := entryAt 3 1 base
       s.requests (request 14#8 []) && !(admitted (request 14#8 []) s).chanFresh .hoist)].all id = true := by
  decide +kernel

theorem witness_SegmentsAndTorque :
    [(let s := entryAt 3 1 (testing .waiting)
      s.mode == .testing && s.tester.number == some 1 && !s.chanFresh .hoist
        && ((after (exec .segmentBegin s)).map fun t => (t.mode, t.tester.status)) == some (.parked, .failedStale)),
      (let s := reports .hoist (fun f => { f with current := -50 }) (testing .ramp)
       s.segmentRuns .hoist && (testArrival .hoist s).tester.phase == some .hold
         && (testArrival .hoist s).tester.start == some ⟨1200, 0⟩),
      testArrival .hoist (testing .ramp) == testing .ramp,
      (let s := reports .walkLeft (fun f => { f with current := 50 })
          { testing .ramp with tester := { (testing .ramp).tester with segment := some 1 } }
       s.testChan == some .walk && (testArrival .walkLeft s).tester.reached == ⟨true, false⟩
         && (testArrival .walkLeft s).tester.phase == some .ramp)].all id = true := by
  decide +kernel

/-- A region written whole passes its check (R198). -/
theorem regionContents_regionBytes (bs : List Byte) : regionContents (.bytes (regionBytes bs)) = some bs := by
  have h : (crcBytes bs).length = 4 := by
    unfold crcBytes
    generalize crc32 bs = c
    simp [encNat]
  have k : (bs ++ crcBytes bs).length - 4 = bs.length := by simp [h]
  unfold regionContents regionBytes
  dsimp only
  rw [k, List.drop_left, List.take_left, if_pos ⟨by simp [h], rfl⟩]

/-- The regions a power-on reset finds good (R201, R179; O4); the blank ones are those of `State.reset`. -/
theorem witness_PowerOnReset :
    (regionContents (.bytes (regionBytes (tablesBytes demoTables)))).bind tablesOf = some demoTables
      ∧ (regionContents (.bytes (regionBytes base.saveImage))).bind imageOf
          = some (base.attrs.recs, base.attrs.minutes)
      ∧ (regionContents State.reset.store.tablesRegion).isNone ∧ State.reset.mode = .init := by
  refine ⟨?_, ?_, by decide, rfl⟩
  · rw [regionContents_regionBytes, Option.bind_some]
    exact test_tables_read_back
  · rw [regionContents_regionBytes, Option.bind_some]
    exact test_image_reads_back

/-- A count of refused References at its end, and one below it (R25; O12). -/
theorem witness_RefusedReferences :
    (let f := refFrame (past 1 11) hoistRef
     let full := { base with ring := { base.ring with
       counters := base.ring.counters.set Counter.removedRefusedRef.idx (BitVec.allOnes 32) } }
     [full.passes f && (received f full).counter .removedRefusedRef == BitVec.allOnes 32,
      (received f base).counter .removedRefusedRef == 0#32].all id) = true := by decide +kernel

/-- An inserted frame being sent (R12; O39). -/
theorem witness_InsertedSent :
    (let s := { base with ring := { base.ring with sending := some (.inserted .status resetNotice) } }
     !s.sendsRestart && ((after (exec .sendingComplete s)).map fun t => t.counter .inserted) == some 1#32) = true := by
  decide +kernel

/-! What the second review asked for. -/

/-- A HOIST drive about to go STALE, with a sensor value of its own (R22, R23, R64, R125; O8). -/
theorem witness_StaleDrive :
    [(let s := entryAt 3 0 digging
      (s.stations[3]).map StationRun.fresh == some .fresh && (s.stations[3]).map StationRun.expiries == some 0
        && s.expired (some 1000) && (s.act.stations[3]).role == .drive && (s.act.stations[3]).axis == some .hoist),
      (let s := { base with sensors := base.sensors.set 5 { value := 9, writer := some 3, valid := true } }
       let t := dropSensors 3 s
       (s.pointsOn 25).isEmpty && t.sensors[5] == { value := 9, writer := some 3, valid := false }
         && t.sensors[4] == s.sensors[4] && !(t.source 25).valid && t.source 24 == s.source 24),
      (let s := base.setSource 2 7 true
       let t := dropAxis .hoist s
       [1, 2, 3].all (fun n => (s.pointsOn n).isEmpty) && t.source 2 == { value := 7, valid := false }
         && t.source 4 == s.source 4),
      !((skewAgain .walkLeft (entryAt 6 1 walking)).source 36).valid, skewAgain .drag base == base].all id = true := by
  decide +kernel

/-- The set request of a drive going STALE (R64; O8): state, time of release, state after. -/
def staleLines : List (ChanState × Nat × ChanState) :=
  [(.set, 900, .set), (.releasePending, 900, .set), (.releasing, 900, .setting), (.released, 900, .setting),
    (.released, 901, .setPending), (.setPending, 900, .setPending), (.setting, 900, .setting), (.fault, 900, .fault)]

theorem test_stale_set :
    (staleLines.all fun (st, since, o) =>
      let s := chanIn .hoist (fun c => { c with state := st, releasedTime := some since }) digging
      ((staleSet .hoist s).brakes.hoist).state == o) = true := by decide +kernel

/-- A test whose drive goes STALE, and one it does not touch (R23, R189; O8, O29). -/
theorem witness_TestEnds :
    [(let t := testStale .hoist (testing .ramp)
      t.mode == .parked && t.tester.status == .failedStale && t.tester.pointer == 1
        && t.tester.results == [{ chan := .hoist, slip := none, outcome := .notFinished }]
        && t.tester.log[0] == some { number := 1, status := .failedStale, minutes := 0, failing := some .hoist
                                     results := t.tester.results }),
      testStale .drag (testing .ramp) == testing .ramp, testStale .hoist base == base,
      (let t := abortTest suspended
       t.tester.results.length == 1 && t.tester.tSuspend.isNone),
      (abortTest (testing .waiting)).tester.results.isEmpty].all id = true := by decide +kernel

/-- The stages of the limiter, one by one (R70, R75, R76; O10). -/
theorem witness_ModeStage :
    [modeStage .hoist digging (atSpeed (-901)) == { atSpeed (-900) with lower := .mode },
      modeStage .hoist digging (atSpeed 900) == atSpeed 900,
      freshStage .hoist digging (atSpeed 900) == atSpeed 900 && digging.driveFresh .hoist,
      { atSpeed 0 with block := some .stale, lower := .mode }.cause == Cause.stale, (atSpeed 0).cause == .none,
      (modeStage .hoist base (atSpeed 900)).cause == .mode].all id = true := by decide +kernel

/-- Rope wear and the sources of an axis (R125, R174; O20). -/
theorem witness_RopeArrivals :
    [(let s := reports .hoist (fun f => { f with previous := some 1000, current := -75 }) base
      let t := ropeArrival .hoist s
      (s.pointsOn 56).isEmpty && (t.attrs.recs[0]).raw == 600 && (t.attrs.recs[1]) == s.attrs.recs[1]),
      (let s := reports .drag (fun f => { f with previous := some 1201, current := 24 }) base
       ((ropeArrival .drag s).attrs.recs[1]).raw == 1),
      ropeArrival .hoist base == base, ropeArrival .drag (reports .drag (fun f => { f with previous := none }) base)
        == reports .drag (fun f => { f with previous := none }) base,
      (let s := reports .walkRight (fun f => { f with speed := -3, current := 4 }) base
       let t := axisSources .walkRight [] s
       [13, 14, 15].all (fun n => (s.pointsOn n).isEmpty) && t.source 13 == { value := -3, valid := true }
         && t.source 14 == { value := 1200, valid := true } && t.source 15 == { value := 4, valid := true }),
      channelsOf [(3, 5), (1, 6), (3, 7)] == [3, 1]].all id = true := by decide +kernel

/-- PARKED with a preparation confirm time of 0. -/
def quickPrep (s : State) : State :=
  { s with tables := { s.tables with
      active := { s.act with walk := { s.act.walk with prepConfirm := 0 } } } }

/-- A WALK carried out, and the re-test of walk preparation (R117, R118, R42; O22, O42, O43). -/
theorem witness_WalkTaken :
    [base.prepHolds && base.walk.tConfirm.isNone && !base.walk.camReversal && !base.prefailCrossed,
      (let t := enterWalkPrep base
       t.mode == .walkPrep && t.walk.tConfirm == some 2000 && t.walk.tTimeout == some 11000),
      (let t := enterWalkPrep (entryAt 6 1 base); t.mode == .walkPrep && t.walk.tConfirm.isNone),
      (let t := enterWalkPrep (quickPrep base)
       t.mode == .walking && t.walk.steps == 0 && t.walk.tTimeout.isNone && t.walk.stepMark == some 0),
      (let s := { preparing with walk := { preparing.walk with tConfirm := none } }
       (prepRetest s).walk.tConfirm == some 2000 && (prepRetest (quickPrep s)).mode == .walking
         && prepRetest (entryAt 6 1 s) == entryAt 6 1 s),
      prepRetest preparing == preparing, (prepRetest (entryAt 6 1 preparing)).walk.tConfirm.isNone,
      prepRetest digging == digging].all id = true := by decide +kernel

/-- Mode requests that are no change of mode, PARK in WALK_PREP and in WALKING (R34, R37, R38, R41; O24). -/
theorem witness_ParkRequests :
    [(let s := parkPending .brakes { digging with ctl := { digging.ctl with hold := .digChannels } }
      let t := modeRequest .dig s
      s.acts (action 0#8 [targetByte .dig]) && t.ctl.slot.isNone && t.ctl.hold == .none
        && t.ctl.parkTimer == (parkLength 1).map (fun n => 1000 + n)),
      [preparing, walking, parkPending .brakes walking].all (fun s => s.acts (action 0#8 [targetByte .park])),
      (modeRequest .dig digging).ctl.parkTimer == digging.ctl.parkTimer,
      (modeRequest .park preparing).mode == .parked && (modeRequest .park preparing).walk.tTimeout.isNone,
      modeRequest .park (parkPending .brakes walking) == parkPending .brakes walking,
      (let s := { walking with ctl := { walking.ctl with entryTime := 901 } }
       (modeRequest .park s).ctl.slot == some { target := .park, wait := .dwell 1001 }),
      (let s := { walking with walk := { walking.walk with phase := some .lift } }
       (modeRequest .park s).ctl.slot == some { target := .park, wait := .homePhase }),
      (let s := chanIn .walk (fun c => { c with state := .released, releasedTime := some 950 }) walking
       !(parkingSetAll s).allSet && (modeRequest .park s).ctl.hold == .walkChannel),
      (parkingSetAll walking).allSet && (modeRequest .park walking).mode == .parked,
      (let s := { base with ctl := { base.ctl with
          entryTime := 901, slot := some { target := .walk, wait := .dwell 1001 } } }
       (modeRequest .dig s).ctl.slot == some { target := .dig, wait := .dwell 1001 })].all id = true := by decide +kernel

/-- WRITE, SET, CLEAR and TOGGLE on the first flag and the modes of a point (R195; O32): mode, marks and values, the two
fields after. -/
def writeLines : List (Byte × List Byte × Option (List Byte × List Byte)) :=
  [(0#8, [0#8, 5#8], some ([0#8], [5#8])), (1#8, [9#8, 128#8], none), (1#8, [9#8, 5#8], some ([1#8], [7#8])),
    (2#8, [9#8, 5#8], some ([0#8], [2#8])), (3#8, [9#8, 5#8], some ([0#8], [3#8])), (0#8, [2#8, 5#8], none),
    (4#8, [0#8, 5#8], none), (0#8, [0#8, 5#8, 0#8], none), (0#8, [0#8], none)]

theorem test_write_modes :
    (let fs := PointCfg.fields { demoPoint 20 .warning false with mask := 6#7 }
     writeLines.all fun (w, v, o) =>
       ((writeFields fs ([1#8, 0#8, 0#8, 0#8, 0#8, 0#8, 0#8, 0#8, 1#8, 0#8] ++ w :: v)).map fun bs =>
         (bs[0]!, bs[8]!)) == o) = true := by decide +kernel

/-- What an ACTIVATE does to an analog channel by what changed (R147, R149; O33). -/
theorem witness_InstallAnalog :
    [(let new := { demoTables with analog := demoTables.analog.set 1 { emptyAnalog with gain := 4097 } }
      let s := { base with tables := { base.tables with staging := new } }
      s.requests (request 5#8 []) && s.activateFailure.isNone),
      (let t := installAnalog 1 emptyAnalog { emptyAnalog with gain := 4097 } (base.setSource 17 5 true)
       t.analog[1] == resetAin && t.source 17 == { value := 5, valid := false }),
      (let s := base.setAin 1 { resetAin with ready := true, beyond := 1, limitMark := true, high := true }
       (installAnalog 1 emptyAnalog { emptyAnalog with persistence := 2 } s).analog[1]
           == { resetAin with ready := true, high := true }
         && (installAnalog 1 emptyAnalog { emptyAnalog with fatigue := 0 } s).analog[1]
           == { resetAin with ready := true, beyond := 1, limitMark := true }
         && installAnalog 1 emptyAnalog { emptyAnalog with action := .both } s == s)].all id = true := by decide +kernel

/-- The completions with and without an autosave held (R199, R200; O34, O35). -/
theorem witness_HeldSaves :
    (let saving (held : Bool) : State :=
        { base with store := { base.store with state := .saving, image := [1#8], held := held } }
     let writing (held : Bool) : State :=
        { base with store := { base.store with state := .committing, image := [1#8], held := held } }
     [(saveDone [1#8] (saving false)).store.state == .idle, (saveDone [1#8] (saving true)).store.state == .saving
        && !(saveDone [1#8] (saving true)).store.held,
      (commitDone [2#8] (writing false)).store.state == .idle, (commitDone [2#8] (writing true)).store.state == .saving].all id)
      = true := by decide +kernel

/-- OUT's choice at the end of a sending (R19; O39). -/
theorem witness_NextSent :
    (let e : InsEntry := noticeEntry .status 8#4 [] base
     let full (n : Nat) : State :=
        { forwardFull base with ring := { (forwardFull base).ring with ins := [e], consec := n } }
     let sent (s : State) : Option (Option Sending) := (after (exec .sendingComplete s)).map fun t => t.ring.sending
     let notice : Option (Option Sending) := some (some (.inserted .status (e.toFrame base.ring.insSeq)))
     [sent (full 7) == some (some .forward), sent (full 8) == notice,
      sent { full 0 with ring := { (full 0).ring with fwd := [] } } == notice].all id) = true := by decide +kernel

/-- The conversion that ends a settle interval (R149, R151, R33; O49, O50). -/
theorem witness_SettleEnds :
    (let last (n : Fin 4) (s : State) := s.setAin n { resetAin with settle := 49, beyond := 1 }
     [(let s := last 1 inInit
       (s.pointsOn 17).isEmpty && (s.pointsOn 63).isEmpty && !(s.act.analog[1]).limitOn && s.heldTrips.isEmpty
         && (convert 1 0 0 s).mode == .parked && (convert 1 0 0 s).trip.field == .energised),
      (let s := last 1 (inInit.setAin 2 resetAin)
       (convert 1 0 0 s).mode == .init && (convert 1 0 0 s).ctl.reason == .waiting),
      (let t := convert 0 2500000 0 (last 0 base)
       t.mode == .tripped && (t.analog[0]).limitMark && t.trip.queue.map (fun r => (r.cause, r.frame, r.mode, r.number))
         == [(.direct 0, none, .parked, 1)]),
      (let s := base.setAin 0 { resetAin with ready := true, beyond := 2, limitMark := true }
       (convert 0 2500000 0 s).trip == s.trip && (s.pointsOn 16).isEmpty)].all id) = true := by decide +kernel

/-- The last segment of a test within its limit, and one beyond it (R185, R189; O52). -/
theorem witness_LastSegment :
    (let s := testing .hold
     let one := { s with tester := { s.tester with count := 1 } }
     let far := { s with tester := { s.tester with start := some ⟨1211, 0⟩ } }
     [(let t := holdOut one
       t.tester.status == .passed && t.mode == .parked
         && t.tester.results == [{ chan := .hoist, slip := some 0, outcome := .pass }]
         && t.tester.log[0] == some { number := 1, status := .passed, minutes := 0, failing := none
                                      results := t.tester.results }),
      (let t := holdOut far
       t.tester.status == .failedSlip
         && t.tester.results == [{ chan := .hoist, slip := some 11, outcome := .fail }]),
      (let t := rampOut (testing .ramp)
       t.tester.status == .failedNoTorque
         && t.tester.results == [{ chan := .hoist, slip := none, outcome := .noTorque }]
         && t.tester.tPeriod.isNone)].all id) = true := by decide +kernel

/-- The straps that give a station number and those that give none (R26; O4); the reset of the first kind is
`test_reset_is_a_fixed_point`. -/
theorem witness_Straps :
    ([0#6, 1#6, 7#6, 62#6, 63#6].map fun b => State.ownValid { State.reset with ring := resetRing b })
      = [false, true, true, true, false] := by decide +kernel

/-! States that meet the premises of the step lemmas O53 to O59, each with a step. -/

theorem witness_LinesAgree : LinesAgree base ∧ LinesAgree tripped ∧ (after (step base)).isSome = true := by
  unfold LinesAgree
  decide +kernel

theorem witness_ActiveListExact :
    ActiveListExact (pointIn 0 .activeUnack false base)
      ∧ (after (step (pointIn 0 .activeUnack false base))).isSome = true := by
  unfold ActiveListExact
  decide +kernel

theorem witness_NoTripPointShelved :
    NoTripPointShelved (pointIn 0 .shelved false base)
      ∧ (after (step (pointIn 0 .shelved false base))).isSome = true := by
  unfold NoTripPointShelved
  decide +kernel

theorem witness_SkewWithinLimit : SkewWithinLimit walking ∧ (after (step walking)).isSome = true := by
  refine ⟨⟨rfl, fun _ k h => ?_⟩, by decide +kernel⟩
  cases h
  decide

theorem witness_WearInRange : WearInRange base ∧ (after (step base)).isSome = true := by
  unfold WearInRange
  decide +kernel

theorem witness_QueuesBounded : QueuesBounded (forwardFull base) ∧ (after (step (forwardFull base))).isSome = true := by
  unfold QueuesBounded
  decide +kernel

/-- The small machine with a test Reference, a Status Notice and an Alarm Notice waiting. -/
def inserting : State :=
  { base with ring := { base.ring with
      ins := [{ cls := .testRef, dst := 10#8, src := 7#8, kind := 1#4, life := 5#4, payload := testPayload .hoist 0 0 },
        noticeEntry .status 8#4 [] base, noticeEntry (.alarm 0) 7#4 [] base]
      sending := some .forward, fwd := (forwardFull base).ring.fwd } }

theorem witness_InsertQueueSound : InsertQueueSound inserting ∧ (after (step inserting)).isSome = true := by
  unfold InsertQueueSound
  decide +kernel

/-! What a mode change, a trip, a lever, a change of freshness, a request, ACTIVATE and a segment's end leave. -/

/-- The small machine with points 1 and 3 armed in PARKED alone, 3 DELAYING, and point 2 DISARMED. -/
def masked (s : State) : State :=
  let w : PointCfg := { demoPoint 20 .warning false with mask := 2#7 }
  let t := { demoTables with points := (demoTables.points.set 0 w).set 2 { w with source := 22 } }
  pointIn 1 .disarmed false (pointIn 2 .delaying false { s with tables := { s.tables with active := t } })

/-- Points that a mode change disarms, arms and leaves, and the changes of mode of the premises (R135; O22, O27, O41,
O43). -/
theorem witness_Rearmed :
    [(let t := modeSteps .dig (masked base)
      (List.range 4).map (fun i => (t.alarm.points[i]?).map PointRun.state)
          == [some .disarmed, some .normal, some .disarmed, some .disarmed]
        && t.owed[0] && t.owed[1] && t.owed[2] && !t.owed[3] && t.heldTrips.isEmpty),
      ((modeSteps .parked (pointIn 0 .activeUnack false base)).alarm.points[0]).state == .activeUnack,
      (let s := { digging with tight := { digging.tight with start := some 0 } }
       (s.pointsOn 37).isEmpty && ((modeSteps .tripped s).source 37).valid),
      (let s := { preparing with walk := { preparing.walk with reversal := ⟨true, false⟩ } }
       s.walk.camReversal && (s.pointsOn 77).isEmpty && ((modeSteps .walking s).source 77).valid)].all id = true := by
  decide +kernel

/-- A trip's record. -/
def aRecord : TripRecord := capture { cause := .skew, action := .both, frame := none } true base

/-- A machine whose trip record queue is full. -/
def queueFull (lost : Nat) (s : State) : State :=
  { s with trip := { s.trip with queue := List.replicate 32 aRecord, notStored := lost, next := 4294967295 } }

/-- Trips taken where no point watches what they hand: stored, not stored, and with the count at its end; what their
records capture (R161 to R163, R166; O46). -/
theorem witness_TripsTaken :
    [[base, tripped, digging].all fun s =>
        (s.pointsOn 54).isEmpty && (s.pointsOn 55).isEmpty && s.heldTrips.isEmpty && s.updates.isNone
          && s.tight.start.isNone,
      (let t := handTrip { cause := .direct 0, action := .field, frame := none } base
       t.source 54 == { value := 1, valid := true } && t.trip.brake == .energised),
      (let t := handTrip { cause := .skew, action := .both, frame := some [] } (queueFull 7 tripped)
       t.trip.queue.length == 32 && t.trip.notStored == 8 && t.source 55 == { value := 8, valid := true }
         && t.trip.next == 4294967295),
      (let t := handTrip { cause := .skew, action := .both, frame := none } (queueFull 65535 tripped)
       t.trip.notStored == 65535 && t.source 55 == base.source 55),
      (capture { cause := .skew, action := .both, frame := none } true walking).phase == some (some .home),
      (let s := { walking with walk := { walking.walk with phase := none, tubRaised := true } }
       (capture { cause := .skew, action := .both, frame := none } true s).tubRaised == some false),
      aRecord.phase.isNone && !aRecord.snapshots.hoist.stale,
      (let s := pointIn 2 .activeUnack false (pointIn 1 .activeUnack false base)
       (capture { cause := .point 1, action := .both, frame := none } true s).coActive == [2]
         && (capture { cause := .skew, action := .both, frame := none } true s).coActive == [1, 2]),
      (let s := chanIn .hoist (fun c => { c with state := .setting, tSet := some 1000 }) (queueFull 0 digging)
       s.expired (s.brakes.get .hoist).tSet && s.updates.isNone
         && (setOut .hoist s).trip.notStored == 1)].all id = true := by
  decide +kernel

/-- A test that ends by the lever rather than being suspended. -/
def abortPolicy (s : State) : State :=
  { s with tables := { s.tables with active := { demoTables with test := { demoTables.test with policy := .abort } } } }

/-- The lever of a console Reference in DIG, and to a test IN_PROGRESS and SUSPENDED (R44, R74, R187, R188; O14). -/
theorem witness_LeverTaken :
    [(let t := standingStage hoistParsed digging
      hoistParsed.lever.toInt == 100 && t.ctl.parkTimer == some 6000),
      (standingStage { hoistParsed with lever := 0#16 } digging).ctl.parkTimer == digging.ctl.parkTimer,
      (inMode .testing base).testRuns == false && (testing .ramp).testRuns && suspended.testRuns,
      (let t := standingStage hoistParsed (testing .ramp)
       (testing .ramp).act.test.policy == .suspend && t.tester.status == .suspended && t.tester.tSuspend == some 61000),
      (let t := standingStage hoistParsed (abortPolicy (testing .ramp))
       t.mode == .parked && t.tester.status == .abortedOperator && t.tester.levers.hoist == 100),
      (standingStage { hoistParsed with lever := 0#16 } (testing .ramp)).tester.status == .inProgress,
      (let s := { suspended with tester := { suspended.tester with tResume := none } }
       (standingStage { hoistParsed with lever := 0#16 } s).tester.tResume == some 3000),
      (standingStage hoistParsed suspended).tester.tResume.isNone,
      [0, 1, 120, 121].map parkLength == [none, some 5000, some 600000, some 900000]].all id = true := by
  decide +kernel

/-- Entries of every role at STALE, at LOST and back to FRESH (R23, R33, R117; O8). -/
theorem witness_FreshnessRoles :
    [([(0, Role.console), (1, .manager), (2, .sensor), (3, .drive)] : List (Fin 16 × Role)).all fun (e, role) =>
        (base.act.stations[e]).role == role
          && [0, 2].all fun n =>
            ((entryAt e n base).stations[e]).map (fun r => (r.expiries, r.fresh == .fresh))
                == some (n, decide (n = 0))
              && (entryAt e n base).expired (some 1000),
      ([(1#8, 0), (2#8, 1), (3#8, 2), (10#8, 3)] : List (Byte × Fin 16)).all fun (n, e) =>
        [0, 1].all fun k =>
          ((entryAt e k base).sourceRun (frameOf (past n 1) 8#4 [])).map Prod.fst == some e,
      [Mode.dig, .walkPrep, .walking, .testing].all fun m => (skewAgain .hoist (dropAxis .hoist (inMode m base))).mode == m,
      (skewAgain .hoist (dropAxis .hoist base)).mode == .parked,
      (let s := freshnessOut 0 (entryAt 0 0 base)
       s.source 38 == { value := 1, valid := true } && s.sensors == base.sensors),
      (freshnessOut 2 (entryAt 2 0 base)).source 20 == { base.source 20 with valid := false },
      (received (frameOf (past 1 1) 8#4 []) (entryAt 0 1 base)).source 38 == { value := 0, valid := true }].all id
      = true := by
  decide +kernel

/-- A frame that ends a silence, and one while the timer runs (R24; O6, O47). -/
theorem witness_Silence :
    (let quiet := { base with ring := { base.ring with silence := none } }
     [(heard quiet).source 78 == { value := 0, valid := true } && (heard quiet).ring.silence == some 1050,
      base.ring.silence.isSome && (heard base).source 78 == base.source 78,
      (let f := frameOf (past 7 1) 7#4 []
       frameOk f && formOk f && f.src == quiet.ownByte && (quiet.ring.silence).isNone)].all id) = true := by
  decide +kernel

/-- Payloads that make a request, at the ends of their ranges, and payloads that make none (R191; O9). -/
theorem witness_Requests :
    (let is (bs : List Byte) := (requestOf (frameOf (from_ 2#8) 5#4 bs)).isSome
     let ok (c : Byte) (args : List Byte) := is (c :: 0#8 :: 0#8 :: args)
     [[0#8, 4#8, 5#8, 6#8, 7#8, 14#8, 15#8, 18#8].all fun c => ok c [] && !ok c [0#8],
      ok 1 [1#8] && ok 1 [2#8] && !ok 1 [0#8] && !ok 1 [3#8] && !ok 1 [],
      ok 2 [0#8, 0#8, 0#8] && ok 2 [1#8, 99#8, 99#8] && !ok 2 [2#8, 0#8, 0#8],
      ok 3 [0#8, 0#8] && ok 3 [1#8, 1#8, 1#8] && !ok 3 [1#8],
      ok 8 [1#8] && ok 8 [5#8] && !ok 8 [0#8] && !ok 8 [6#8], ok 9 [0#8] && ok 9 [255#8] && !ok 9 [],
      ok 10 [1#8] && ok 10 [255#8] && !ok 10 [0#8], ok 11 [0#8, 1#8] && ok 11 [255#8, 3#8] && !ok 11 [1#8, 4#8],
      ok 12 [0#8] && !ok 12 [], ok 13 [1#8] && !ok 13 [0#8], ok 16 [1#8] && ok 16 [16#8] && !ok 16 [17#8],
      ok 17 [1#8, 0#8] && ok 17 [1#8, 1#8] && ok 17 [2#8, 0#8] && !ok 17 [2#8, 1#8] && !ok 17 [3#8, 0#8],
      !ok 19 [] && !is [] && !is [0#8] && !is [0#8, 0#8]].all id) = true := by
  decide +kernel

/-- Staging tables that fail a test of ACTIVATE, and what the answer names (R196; O33). -/
theorem witness_FirstFails :
    (let fails (t : TableSet) := State.activateFailure { base with tables := { base.tables with staging := t } }
     [fails { demoTables with stations := demoStations.set 15 (drive 63 .hoist) } == some (1, 16),
      fails { demoTables with stations := demoStations.set 0 emptyTables.stations[0] } == some (1, 0),
      fails { demoTables with zones := demoTables.zones.set 2 ⟨.slow, 1500, 1600, 100, 0⟩ } == some (5, 3),
      fails { demoTables with options := { demoTables.options with life := 0 } } == some (11, 0)].all id) = true := by
  decide +kernel

/-- A machine at a segment's end, with OUT sending. -/
def sendingTest (ph : SegPhase) : State :=
  { testing ph with ring := { (testing ph).ring with sending := some .forward, fwd := (forwardFull base).ring.fwd } }

/-- The second segment of a test, on the channel WALK. -/
def onWalk (s : State) : State := { s with tester := { s.tester with segment := some 1 } }

/-- The final References of a failed ramp and of a hold, OUT idle and sending, and a passed segment that is not the last
(R185, R186; O52). -/
theorem witness_FinalReferences :
    [(let t := rampOut (testing .ramp)
      (testing .ramp).heldTrips.isEmpty && t.tester.status == .failedNoTorque
        && (match t.ring.sending with
            | some (.inserted .testRef f) => f.payload == testPayload .hoist 0 0 && f.dst == 10#8
            | _ => false)),
      (let t := rampOut (onWalk (sendingTest .ramp))
       t.testQueued && t.tester.secondFinal == some (otherCam (testing .ramp).tester.walkTurn)),
      (let t := rampOut (onWalk (testing .ramp))
       t.testQueued && t.tester.secondFinal.isNone),
      (let s := sendingTest .hold
       let t := holdOut s
       (s.pointsOn 65).isEmpty && (s.driveEntry .hoist).isSome && s.tester.segment == some 0 && s.tester.count == 2
         && t.tester.segment == some 1 && t.tester.phase == some .waiting && t.tester.status == .inProgress),
      slipOf .swing ⟨3599, 0⟩ ⟨1, 0⟩ == 2 && slipOf .walk ⟨5, 9⟩ ⟨7, 2⟩ == 7 && slipOf .hoist ⟨5, 0⟩ ⟨7, 0⟩ == 2].all id
      = true := by
  decide +kernel

/-- The two conditions of the hold on a reset (R154; O27), and a divisor other than 0 (R1; O20). -/
theorem witness_DirectHold :
    [State.directHold (tripped.setAin 0 { resetAin with ready := true, beyond := 1 }),
      State.directHold (tripped.setAin 0 resetAin), !State.directHold (tripped.setAin 1 resetAin),
      quotient 7 2 == 3].all id = true := by
  decide +kernel

/-- A machine in INIT that waits for its one record to be consumed (R32). -/
def heldRecord : State :=
  { inInit with
    ctl := { inInit.ctl with reason := .holdRecords }
    trip := { inInit.trip with queue := [aRecord], next := 2, notStored := 1 } }

/-- CONSUME_TRIPS in INIT: the last record gone, PARKED; with a station not FRESH, or a record left, the reason again; and
a request that removes none (R165, R166, R33; O37). -/
theorem witness_ConsumeInInit :
    (let two := { heldRecord with trip := { heldRecord.trip with queue := [aRecord, aRecord] } }
     let stale := entryAt 3 1 heldRecord
     [[heldRecord, two, stale].all fun s => s.requests (request 12#8 [1#8]) && s.mode == .init && s.heldTrips.isEmpty
        && (s.pointsOn 54).isEmpty && (s.pointsOn 55).isEmpty && s.ctl.reason == .holdRecords,
      (let t := consume 1 heldRecord
       t.mode == .parked && t.trip.queue.isEmpty && t.trip.notStored == 0 && t.trip.field == .energised
         && t.source 54 == { value := 0, valid := true } && t.source 55 == { value := 0, valid := true }),
      (let t := consume 1 stale
       t.mode == .init && t.ctl.reason == .waiting && t.trip.field == .deEnergised),
      (let t := consume 1 two
       t.mode == .init && t.ctl.reason == .holdRecords && t.trip.notStored == 1
         && t.source 54 == { value := 1, valid := true } && t.source 55 == two.source 55),
      consume 0 heldRecord == heldRecord].all id) = true := by
  decide +kernel

/-- A restart that takes effect: what it keeps, with the store's tables region empty, and after a test (R202; O38). -/
theorem witness_RestartKeeps :
    (let d : Descriptor := { number := 1, status := .passed, minutes := 0, failing := none, results := [] }
     let s := { base with
       trip := { base.trip with queue := [aRecord], next := 2 }
       tester := { base.tester with log := base.tester.log.set 0 (some d), pointer := 1, nextNumber := 2 } }
     let t := restart [] s
     [t.mode == .init && t.ctl.reason == .noTables && !t.tables.valid && t.trip.queue == [aRecord] && t.trip.next == 2,
      t.source 54 == { value := 1, valid := true } && t.source 55 == { value := 0, valid := true },
      t.tester.status == .passed && t.tester.nextNumber == 2 && base.tester.pointer == 0,
      t.ring.own == s.pins.straps && t.ownValid && t.stations.all Option.isNone,
      (regionContents s.store.afterReset.tablesRegion).isNone,
      (restart [] base).tester.status == .neverRun].all id) = true := by
  decide +kernel

/-- A first-out trip from INIT, DIG and TESTING, where no point watches what it hands (R31, R63, R157, R189; O46). -/
theorem witness_FirstTrip :
    (let trip (s : State) := handTrip { cause := .direct 0, action := .both, frame := none } s
     [[inInit, releasedHoist 950, testing .ramp].all fun s => s.heldTrips.isEmpty && s.updates.isNone
        && (s.pointsOn 54).isEmpty && (s.pointsOn 55).isEmpty && s.tight.start.isNone,
      (let t := trip (testing .ramp)
       t.tester.status == .abortedTrip && t.tester.pointer == 1 && t.tester.segment.isNone
         && (t.tester.results.map (·.outcome)) == [.notFinished]),
      (let t := trip (testing .waiting)
       t.tester.status == .abortedTrip && t.tester.results == [] && t.ring == (testing .waiting).ring),
      [(ChanState.releasePending, ChanState.set), (.releasing, .setting), (.released, .setting), (.setPending, .setting),
        (.set, .set), (.setting, .setting), (.fault, .fault)].all fun (a, b) =>
          ((trip (chanIn .hoist (fun c => { c with state := a }) digging)).brakes.get .hoist).state == b,
      (trip inInit).ctl.reason == .none].all id) = true := by
  decide +kernel

/-- The entry to WALKING with a set cam-reversal flag, and with the skew at and above its limit (R120; O43). -/
theorem witness_WalkEntered :
    (let skewed (k : Nat) := { preparing with walk := { preparing.walk with skew := some k, reversal := ⟨true, false⟩ } }
     [[skewed 100, skewed 101].all fun s => s.mode == .walkPrep && s.heldTrips.isEmpty && s.updates.isNone
        && s.walk.camReversal && (s.pointsOn 77).isEmpty && (s.pointsOn 54).isEmpty && (s.pointsOn 55).isEmpty
        && s.alarm.list.isEmpty && s.alarm.points.all (fun r => !r.state.listed) && s.prepHolds && !s.prefailCrossed
        && s.expired s.walk.tConfirm,
      (let t := confirmOut (skewed 100)
       t.mode == .walking && t.source 77 == { value := 0, valid := true } && t.walk.stepMark == some 0),
      (let t := confirmOut (skewed 101)
       t.mode == .tripped && t.source 77 == { value := 0, valid := true } && t.walk.stepMark.isNone
         && t.trip.queue.map (fun r => (r.cause, r.mode, r.frame)) == [(.skew, .walking, none)]),
      preparing.walk.camReversal == false,
      (prepOut (skewed 101)).mode == .parked].all id) = true := by
  decide +kernel

/-- The flags that a prove and a release timer set, clear before and set before (R67; O44, O45). -/
theorem witness_TimerFlags :
    (let pend (flag : Bool) := chanIn .hoist (fun c => { c with
       state := .releasePending, due := some 1000, tProve := some 1000, proveFailed := flag }) digging
     let rel (flag : Bool) := chanIn .hoist (fun c => { c with
       state := .releasing, tRelease := some 1000, releaseTimeout := flag }) digging
     [(pend false).expired ((pend false).brakes.get .hoist).tProve,
      (proveOut .hoist (pend false)).source 69 == { value := 1, valid := true },
      (proveOut .hoist (pend true)).source 69 == (pend true).source 69,
      (rel false).expired ((rel false).brakes.get .hoist).tRelease,
      (releaseOut .hoist (rel false)).source 73 == { value := 1, valid := true },
      (releaseOut .hoist (rel true)).source 73 == (rel true).source 73].all id) = true := by
  decide +kernel

/-- A DRIVE entry with no axis at STALE, at LOST and back to FRESH (log 55; O8). -/
theorem witness_DriveWithoutAxis :
    (let bare (s : State) := { s with tables := { s.tables with active := { demoTables with
       stations := demoStations.set 3 { number := 10, role := .drive, axis := none, timeout := 500 } } } }
     [[digging, inInit].all fun s => (((bare s).act.stations[3]).role, ((bare s).act.stations[3]).axis) == (.drive, none),
      (let t := freshnessOut 3 (entryAt 3 0 (bare digging))
       t.source 41 == { value := 1, valid := true } && t.mode == .dig && t.brakes == digging.brakes),
      (freshnessOut 3 (entryAt 3 2 (bare digging))).mode == .tripped,
      (freshnessOut 3 (entryAt 3 2 (bare inInit))).mode == .init,
      (received passingFrame (entryAt 3 1 (bare inInit))).mode == .parked].all id) = true := by
  decide +kernel

/-! What the third review asked for. -/

/-- Frames taken at IN before steps 3 to 5 of R201: with no table in force a station's frame is forwarded with its life
lowered, a mode request is refused NO_TABLES, a request is carried out whoever sends it, and a frame that fails its check
is removed; then the tables are loaded (R11, R12, R26, R34; log 32; O4, O38). -/
theorem witness_EarlyFrames :
    (let go (early : List Frame) : State := earlyFrames (early.map wireBytes) (volatileReset 7#6 base)
     [(go [passingFrame]).ring.fwd.length == 1 && (go [passingFrame]).counter .taken == 1#32,
      (go [action 0#8 [1#8]]).ctl.refusal == .noTables && (go [action 0#8 [1#8]]).mode == .init,
      (match (go [request 0#8 []]).ring.sending with
       | some (.inserted (.response _) f) => f.dst == 2#8
       | _ => false),
      (earlyFrames [[1#8]] (volatileReset 7#6 base)).counter .removedCheck == 1#32,
      (go [passingFrame]).ctl.reason == .noTables && (go [passingFrame]).stations.all Option.isNone,
      ((after (exec (.powerOnReset 7#6 [wireBytes passingFrame]) State.reset)).map fun t =>
        (t.ring.fwd.length, t.counter .taken)) == some (1, 1#32),
      (let s := { base with ring := { base.ring with sending := some (.inserted (.response true) passingFrame) } }
       s.sendsRestart)].all id) = true := by
  decide +kernel

/-- Timers that stand and have run out, that stand and run, and that are stopped (O2). -/
theorem witness_Due :
    (let all := { suspended with
        stations := suspended.stations.set 3 (some { freshRun with timer := some 1000 })
        ctl := { suspended.ctl with slot := some { target := .dig, wait := .dwell 1000 }, parkTimer := some 1000 } }
     [all.due.length == 5, !base.due.contains .ringSilenceExpiry && base.ring.silence == some 1040,
      !base.due.contains .parkTimerExpiry && base.ctl.parkTimer.isNone, preparing.due.length == 2,
      (hoistIn .released).due.isEmpty, (releasedHoist 950).due == [.autosetExpiry .hoist]].all id) = true := by
  decide +kernel

/-- Bytes that are a frame and bytes that are none; the addresses at the ends of their ranges (R2, R3; O5, O6). -/
theorem witness_FrameBytes :
    (let f (dst src : Nat) := frameOf { past src dst with src := byte src, dst := byte dst } 8#4 []
     [parseFrame (wireBytes passingFrame) == some passingFrame, (parseFrame (wireBytes passingFrame ++ [0#8])).isNone,
      wireBytes passingFrame != [] && (wireBytes passingFrame).length == 7,
      frameOk (f 1 1) && frameOk (f 63 62), !frameOk (f 0 1), !frameOk (f 64 1), !frameOk (f 1 0), !frameOk (f 1 63),
      crc16 [] == 0xFFFF#16].all id) = true := by
  decide +kernel

/-- References at the ends of their ranges and beyond them, and References of each axis and brake (R4; O6, O10). -/
theorem witness_ReferencePayloads :
    (let reads (w : RefWire) := (parseRef (refFrame (past 1 10) w).payload).isSome
     let lo : RefWire := { hoistRef with lever := 64536#16, speed := 64536#16, torque := 0#16, cause := 13#8 }
     [reads lo && reads { lo with lever := 1000#16, speed := 1000#16, torque := 300#16, cause := 0#8 },
      !reads { lo with lever := 64535#16 }, !reads { lo with speed := 1001#16 }, !reads { lo with torque := 301#16 },
      !reads { lo with cause := 14#8 }, !reads { lo with axis := 0#8 }, !reads { lo with axis := 6#8 },
      !reads { lo with brake := 3#8 }, (parseRef (1#8 :: (refFrame (past 1 10) lo).payload)).isNone,
      ([(1#8, Axis.hoist), (2#8, .drag), (3#8, .swing), (4#8, .walkLeft), (5#8, .walkRight)]).all fun (b, x) =>
        (parseRef (refFrame (past 1 10) { lo with axis := b }).payload).map (·.axis) == some x,
      ([(0#8, BrakeReq.hold), (1#8, .release), (2#8, .releaseAutoset)]).all fun (b, r) =>
        (parseRef (refFrame (past 1 10) { lo with brake := b }).payload).map (·.brake) == some r,
      (parseRef (refFrame (past 1 10) lo).payload).map (·.speed) == some (-1000)].all id) = true := by
  decide +kernel

/-- Drive Statuses at the ends of their ranges and beyond them (R5; O6, O20). -/
theorem witness_StatusPayloads :
    (let d (w : StatusWire) := parseStatus (statusFrame (past 10 1) w).payload
     let w : StatusWire :=
        { axis := 1#8, status := 0x83#8, speed := 64536#16, position := 3000#16, turns := 0#16, current := 65236#16 }
     [d w == some { axis := .hoist, brake := .fault, ready := true, speed := -1000, position := 3000, turns := 0,
                    current := -300 },
      (d { w with status := 2#8 }).map (fun x => (x.brake, x.ready)) == some (.transit, false),
      (d { w with status := 4#8 }).isNone, (d { w with status := 0x40#8 }).isNone, (d { w with position := 3001#16 }).isNone,
      (d { w with axis := 3#8, position := 3599#16 }).isSome, (d { w with axis := 3#8, position := 3600#16 }).isNone,
      (d { w with turns := 1#16 }).isNone, (d { w with axis := 4#8, turns := 65535#16 }).isSome,
      (d { w with current := 300#16 }).isSome, (d { w with current := 301#16 }).isNone,
      (d { w with speed := 1001#16 }).isNone, (parseStatus []).isNone].all id) = true := by
  decide +kernel

/-- Sensor Reports and Operator Actions at the ends of their ranges and beyond them (R6, R191; O6, O21). -/
theorem witness_ReportAndActionPayloads :
    (let r (ps : List (Byte × Half)) := parseReport (sensorFrame (past 3 1) ps).payload
     [r [(15#8, 65535#16)] == some [(15, -1)], (r [(16#8, 0#16)]).isNone, (r []).isNone,
      (r (List.replicate 8 (0#8, 0#16))).isSome, (r (List.replicate 9 (0#8, 0#16))).isNone, (parseReport [0#8, 0#8]).isNone,
      parseAction [0#8, 2#8] == some (.modeRequest .walk), (parseAction [0#8, 3#8]).isNone,
      parseAction [1#8, 48#8] == some (.ack 48), parseAction [1#8, 0#8] == some (.ack 0), (parseAction [1#8, 49#8]).isNone,
      parseAction [2#8, 48#8, 1#8, 0xE0#8] == some (.shelve 48 480), (parseAction [2#8, 48#8, 1#8, 0xE1#8]).isNone,
      (parseAction [2#8, 1#8, 0#8, 0#8]).isNone, (parseAction [3#8, 0#8]).isNone,
      parseAction [3#8, 1#8] == some (.unshelve 1), parseAction [7#8] == some .testAbort, (parseAction [7#8, 0#8]).isNone,
      (parseAction [8#8]).isNone, (parseAction []).isNone].all id) = true := by
  decide +kernel

/-- References that pass the source and the destination stage, and that fail one of them (R72, R73; O10, O12, O20, O21). -/
theorem witness_Addressed :
    [base.refAddressed hoistFrame hoistParsed, !base.refAddressed (refFrame (past 2 10) hoistRef) hoistParsed,
      !base.refAddressed (refFrame (past 9 10) hoistRef) hoistParsed,
      !base.refAddressed (refFrame (past 1 11) hoistRef) hoistParsed, base.isDriveOf 14#8 .walkRight,
      !base.isDriveOf 14#8 .walkLeft, base.entryOf 3#8 == some 2, (base.entryOf 9#8).isNone,
      (base.entryOf 0#8).isNone].all id = true := by
  decide +kernel

/-- The walk limits case by case (R113 to R115; O18): skew, trim percent, cam angle, speed, speed out, cause. -/
def walkLines : List (Option Nat × Nat × Nat × Int × Int × Cause) :=
  [(none, 20, 1200, 0, 0, .none), (none, 20, 1200, -5, 0, .walkDirection), (none, 20, 1200, 500, 500, .none),
    (none, 20, 1200, 501, 500, .walkPhase), (some 50, 20, 1200, 501, 500, .walkPhase),
    (some 51, 20, 1200, 501, 400, .skewTrim), (some 51, 0, 1200, 501, 500, .walkPhase),
    (some 51, 0, 1200, 400, 400, .none), (some 51, 20, 1200, 1, 0, .skewTrim), (some 51, 101, 1200, 500, 0, .skewTrim)]

theorem witness_WalkLimits :
    (let at_ (k : Option Nat) (percent angle : Nat) : State :=
        { walking with
          walk := { walking.walk with skew := k }
          feedback := { walking.feedback with walkRight := { restFeedback with position := angle } }
          tables := { walking.tables with
            active := { demoTables with walk := { demoTables.walk with trimPercent := percent } } } }
     [walkLines.all fun (k, percent, angle, v, o, c) =>
        let e := limitStage .walkRight (at_ k percent angle) (atSpeed v)
        e.speed == o && e.cause == c,
      (let e := limitStage .walkLeft (at_ (some 51) 20 1200) (atSpeed 500); e.speed == 500 && e.cause == .none),
      (let s := at_ none 20 1200
       let bare := { s with tables := { s.tables with
          active := { s.act with sectors := s.act.sectors.set 0 ⟨1300, .home, 300⟩, walk := { s.act.walk with sectors := 1 } } } }
       (bare.sectorOf 1200).isNone && (limitStage .walkRight bare (atSpeed 900)).speed == 900),
      walking.leading .walkRight && !walking.leading .walkLeft,
      !(State.leading { walking with walk := { walking.walk with lagging := none } } .walkRight)].all id) = true := by
  decide +kernel

/-- Parking that ends at once: PARK in DIG, the park timer, a wait for HOME and an ended DWELL, also with a tightline
episode that no point watches (R39 to R41; O24, O41, O42). -/
theorem witness_ParkedAtOnce :
    (let timed := { digging with ctl := { digging.ctl with parkTimer := some 1000 } }
     let tight (s : State) : State := { s with tight := { s.tight with start := some 0 } }
     let parked (o : Host.Outcome State Fault Refusal) : Bool := (after o).map State.mode == some .parked
     [(let u := actedOn (action 0#8 [0#8]) digging
       digging.acts (action 0#8 [0#8]) && u.mode == .dig && !u.pendingTarget .park && u.dwellMet u.act.mode.digDwell
         && (parkingSetAll u).allSet && u.heldTrips.isEmpty && u.tight.start.isNone),
      (let u := actedOn (action 0#8 [0#8]) (tight digging)
       (tight digging).acts (action 0#8 [0#8]) && u.tight.start.isSome && (u.pointsOn 37).isEmpty),
      parked (exec (.modeRequest (from_ 1#8) 0#8) digging),
      (let s := timed
       s.mode == .dig && s.expired s.ctl.parkTimer && !s.pendingTarget .park && s.dwellMet s.act.mode.digDwell
         && (parkingSetAll s).allSet && s.heldTrips.isEmpty),
      parked (exec .parkTimerExpiry (tight timed)),
      (let s := parkPending .homePhase walking
       s.walk.phase == some .home && (parkingSetAll s).allSet && s.heldTrips.isEmpty && parked (exec .homeWaitEnd s)),
      (tight digging).tight.start.isSome && ((tight digging).pointsOn 37).isEmpty].all id) = true := by
  decide +kernel

/-- Raw values at the ends of R145 and beside the reference (log 33; O49, O50): input, reference, raw value. -/
theorem witness_RawValues :
    (([(0, 2500000, 0), (-1, 2500000, 0), (610, 2500000, 0), (611, 2500000, 1), (2499999, 2500000, 4094),
        (2500000, 2500000, 4095), (2500001, 2500000, 4095), (1, 0, 4095), (0, 0, 0), (-1, -2, 0)] :
        List (Int × Int × Nat)).all fun (v, r, n) => rawOf v r == n) = true := by
  decide +kernel

/-- The fatigue cycle after a conversion, the scaled value at and beside each level (R150, R153, R175; O50): channel, high
mark, input, high mark after, raw value of BOOM_FATIGUE after. -/
def fatigueLines : List (Fin 4 × Bool × Int × Bool × Nat) :=
  [(1, false, 2500000, false, 0), (1, true, 0, true, 0), (0, false, 610501, false, 0), (0, false, 611112, true, 0),
    (0, true, 305251, true, 0), (0, true, 304640, false, 1)]

theorem witness_FatigueConversions :
    [fatigueLines.all fun (ch, high, v, high', raw) =>
        let t := convert ch v 0 (base.setAin ch { resetAin with ready := true, high := high })
        (t.analog[ch]).high == high' && (t.attrs.recs[boomFatigue]).raw == raw,
      (base.act.analog[1]).role == .none && (base.act.analog[0]).role == .boom,
      [610501, 611112, 305251, 304640].map (fun v => rawOf v 2500000) == [1000, 1001, 500, 499],
      (let s := { base with tables := { base.tables with
          active := { demoTables with attrs := demoTables.attrs.set 7 { life := 10, threshold := 0, cls := .advisory } } } }
       (convert 0 304640 0 (s.setAin 0 { resetAin with ready := true, high := true })).source 63
         == { value := 91, valid := true })].all id = true := by
  decide +kernel

end Sys2Proof.Tests
end

section
/-!
SUPPORT. The stages of the limiter as rules: what a cap makes of a speed (R69, R70), the cap of a pair of payout limits
(R83, R84), and the torque stage (R79).
-/

namespace Sys2Proof.Machine

/-! Caps. -/

/-- A speed within a cap is left as it is. -/
theorem capped_within {e : Eval} {n : Nat} (c : Cause) (h : e.speed.natAbs ≤ n) : e.capped n c = e :=
  if_neg (Nat.not_lt.mpr h)

/-- A speed above a cap keeps its sign, takes the cap as its magnitude, and the cause is written. -/
theorem capped_above {e : Eval} {n : Nat} (c : Cause) (h : n < e.speed.natAbs) :
    e.capped n c = { e with speed := e.speed.sign * n, lower := c } := by
  unfold Eval.capped capSpeed
  rw [if_pos h, if_pos h]

/-- The cap 0 stops a moving axis. -/
theorem capped_zero_stops {e : Eval} (c : Cause) (h : e.speed ≠ 0) :
    (e.capped 0 c).speed = 0 ∧ (e.capped 0 c).lower = c := by
  rw [capped_above c (Int.natAbs_pos.mpr h)]
  exact ⟨Int.mul_zero _, rfl⟩

/-- A reverse speed above a cap becomes the cap, negated. -/
theorem capped_below_neg {e : Eval} {n : Nat} (c : Cause) (h : e.speed < 0) (k : n < e.speed.natAbs) :
    (e.capped n c).speed = -(n : Int) ∧ (e.capped n c).lower = c := by
  rw [capped_above c k, Int.sign_eq_neg_one_of_neg h]
  exact ⟨Int.neg_one_mul _, rfl⟩

/-! A pair of payout limits with a slow band: a negative speed hauls in, a positive one pays out (R83, R84). -/

section
variable {lo hi band p : Nat} {v : Int} (slow : Nat)

theorem ropeCap_haulIn_stop (h : v < 0) (k : p ≤ lo) : ropeCap lo hi band slow p v = some 0 := by
  unfold ropeCap; rw [if_pos h, if_pos k]

theorem ropeCap_haulIn_slow (h : v < 0) (k : lo < p) (l : p < lo + band) : ropeCap lo hi band slow p v = some slow := by
  unfold ropeCap; rw [if_pos h, if_neg (by omega), if_pos l]

theorem ropeCap_haulIn_free (h : v < 0) (k : lo < p) (l : lo + band ≤ p) : ropeCap lo hi band slow p v = none := by
  unfold ropeCap; rw [if_pos h, if_neg (by omega), if_neg (by omega)]

theorem ropeCap_payOut_stop (h : 0 < v) (k : hi ≤ p) : ropeCap lo hi band slow p v = some 0 := by
  unfold ropeCap; rw [if_neg (by omega), if_pos h, if_pos k]

theorem ropeCap_payOut_slow (h : 0 < v) (k : p < hi) (l : hi < p + band) : ropeCap lo hi band slow p v = some slow := by
  unfold ropeCap; rw [if_neg (by omega), if_pos h, if_neg (by omega), if_pos l]

theorem ropeCap_payOut_free (h : 0 < v) (k : p < hi) (l : p + band ≤ hi) : ropeCap lo hi band slow p v = none := by
  unfold ropeCap; rw [if_neg (by omega), if_pos h, if_neg (by omega), if_neg (by omega)]

end

/-- What a pair of payout limits leaves of a speed, by its sign and the payout (R83, R84). -/
theorem cappedBy_ropeCap {lo hi band slow p : Nat} {c : Cause} {e o : Eval}
    (ho : o = e.cappedBy (ropeCap lo hi band slow p e.speed) c) :
    (e.speed < 0 → p ≤ lo → o.speed = 0 ∧ o.lower = c)
    ∧ (e.speed < 0 → lo < p → p < lo + band → slow < e.speed.natAbs → o.speed = -(slow : Int) ∧ o.lower = c)
    ∧ (e.speed < 0 → lo < p → p < lo + band → e.speed.natAbs ≤ slow → o = e)
    ∧ (e.speed < 0 → lo < p → lo + band ≤ p → o = e)
    ∧ (0 < e.speed → hi ≤ p → o.speed = 0 ∧ o.lower = c)
    ∧ (0 < e.speed → p < hi → hi < p + band → slow < e.speed.natAbs → o.speed = slow ∧ o.lower = c)
    ∧ (0 < e.speed → p < hi → hi < p + band → e.speed.natAbs ≤ slow → o = e)
    ∧ (0 < e.speed → p < hi → p + band ≤ hi → o = e) := by
  subst ho
  refine ⟨fun h k => ?_, fun h k l m => ?_, fun h k l m => ?_, fun h k l => ?_,
    fun h k => ?_, fun h k l m => ?_, fun h k l m => ?_, fun h k l => ?_⟩
  · rw [ropeCap_haulIn_stop slow h k]
    exact capped_zero_stops c h.ne
  · rw [ropeCap_haulIn_slow slow h k l]
    exact capped_below_neg c h m
  · rw [ropeCap_haulIn_slow slow h k l]
    exact capped_within c m
  · rw [ropeCap_haulIn_free slow h k l]
    rfl
  · rw [ropeCap_payOut_stop slow h k]
    exact capped_zero_stops c h.ne'
  · rw [ropeCap_payOut_slow slow h k l]
    exact capped_below h m
  · rw [ropeCap_payOut_slow slow h k l]
    exact capped_within c m
  · rw [ropeCap_payOut_free slow h k l]
    rfl

/-! The axis-limit stage of DRAG and the torque stage. -/

/-- The axis-limit stage applies the drag envelope to DRAG, a speed of 0 included (R77, R84). -/
theorem limitStage_drag (s : State) (e : Eval) :
    limitStage .drag s e = e.cappedBy (s.dragCap e.speed) .envelope := by
  unfold limitStage
  split
  · rename_i h; exact (cappedBy_zero h _ _).symm
  · rfl

/-- A speed of 0 passes the axis-limit stage (R68). -/
theorem limitStage_zero {e : Eval} (h : e.speed = 0) (x : Axis) (s : State) : limitStage x s e = e := if_pos h

/-- The torque stage lowers the torque limit of DRAG to the tightline torque while reduction is in force (R79). -/
theorem torqueStage_lowers {s : State} {e : Eval} (h : s.tight.reduction = true)
    (k : s.act.options.tightTorque < e.torque) :
    torqueStage .drag s e = { e with torque := s.act.options.tightTorque, lower := .tightline } :=
  if_pos ⟨rfl, h, k⟩

/-- The torque stage leaves every other Reference as it is (R79). -/
theorem torqueStage_leaves {x : Axis} {s : State} {e : Eval}
    (h : x ≠ .drag ∨ s.tight.reduction = false ∨ e.torque ≤ s.act.options.tightTorque) : torqueStage x s e = e := by
  refine if_neg fun ⟨hx, hr, ht⟩ => ?_
  rcases h with h | h | h
  · exact h hx
  · rw [h] at hr; cases hr
  · exact absurd ht (Nat.not_lt.mpr h)

end Sys2Proof.Machine
end

section
/-!
SUPPORT. What an arrival leaves (R9, R23), and the way of a Reference from IN to the limiter (R8 to R10).
-/

namespace Sys2Proof.Machine

/-! Arrivals. -/

theorem refuse_kept (r : Refused) (s : State) : TripKept s (refuse r s) := by constructor <;> rfl

theorem prepConfirmed_kept (s : State) : TripKept s (prepConfirmed s) := by
  unfold prepConfirmed
  split
  · exact (changeMode_kept .parked s).trans (refuse_kept ..)
  · exact changeMode_kept .walking s

theorem prepRetest_kept (s : State) : TripKept s (prepRetest s) := by
  have timer : ∀ t, TripKept s { s with walk := { s.walk with tConfirm := t } } := fun t => by constructor <;> rfl
  unfold prepRetest
  repeat' split
  all_goals first | exact .refl s | exact prepConfirmed_kept s | exact timer _

theorem skewAgain_kept (x : Axis) (s : State) : TripKept s (skewAgain x s) := by
  unfold skewAgain
  split
  · exact feed_kept ..
  · exact .refl s

/-- What the return of a DRIVE entry to FRESH leaves (R23, R33, R108). -/
theorem driveChange_fresh_kept (e : Fin 16) (x : Option Axis) (s : State) : TripKept s (driveChange e x .fresh s) := by
  have h : TripKept s (onAxis x skewAgain s) := by
    cases x with
    | none => exact .refl s
    | some x => exact skewAgain_kept x s
  exact h.trans (initTest_kept _)

/-- What an entry's return to FRESH leaves; no sensor value is dropped by it (R23). -/
theorem freshnessChange_fresh_kept (e : Fin 16) {old : Fresh} (h : old ≠ .fresh) (s : State) :
    TripKept s (freshnessChange e old .fresh s) := by
  unfold freshnessChange
  dsimp only
  rw [if_neg h]
  have fed : TripKept s (feed (freshSource e) Fresh.fresh.code true none s) := feed_kept ..
  have driven := fed.trans (driveChange_fresh_kept e (s.act.stations[e]).axis _)
  split <;> split
  · exact driven.trans (prepRetest_kept _)
  · exact fed.trans (prepRetest_kept _)
  · exact driven
  · exact fed

/-- An arrival leaves the forward queue (R9, R22, R23). -/
theorem arrival_fwd (e : Fin 16) (r : StationRun) (seq : Byte) (s : State) :
    (arrival e r seq s).ring.fwd = s.ring.fwd := by
  have gap : (if isGap r seq then bump .seqGaps s else s).ring.fwd = s.ring.fwd := by
    split
    · exact bump_fwd ..
    · rfl
  unfold arrival
  dsimp only
  split
  · exact gap
  · rename_i h
    exact (freshnessChange_fresh_kept e h _).fwd.trans gap

theorem heard_fwd (s : State) : (heard s).ring.fwd = s.ring.fwd := (heard_kept s).fwd

/-- A frame taken at IN finds the forward queue as it was when it is dispatched (R8, R9). -/
@[simp] theorem received_fwd (f : Frame) (s : State) : (received f s).ring.fwd = s.ring.fwd := by
  unfold received
  split
  · exact (arrival_fwd ..).trans (heard_fwd s)
  · exact heard_fwd s

/-! The way to the limiter. -/

/-- No general call is a frame of another kind than a Management Request (R10). -/
theorem takesGeneralCall_of_kind {f : Frame} (h : f.kind ≠ 5#4) (s : State) : s.takesGeneralCall f = false := by
  unfold State.takesGeneralCall
  rw [beq_eq_false_iff_ne.mpr h]
  rfl

/-- A Reference that is not addressed to the M4 is dispatched to the limiter (R10). -/
theorem dispatch_reference {f : Frame} {r : Ref} {s : State} (hk : f.kind = 1#4) (hr : parseRef f.payload = some r)
    (ha : s.addressed f = false) : dispatch f s = limit f r s := by
  unfold State.addressed at ha
  unfold dispatch
  rw [ha, takesGeneralCall_of_kind (by rw [hk]; decide)]
  show passing f s = _
  unfold passing
  rw [hk, hr]
  rfl

/-- A REFERENCE command whose frame passes R8 and R9, and is not addressed to the M4, is handed to the limiter in the
state in which it is dispatched (R8 to R10). -/
theorem exec_reference {h : Header} {w : RefWire} {r : Ref} {s : State}
    (hr : parseRef (refFrame h w).payload = some r) (hp : s.passes (refFrame h w) = true)
    (ha : (received (refFrame h w) s).addressed (refFrame h w) = false) :
    exec (.reference h w) s = .next (finish (limit (refFrame h w) r (received (refFrame h w) s))) := by
  rw [exec_row (i := .reference h w) rfl, takeFrame_passes hp, dispatch_reference rfl hr ha]

/-! References without tables (R71). -/

/-- A two-byte field is sent high byte first (R3, R191). -/
theorem encNat_half (v : Half) : encNat 2 v.toNat = Half.bytes v := by
  have hi : byte (v.toNat / 256) = v.extractLsb' 8 8 := by
    apply BitVec.eq_of_toNat_eq
    simp [byte, BitVec.extractLsb'_toNat, Nat.shiftRight_eq_div_pow]
  have lo : byte v.toNat = v.extractLsb' 0 8 := by
    apply BitVec.eq_of_toNat_eq
    simp [byte, BitVec.extractLsb'_toNat]
  show [byte (v.toNat / 256), byte (v.toNat / 1)] = [v.extractLsb' 8 8, v.extractLsb' 0 8]
  rw [Nat.div_one, hi, lo]

/-- The axis code is the byte that names the axis (R4). -/
theorem byte_axisCode {b : Byte} {x : Axis} (h : AxisNamed b x) : byte (axisCode x) = b := by
  rcases h with ⟨rfl, rfl⟩ | ⟨rfl, rfl⟩ | ⟨rfl, rfl⟩ | ⟨rfl, rfl⟩ | ⟨rfl, rfl⟩ <;> rfl

/-- What the stages leave of a Reference while the tables are not valid: speed 0, HOLD, its torque limit, cause INIT
(R71). -/
def initEval (r : Ref) : Eval := { speed := 0, torque := r.torque, brake := 0, block := some .init, lower := .none }

theorem limit_of_no_tables {s : State} (h : s.tables.valid = false) (f : Frame) (r : Ref) :
    limit f r s = forward { f with payload := evalPayload r (initEval r) } f.payload s := by
  unfold limit
  rw [h]
  rfl

/-- The payload of a Reference forwarded while the tables are not valid, in the bytes it arrived with (R71). -/
theorem evalPayload_initEval {w : RefWire} {r : Ref} (h : RefReads w r) :
    evalPayload r (initEval r)
      = [w.axis, 0#8] ++ Half.bytes w.lever ++ [0#8, 0#8] ++ Half.bytes w.torque ++ [1#8] := by
  obtain ⟨axis, -, lever, -, torque, -⟩ := h
  unfold evalPayload initEval
  dsimp only
  rw [byte_axisCode axis, lever, torque, encNat_half]
  rfl

/-- Forwarding a frame at the end of a command touches the ring interface and the notice marks alone (R12, R18). -/
theorem finish_forward_onlyRing (f : Frame) (taken : List Byte) (s : State) :
    OnlyRing s (finish (forward f taken s)) := by
  unfold OnlyRing
  rw [(finish_kept _).rest, forward_rest]

end Sys2Proof.Machine
end

section
/-!
The obligations of chapter 4 on References without tables, the drag envelope and the torque stage.
-/

namespace Sys2Proof.Proofs

open Sys2Proof.Machine

/-- Settles O11: the limiter forwards every Reference with the evaluation of R71, in the state of its dispatch. -/
theorem referencesWithoutTables : Obligations.ReferencesWithoutTables := by
  rintro h w s f r rfl hr hp ha ht
  have reads : RefReads w r := (parseRef_fields w r).mp hr
  refine ⟨_, exec_reference hr hp ha, ?_, fun room => ?_, fun full => ?_⟩
  all_goals rw [limit_of_no_tables ht, evalPayload_initEval reads]
  · exact finish_forward_onlyRing ..
  · rw [finish_fwd, forward_fwd (by rw [received_fwd]; exact room), received_fwd]
  · rw [forward_full (by rw [received_fwd]; exact full)]
    exact ⟨by rw [finish_fwd, bump_fwd, received_fwd], by rw [finish_counter, bump_counter_same]⟩

/-- Settles O16: DRAG is capped by the drag globals and the DRAG feedback record, which reads no HOIST feedback. -/
theorem dragEnvelope : Obligations.DragEnvelope := by
  rintro s e o g p rfl rfl rfl
  obtain ⟨haulInStop, haulInSlow, haulInWithin, haulInFree, payOutStop, payOutSlow, payOutWithin, payOutFree⟩ :=
    cappedBy_ropeCap (limitStage_drag s e)
  refine ⟨haulInStop, haulInSlow, haulInWithin, haulInFree, payOutStop, payOutSlow, payOutWithin, payOutFree,
    fun h => limitStage_zero h .drag s, fun fb => ?_⟩
  rw [limitStage_drag, limitStage_drag]
  rfl

/-- Settles O19: the torque stage lowers DRAG alone, while tightline reduction is in force. -/
theorem torqueStage : Obligations.TorqueStage := by
  rintro x s e o rfl
  refine ⟨?_, ?_, fun h => torqueStage_leaves (.inl h)⟩
  · rintro rfl reduced above
    exact torqueStage_lowers reduced above
  · rintro rfl h
    exact torqueStage_leaves (.inr h)

end Sys2Proof.Proofs
end

section
/-!
SUPPORT. The swing zones as rules: the cap of one zone by its kind and the side of the angle (R93 to R96), the smallest
of the caps the zones give (R93), and the axis-limit stage of SWING (R77).
-/

namespace Sys2Proof.Machine

/-! The cap of one zone. -/

section
variable {z : ZoneCfg} {a : Nat} {v : Int}

/-- An unused zone gives no cap (R93). -/
theorem zoneCap_unused (h : z.kind = .unused) : zoneCap z a v = none := by
  unfold zoneCap; rw [h]

/-- Inside a SLOW zone the cap is its slow speed, whatever the direction of motion (R96). -/
theorem zoneCap_slow_inside (h : z.kind = .slow) (k : z.inside a = true) : zoneCap z a v = some z.slow := by
  unfold zoneCap; rw [h]; exact if_pos k

/-- Inside a NO_ENTRY zone the cap is that of the nearer edge (R95). -/
theorem zoneCap_noEntry_inside (h : z.kind = .noEntry) (k : z.inside a = true) :
    zoneCap z a v = some (noEntryCap z a v) := by
  unfold zoneCap; rw [h]; exact if_pos k

/-- Outside a zone in use, of either kind, the cap is that of the approach (R94). -/
theorem zoneCap_outside (h : z.kind ≠ .unused) (k : z.inside a = false) : zoneCap z a v = approachCap z a v := by
  have out : ¬z.inside a = true := Bool.eq_false_iff.mp k
  unfold zoneCap
  cases hz : z.kind with
  | unused => exact absurd hz h
  | noEntry => exact if_neg out
  | slow => exact if_neg out

/-- Nearer the end edge, clockwise motion leads out and the other way deeper in (R95). -/
theorem noEntryCap_end_nearer (h : angleDiff z.stop a < angleDiff a z.start) :
    noEntryCap z a v = if 0 < v then z.slow else 0 := if_pos h

/-- Nearer the start edge, clockwise motion leads deeper in and the other way out (R95). -/
theorem noEntryCap_start_nearer (h : angleDiff a z.start < angleDiff z.stop a) :
    noEntryCap z a v = if 0 < v then 0 else z.slow := (if_neg h.asymm).trans (if_pos h)

/-- With no nearer edge both directions lead out (R95). -/
theorem noEntryCap_no_nearer (h : angleDiff a z.start = angleDiff z.stop a) : noEntryCap z a v = z.slow :=
  (if_neg h.not_gt).trans (if_neg h.not_lt)

/-- Clockwise motion is slowed within the approach band before the start edge (R92, R94). -/
theorem approachCap_clockwise (h : 0 < v) :
    approachCap z a v = if angleDiff z.start a ≤ z.band then some z.slow else none := by
  unfold approachCap; rw [if_pos h]

/-- Counter-clockwise motion is slowed within the approach band before the end edge (R92, R94). -/
theorem approachCap_counterclockwise (h : v < 0) :
    approachCap z a v = if angleDiff a z.stop ≤ z.band then some z.slow else none := by
  unfold approachCap; rw [if_neg h.asymm]

end

/-! The smallest of the caps. -/

theorem minCap_none (c : Option Nat) : minCap c none = c := by cases c <;> rfl

theorem minCap_assoc (a b c : Option Nat) : minCap (minCap a b) c = minCap a (minCap b c) := by
  cases a with
  | none => rfl
  | some a =>
    cases b with
    | none => rfl
    | some b =>
      cases c with
      | none => rfl
      | some c => exact congrArg some (Nat.min_assoc a b c)

/-- The least of a list with one more cap in front. -/
theorem min?_cons_eq_minCap (n : Nat) (l : List Nat) : (n :: l).min? = minCap (some n) l.min? := by
  rw [List.min?_cons]
  cases l.min? <;> rfl

/-- Folding `minCap` over a list keeps the smallest of the caps its members give. -/
theorem foldl_minCap {α : Type} (f : α → Option Nat) (l : List α) : ∀ c,
    l.foldl (fun c z => minCap c (f z)) c = minCap c (l.filterMap f).min? := by
  induction l with
  | nil => exact fun c => (minCap_none c).symm
  | cons z l ih =>
    intro c
    rw [List.foldl_cons, ih]
    cases hz : f z with
    | none => rw [List.filterMap_cons_none hz, minCap_none]
    | some n => rw [List.filterMap_cons_some hz, min?_cons_eq_minCap, minCap_assoc]

/-- The caps the zones give for a speed, at the angle of the SWING feedback record (R93). -/
def State.zoneCaps (s : State) (v : Int) : List Nat :=
  s.act.zones.toList.filterMap fun z => zoneCap z s.feedback.swing.position v

theorem mem_zoneCaps {s : State} {v : Int} {n : Nat} :
    n ∈ s.zoneCaps v ↔ ∃ i : Fin 8, zoneCap s.act.zones[i] s.feedback.swing.position v = some n := by
  unfold State.zoneCaps
  rw [List.mem_filterMap]
  constructor
  · rintro ⟨z, hz, hn⟩
    obtain ⟨i, hi, rfl⟩ := Vector.mem_iff_getElem.mp (Vector.mem_toList_iff.mp hz)
    exact ⟨⟨i, hi⟩, hn⟩
  · rintro ⟨i, hn⟩
    exact ⟨_, Vector.mem_toList_iff.mpr (Vector.getElem_mem i.isLt), hn⟩

/-- The cap applied is the least of the caps the zones give (R93). -/
theorem swingCap_eq_min? (s : State) (v : Int) : s.swingCap v = (s.zoneCaps v).min? := foldl_minCap _ _ none

/-- A cap that some zone gives and no zone undercuts is the one applied (R93). -/
theorem swingCap_of_smallest {s : State} {v : Int} {n : Nat}
    (given : ∃ i : Fin 8, zoneCap s.act.zones[i] s.feedback.swing.position v = some n)
    (least : ∀ i : Fin 8, ∀ m, zoneCap s.act.zones[i] s.feedback.swing.position v = some m → n ≤ m) :
    s.swingCap v = some n := by
  rw [swingCap_eq_min?, List.min?_eq_some_iff]
  refine ⟨mem_zoneCaps.mpr given, fun m hm => ?_⟩
  obtain ⟨i, hi⟩ := mem_zoneCaps.mp hm
  exact least i m hi

/-- Where no zone gives a cap, none is applied (R93). -/
theorem swingCap_of_no_cap {s : State} {v : Int}
    (h : ∀ i : Fin 8, zoneCap s.act.zones[i] s.feedback.swing.position v = none) : s.swingCap v = none := by
  rw [swingCap_eq_min?, List.min?_eq_none_iff, List.eq_nil_iff_forall_not_mem]
  intro n hn
  obtain ⟨i, hi⟩ := mem_zoneCaps.mp hn
  rw [h i] at hi
  cases hi

/-! The axis-limit stage of SWING. -/

/-- The axis-limit stage applies the smallest zone cap to SWING, a speed of 0 included (R77, R93). -/
theorem limitStage_swing (s : State) (e : Eval) :
    limitStage .swing s e = e.cappedBy (s.swingCap e.speed) .zone := by
  unfold limitStage
  split
  · rename_i h; exact (cappedBy_zero h _ _).symm
  · rfl

/-- A speed above a cap takes the cap as its magnitude and does not change its direction (R69). -/
theorem capped_above_keeps_direction {e : Eval} {n : Nat} (c : Cause) (h : n < e.speed.natAbs) :
    (e.capped n c).speed.natAbs = n ∧ 0 ≤ (e.capped n c).speed * e.speed ∧ (e.capped n c).lower = c := by
  have moving : e.speed ≠ 0 := Int.natAbs_pos.mp (Nat.zero_lt_of_lt h)
  rw [capped_above c h]
  refine ⟨?_, ?_, rfl⟩
  · show (e.speed.sign * (n : Int)).natAbs = n
    rw [Int.natAbs_mul, Int.natAbs_sign_of_ne_zero moving, Nat.one_mul, Int.natAbs_natCast]
  · show 0 ≤ e.speed.sign * (n : Int) * e.speed
    rw [Int.mul_right_comm, Int.sign_mul_self]
    exact Int.mul_nonneg (Int.natCast_nonneg _) (Int.natCast_nonneg _)

end Sys2Proof.Machine
end

section
/-!
The obligation of chapter 5 on the swing zones.
-/

namespace Sys2Proof.Proofs

open Sys2Proof.Machine

/-- Settles O17: each zone's cap by its kind and the side of the angle; the smallest of the caps is applied to SWING. -/
theorem swingZones : Obligations.SwingZones := by
  refine ⟨fun z a v _ => ⟨zoneCap_unused, zoneCap_slow_inside, fun hk hi => ?_, fun hk hi => ?_⟩,
    inside_iff, angleDiff_mod, ?_⟩
  · rw [zoneCap_noEntry_inside hk hi]
    exact ⟨fun h => congrArg some (noEntryCap_end_nearer h), fun h => congrArg some (noEntryCap_start_nearer h),
      fun h => congrArg some (noEntryCap_no_nearer h)⟩
  · rw [zoneCap_outside hk hi]
    exact ⟨approachCap_clockwise, approachCap_counterclockwise⟩
  · rintro s e o rfl
    refine ⟨fun h => limitStage_zero h .swing s, fun _ n given least => ?_, fun _ h => ?_⟩
    · rw [limitStage_swing, swingCap_of_smallest given least]
      exact ⟨capped_above_keeps_direction .zone, capped_within .zone⟩
    · rw [limitStage_swing, swingCap_of_no_cap h]
      rfl

end Sys2Proof.Proofs
end

section
/-!
SUPPORT. What every command keeps, proved once for every invariant. `Keeps` lists the elementary operations on the parts
of the state the invariants read; one walk over the machine's operations shows that a property kept by those is kept by
every command.
-/

namespace Sys2Proof.Machine

/-- Two states agree in every part that an invariant reads. -/
structure SameView (s t : State) : Prop where
  mode : t.mode = s.mode
  field : t.trip.field = s.trip.field
  brake : t.trip.brake = s.trip.brake
  queue : t.trip.queue = s.trip.queue
  held : t.heldTrips = s.heldTrips
  states : ∀ p : Fin 48, (t.alarm.points[p]).state = (s.alarm.points[p]).state
  list : t.alarm.list = s.alarm.list
  active : t.act = s.act
  recs : t.attrs.recs = s.attrs.recs
  fwd : t.ring.fwd = s.ring.fwd
  consec : t.ring.consec = s.ring.consec
  ins : t.ring.ins = s.ring.ins
  reserved : t.ring.reserved = s.ring.reserved
  store : t.store.state = s.store.state
  answer : t.store.answer = s.store.answer
  skew : t.walk.skew = s.walk.skew
  pending : t.pending = s.pending

theorem SameView.refl (s : State) : SameView s s := by constructor <;> intros <;> rfl

theorem SameView.trans {a b c : State} (h : SameView a b) (k : SameView b c) : SameView a c where
  mode := k.mode.trans h.mode
  field := k.field.trans h.field
  brake := k.brake.trans h.brake
  queue := k.queue.trans h.queue
  held := k.held.trans h.held
  states p := (k.states p).trans (h.states p)
  list := k.list.trans h.list
  active := k.active.trans h.active
  recs := k.recs.trans h.recs
  fwd := k.fwd.trans h.fwd
  consec := k.consec.trans h.consec
  ins := k.ins.trans h.ins
  reserved := k.reserved.trans h.reserved
  store := k.store.trans h.store
  answer := k.answer.trans h.answer
  skew := k.skew.trans h.skew
  pending := k.pending.trans h.pending

/-- A record of wear or level as `setNorm` stores it (R173). -/
def normed (r : AttrRun) (norm : Nat) : AttrRun :=
  { r with norm := norm, worst := if norm = r.norm then r.worst else min r.worst norm }

/-- The wear and level records with one replaced. -/
def putAttr (i : Fin 13) (r : AttrRun) (s : State) : State :=
  { s with attrs := { s.attrs with recs := s.attrs.recs.set i r } }

/-- Whether a change of mode is one between modes in which the machine serves, or the entry to PARKED from INIT (R31,
R33). Trips and their reset aside, no mode changes otherwise. -/
def LegalChange (old new : Mode) : Prop :=
  serving new = true ∧ (serving old = true ∨ (old = .init ∧ new = .parked))

/-- A property `P` between commands, with a property `H` while a trip event or a mode change is carried out (R31, R159),
that the elementary operations keep. -/
structure Keeps (P H : State → Prop) : Prop where
  weak : ∀ {s}, P s → H s
  view : ∀ {s t}, SameView s t → P s → P t
  heldView : ∀ {s t}, SameView s t → H s → H t
  ready : ∀ {s}, H s → s.heldTrips = [] → P s
  cleared : ∀ {s}, H s → s.mode = .tripped → P { s with heldTrips := [] }
  hold : ∀ {s} t, H s → H { s with heldTrips := s.heldTrips ++ [t] }
  point : ∀ {s} p st m timer, (st = .shelved → (s.act.points[p]).cls ≠ .trip) → P s → P (setPoint p st m timer s)
  heldPoint : ∀ {s} p st m timer, st ≠ .shelved → H s → H (setPoint p st m timer s)
  trip : ∀ {s} t ts, H s → H (takeTrip t { s with heldTrips := ts })
  steps : ∀ {s} new, LegalChange s.mode new → P s → H (modeSteps new s)
  resetSteps : ∀ {s}, s.mode = .tripped → P s → H (energise (modeSteps .parked s))
  withdraw : ∀ {s}, P s → P (withdrawTest s)
  forward : ∀ {s} f taken, P s → P (forward f taken s)
  choose : ∀ {s}, P s → P (choose s)
  sent : ∀ {s}, P s → P (countSent s)
  testRef : ∀ {s} e, e.cls = .testRef → P s → P (handTestRef e s)
  wear : ∀ {s} i r, r.norm = (s.attrs.recs[i]).norm → r.worst = (s.attrs.recs[i]).worst → P s →
    P (putAttr i (normed r (s.workedNorm i r)) s)
  renewed : ∀ {s} i, P s → P (putAttr i lostAttr s)
  consumed : ∀ {s} n, P s → P { s with trip := { s.trip with queue := s.trip.queue.drop n } }

theorem keeps_foldl {β : Type} {P : State → Prop} {f : State → β → State} (h : ∀ s b, P s → P (f s b)) (l : List β) :
    ∀ s, P s → P (l.foldl f s) := by
  induction l with
  | nil => exact fun _ k => k
  | cons b l ih => exact fun s k => ih _ (h s b k)

namespace Keeps

variable {P H : State → Prop} (K : Keeps P H)
include K

/-! Points and trips. -/

theorem activatePoint (trig : Option (List Byte)) (p : Fin 48) {s : State} (h : H s) :
    H (activatePoint trig p s) := by
  unfold Machine.activatePoint
  have active := K.heldPoint p .activeUnack false none nofun h
  dsimp only
  split
  · exact K.hold _ active
  · exact active

theorem evalPoint (trig : Option (List Byte)) (p : Fin 48) {s : State} (h : H s) : H (evalPoint trig p s) := by
  have moved : ∀ st m timer, st ≠ .shelved → H (setPoint p st m timer s) := fun st m timer k => K.heldPoint p st m timer k h
  have rest : s.restState p ≠ .shelved := by unfold State.restState; split <;> nofun
  unfold Machine.evalPoint
  dsimp only
  repeat' split
  all_goals first
    | exact h
    | exact K.activatePoint trig p h
    | exact moved _ _ _ rest
    | exact moved _ _ _ nofun

theorem tripped_drainTrips (n : Nat) : ∀ {s}, H s → s.mode = .tripped → P (drainTrips n s) := by
  induction n with
  | zero => exact fun h m => K.cleared h m
  | succ n ih =>
    intro s h m
    unfold drainTrips
    split
    · rename_i e; exact K.ready h e
    · exact ih (K.trip _ _ h) (takeTrip_mode ..)

/-- The held trips taken: what held during the event holds between commands again. -/
theorem drain {s : State} (h : H s) : P (drain s) := by
  show P (drainTrips (255 + 1) s)
  unfold drainTrips
  split
  · rename_i e; exact K.ready h e
  · exact K.tripped_drainTrips 255 (K.trip _ _ h) (takeTrip_mode ..)

theorem handTrip (t : TripIn) {s : State} (h : P s) : P (handTrip t s) := K.drain (K.hold t (K.weak h))

theorem changeMode {new : Mode} {s : State} (legal : LegalChange s.mode new) (h : P s) : P (changeMode new s) :=
  K.drain (K.steps new legal h)

/-! Source updates. -/

theorem takeUpdate (u : Update) {s : State} (h : P s) : P (takeUpdate u s) := by
  refine keeps_foldl (fun s p k => K.drain (K.evalPoint u.trig p (K.weak k))) _ _ ?_
  exact K.view (by constructor <;> intros <;> rfl) h

theorem takeUpdates (n : Nat) : ∀ {s}, P s → P (takeUpdates n s) := by
  induction n with
  | zero => exact fun h => h
  | succ n ih =>
    intro s h
    unfold Machine.takeUpdates
    split
    · exact ih (K.takeUpdate _ (K.view (by constructor <;> intros <;> rfl) h))
    · exact h

theorem feedAll (us : List Update) {s : State} (h : P s) : P (feedAll us s) := by
  have waiting : P { s with updates := some us } := K.view (by constructor <;> intros <;> rfl) h
  exact K.view (by constructor <;> intros <;> rfl) (K.takeUpdates 256 waiting)

theorem feed (code : Nat) (v : Int) (ok : Bool) (trig : Option (List Byte)) {s : State} (h : P s) :
    P (feed code v ok trig s) := K.feedAll _ h

/-! Modes. -/

theorem oweStatus {s : State} (h : P s) : P (oweStatus s) := K.view (by constructor <;> intros <;> rfl) h

theorem refuse (r : Refused) {s : State} (h : P s) : P (refuse r s) := K.view (by constructor <;> intros <;> rfl) h

theorem setSlot (v : Option Slot) {s : State} (h : P s) : P (setSlot v s) :=
  K.view (by constructor <;> intros <;> rfl) h

theorem setChan (c : Chan) (ch : Channel) {s : State} (h : P s) : P (s.setChan c ch) :=
  K.view (by constructor <;> intros <;> rfl) h

theorem updateReason {s : State} (h : P s) : P (updateReason s) := by
  unfold Machine.updateReason
  split
  · exact K.view (by constructor <;> intros <;> rfl) h
  · exact h

theorem initTest {s : State} (h : P s) : P (initTest s) := by
  unfold Machine.initTest
  split
  · rename_i m
    split
    · exact K.changeMode ⟨rfl, .inr ⟨m, rfl⟩⟩ h
    · exact K.updateReason h
  · exact h

theorem parkingTest {s : State} (h : P s) : P (parkingTest s) := by
  unfold Machine.parkingTest
  split
  · rename_i m
    refine K.changeMode ⟨rfl, .inl ?_⟩ h
    rcases m.1 with m | m <;> rw [m] <;> rfl
  · exact h

theorem endTest (st : TestStatus) (c : Option Chan) {s : State} (h : P s) : P (endTest st c s) := by
  have recorded : P (endRecord st c s) := K.view (by constructor <;> intros <;> rfl) h
  unfold Machine.endTest
  dsimp only
  split
  · rename_i m
    exact K.changeMode ⟨rfl, .inl (by rw [m]; rfl)⟩ recorded
  · exact recorded

theorem prepConfirmed {s : State} (m : s.mode = .walkPrep) (h : P s) : P (prepConfirmed s) := by
  unfold Machine.prepConfirmed
  split
  · exact K.refuse _ (K.changeMode ⟨rfl, .inl (by rw [m]; rfl)⟩ h)
  · exact K.changeMode ⟨rfl, .inl (by rw [m]; rfl)⟩ h

theorem confirmTimer (v : Option Nat) {s : State} (h : P s) : P { s with walk := { s.walk with tConfirm := v } } :=
  K.view (by constructor <;> intros <;> rfl) h

theorem prepRetest {s : State} (h : P s) : P (prepRetest s) := by
  unfold Machine.prepRetest
  split
  · rename_i m
    repeat' split
    all_goals first | exact h | exact K.prepConfirmed m h | exact K.confirmTimer _ h
  · exact h

theorem confirmOut {s : State} (h : P s) : P (confirmOut s) := by
  unfold Machine.confirmOut
  split
  · rename_i m
    split
    · exact K.prepConfirmed m.1 h
    · exact K.confirmTimer _ h
  · exact h

theorem prepOut {s : State} (h : P s) : P (prepOut s) := by
  unfold Machine.prepOut
  split
  · rename_i m
    exact K.refuse _ (K.changeMode ⟨rfl, .inl (by rw [m.1]; rfl)⟩ h)
  · exact h

/-! Wear and level records. -/

theorem worked (i : Fin 13) (r : AttrRun) {s : State} (hn : r.norm = (s.attrs.recs[i]).norm)
    (hw : r.worst = (s.attrs.recs[i]).worst) (h : P s) : P (setNorm i r (s.workedNorm i r) s) := by
  have stored := K.wear i r hn hw h
  unfold setNorm
  dsimp only
  split
  · exact stored
  · exact K.feed _ _ _ _ stored

theorem renorm (i : Fin 13) {s : State} (h : P s) : P (renorm i s) := K.worked i _ rfl rfl h

theorem gain (i : Fin 13) (n : Nat) {s : State} (h : P s) : P (gain i n s) := K.worked i _ rfl rfl h

theorem measure (c : Chan) (n : Nat) {s : State} (h : P s) : P (measure c n s) := K.worked _ _ rfl rfl h

theorem renew (i : Fin 13) {s : State} (h : P s) : P (renew i s) := by
  have stored := K.renewed i h
  unfold Machine.renew
  dsimp only
  split
  · exact stored
  · exact K.feed _ _ _ _ stored

/-! Brake channels. -/

/-- A channel operation, which touches that channel's record and the Status Notice's mark alone. -/
theorem onlyChan {c : Chan} {s t : State} (o : OnlyChan c s t) (h : P s) : P t := by
  rw [o.frame]
  exact K.view (by constructor <;> intros <;> rfl) h

theorem returnToSet (c : Chan) {s : State} (h : P s) : P (returnToSet c s) := K.setChan c _ h

theorem enterSetting (c : Chan) (x : Option Axis) {s : State} (h : P s) : P (enterSetting c x s) := K.setChan c _ h

theorem beginToSet (c : Chan) {s : State} (h : P s) : P (beginToSet c s) := K.onlyChan (beginToSet_only c s) h

theorem staleSet (c : Chan) {s : State} (h : P s) : P (staleSet c s) := K.onlyChan (staleSet_only c s) h

theorem quietTest (c : Chan) {s : State} (h : P s) : P (quietTest c s) := K.onlyChan (quietTest_only c s) h

theorem writeStanding (x : Axis) (q : BrakeReq) {s : State} (h : P s) : P (writeStanding x q s) :=
  K.onlyChan (writeStanding_only x q s) h

theorem parkingSetAll {s : State} (h : P s) : P (parkingSetAll s) := by
  refine keeps_foldl (fun s c k => ?_) _ _ h
  unfold parkChannel
  split
  · exact K.returnToSet c k
  · exact K.beginToSet c k
  · exact k

theorem completeRelease (c : Chan) {s : State} (h : P s) : P (completeRelease c s) := by
  unfold Machine.completeRelease
  dsimp only
  split
  · exact K.returnToSet c h
  · exact K.setChan c _ h

theorem enterPending (c : Chan) {s : State} (h : P s) : P (enterPending c s) := by
  unfold Machine.enterPending
  dsimp only
  split
  · exact K.completeRelease c (K.setChan c _ h)
  · exact K.setChan c _ h

theorem brakeRequest (x : Axis) (q : BrakeReq) (lever : Int) {s : State} (h : P s) : P (brakeRequest x q lever s) := by
  unfold Machine.brakeRequest
  dsimp only
  repeat' split
  all_goals first | exact h | exact K.enterPending _ h | exact K.returnToSet _ h | exact K.beginToSet _ h

theorem setProveFailed (c : Chan) (v : Bool) {s : State} (h : P s) : P (setProveFailed c v s) := by
  unfold Machine.setProveFailed
  dsimp only
  split
  · exact h
  · exact K.feed _ _ _ _ (K.setChan c _ h)

theorem setReleaseTimeout (c : Chan) (v : Bool) {s : State} (h : P s) : P (setReleaseTimeout c v s) := by
  unfold Machine.setReleaseTimeout
  dsimp only
  split
  · exact h
  · exact K.feed _ _ _ _ (K.setChan c _ h)

theorem enterReleased (c : Chan) {s : State} (h : P s) : P (enterReleased c s) := by
  have flags := K.setReleaseTimeout c false (K.setProveFailed c false
    (K.setChan c { (s.brakes.get c).stopTimers with
      state := .released, releasedTime := some s.now, armed := (s.brakes.get c).standing == .releaseAutoset } h))
  unfold Machine.enterReleased
  dsimp only
  split
  · exact K.beginToSet c flags
  · exact flags

theorem reachSet (c : Chan) (b : Bool) {s : State} (h : P s) : P (reachSet c b s) := by
  unfold Machine.reachSet
  dsimp only
  refine K.initTest (K.parkingTest ?_)
  split
  · exact K.gain _ _ (K.setChan c _ h)
  · exact K.setChan c _ h

theorem enterFault (c : Chan) (trig : Option (List Byte)) {s : State} (h : P s) : P (enterFault c trig s) :=
  K.handTrip _ (K.setChan c _ h)

theorem confirmMark (c : Chan) (x : Axis) (v : Bool) {g : State → State} (hg : ∀ {s}, P s → P (g s)) {s : State}
    (h : P s) : P (confirmMark c x v g s) := by
  unfold Machine.confirmMark
  dsimp only
  split
  · exact hg (K.setChan c _ h)
  · exact K.setChan c _ h

theorem setByDrive (c : Chan) (x : Axis) {s : State} (h : P s) : P (setByDrive c x s) := by
  unfold Machine.setByDrive
  dsimp only
  split
  · exact K.reachSet c true (K.enterSetting c _ h)
  · exact K.enterSetting c _ h

theorem provingArrival (c : Chan) (n : Int) {s : State} (h : P s) : P (provingArrival c n s) := by
  unfold Machine.provingArrival
  dsimp only
  repeat' split
  all_goals first | exact h | exact K.completeRelease c (K.setChan c _ h) | exact K.setChan c _ h

theorem channelArrival (x : Axis) (trig : List Byte) {s : State} (h : P s) : P (channelArrival x trig s) := by
  unfold Machine.channelArrival
  dsimp only
  refine K.quietTest _ ?_
  repeat' split
  all_goals first
    | exact h
    | exact K.enterFault _ _ h
    | exact K.provingArrival _ _ h
    | exact K.setByDrive _ _ h
    | exact K.confirmMark _ _ _ (K.enterReleased _) h
    | exact K.confirmMark _ _ _ (K.reachSet _ _) h

theorem releaseDue (c : Chan) {s : State} (h : P s) : P (releaseDue c s) := by
  unfold Machine.releaseDue
  dsimp only
  repeat' split
  all_goals first | exact h | exact K.completeRelease c (K.setChan c _ h) | exact K.setChan c _ h

theorem proveOut (c : Chan) {s : State} (h : P s) : P (proveOut c s) := by
  unfold Machine.proveOut
  dsimp only
  split
  · exact K.setProveFailed c true (K.returnToSet c h)
  · exact h

theorem releaseOut (c : Chan) {s : State} (h : P s) : P (releaseOut c s) := by
  unfold Machine.releaseOut
  dsimp only
  split
  · exact K.setReleaseTimeout c true (K.enterSetting c none h)
  · exact h

theorem dwellOut (c : Chan) {s : State} (h : P s) : P (dwellOut c s) := by
  unfold Machine.dwellOut
  dsimp only
  split
  · exact K.enterSetting c none h
  · exact h

theorem setOut (c : Chan) {s : State} (h : P s) : P (setOut c s) := by
  unfold Machine.setOut
  dsimp only
  split
  · exact K.enterFault c none h
  · exact h

theorem autosetOut (c : Chan) {s : State} (h : P s) : P (autosetOut c s) := by
  unfold Machine.autosetOut
  dsimp only
  split
  · exact K.beginToSet c h
  · exact h

/-! Mode requests and parking. -/

theorem holdPlaced (v : Hold) {s : State} (h : P s) : P { s with ctl := { s.ctl with hold := v } } :=
  K.view (by constructor <;> intros <;> rfl) h

theorem startPark {s : State} (h : P s) : P (startPark s) := K.view (by constructor <;> intros <;> rfl) h

theorem parkWith (v : Hold) {s : State} (h : P s) : P (parkWith v s) :=
  K.parkingTest (K.parkingSetAll (K.holdPlaced v (K.setSlot _ h)))

theorem beginHomeWait {s : State} (h : P s) : P (beginHomeWait s) := by
  unfold Machine.beginHomeWait
  dsimp only
  split
  · exact K.parkWith _ (K.setSlot _ h)
  · exact K.setSlot _ h

theorem homeReport {s : State} (h : P s) : P (homeReport s) := by
  unfold Machine.homeReport
  split
  · exact K.parkWith _ h
  · exact h

theorem beginDwell (t : Target) (n : Nat) {s : State} (h : P s) : P (beginDwell t n s) :=
  K.holdPlaced .none (K.setSlot _ h)

theorem requestCurrent {s : State} (h : P s) : P (requestCurrent s) := by
  unfold Machine.requestCurrent
  dsimp only
  split
  · exact K.startPark (K.holdPlaced .none (K.setSlot none h))
  · exact K.holdPlaced .none (K.setSlot none h)

theorem requestPark {s : State} (h : P s) : P (requestPark s) := by
  unfold Machine.requestPark
  repeat' split
  all_goals first | exact h | exact K.parkWith _ h | exact K.beginDwell _ _ h | exact K.beginHomeWait h

theorem enterTarget (t : Target) {s : State} (m : s.mode = .parked) (h : P s) : P (enterTarget t s) := by
  have into : ∀ {new}, serving new = true → P (Machine.changeMode new s) := fun k =>
    K.changeMode ⟨k, .inl (by rw [m]; rfl)⟩ h
  unfold Machine.enterTarget
  split
  · exact into rfl
  · exact K.prepRetest (into rfl)
  · exact h

theorem requestStart (t : Target) {s : State} (m : s.mode = .parked) (h : P s) : P (requestStart t s) := by
  unfold Machine.requestStart
  repeat' split
  all_goals first | exact h | exact K.refuse _ h | exact K.enterTarget t m h | exact K.beginDwell _ _ h

theorem modeRequest (t : Target) {s : State} (h : P s) : P (modeRequest t s) := by
  unfold Machine.modeRequest
  split
  case h_7 m => exact K.changeMode ⟨rfl, .inl (by rw [m]; rfl)⟩ h
  all_goals first
    | exact K.refuse _ h
    | exact K.requestCurrent h
    | exact K.requestPark h
    | exact K.requestStart _ (by assumption) h

theorem dwellExpired {s : State} (h : P s) : P (dwellExpired s) := by
  unfold Machine.dwellExpired
  repeat' split
  all_goals first
    | exact h
    | exact K.setSlot none (K.refuse _ h)
    | exact K.enterTarget _ (by assumption) h
    | exact K.parkWith _ h
    | exact K.beginHomeWait h

theorem leverRestart (lever : Int) {s : State} (h : P s) : P (leverRestart lever s) := by
  unfold Machine.leverRestart
  split
  · exact K.startPark h
  · exact h

theorem parkOut {s : State} (h : P s) : P (parkOut s) := by
  have stopped : P { s with ctl := { s.ctl with parkTimer := none } } := K.view (by constructor <;> intros <;> rfl) h
  unfold Machine.parkOut
  dsimp only
  repeat' split
  all_goals first | exact h | exact K.requestPark stopped | exact stopped

theorem resetTrip {s : State} (h : P s) : P (resetTrip s) := by
  unfold Machine.resetTrip
  repeat' split
  · exact K.refuse _ h
  · exact K.drain (K.resetSteps (by assumption) h)
  · exact K.refuse _ h

end Keeps
end Sys2Proof.Machine
end

section
/-!
SUPPORT. The walk over the machine's operations, continued: walking, the brake tester, the limiter, the alarm points, the
analog inputs and the ring interface's records.
-/

namespace Sys2Proof.Machine

theorem inWalking_of {P : State → Prop} {f : State → State} (hf : ∀ {s}, P s → P (f s)) {s : State} (h : P s) :
    P (inWalking f s) := by
  unfold inWalking
  split
  · exact hf h
  · exact h

theorem onAxis_of {P : State → Prop} (x : Option Axis) {f : Axis → State → State} (hf : ∀ x {s}, P s → P (f x s)) {s : State} (h : P s) :
    P (onAxis x f s) := by
  unfold onAxis
  split
  · exact hf _ h
  · exact h

theorem restState_ne_shelved (s : State) (p : Fin 48) : s.restState p ≠ .shelved := by
  unfold State.restState
  split <;> nofun

/-- A record that replaces a point's and has its state changes no point's state. -/
theorem set_state (s : State) (p : Fin 48) (r : PointRun) (q : Fin 48) (h : r.state = (s.alarm.points[p]).state) :
    ((s.alarm.points.set p r)[q]).state = (s.alarm.points[q]).state := by
  simp only [Fin.getElem_fin, Vector.getElem_set]
  split
  · rename_i e
    rw [Fin.val_inj] at e
    rw [h, e]
    rfl
  · rfl

/-- A change of the points' records that leaves their states. -/
theorem points_states (s : State) (a : Alarm) (h : ∀ q : Fin 48, (a.points[q]).state = (s.alarm.points[q]).state)
    (l : a.list = s.alarm.list) : SameView s { s with alarm := a } :=
  ⟨rfl, rfl, rfl, rfl, rfl, h, l, rfl, rfl, rfl, rfl, rfl, rfl, rfl, rfl, rfl, rfl⟩

/-- A property is kept by an arrival's work on the cams and by the reversal and the skew trip test that follow (R107,
R109, R110). In between the skew may stand above its limit. -/
def SkewKept (P : State → Prop) : Prop :=
  ∀ {s} x prior trig, P s → P (inWalking (skewTest trig) (inWalking (reversalTest x prior) (workWalk s)))

namespace Keeps

variable {P H : State → Prop} (K : Keeps P H)
include K

/-! Rope wear, the tightline check and the cams. -/

theorem ropeArrival (x : Axis) {s : State} (h : P s) : P (ropeArrival x s) := by
  unfold Machine.ropeArrival
  dsimp only
  repeat' split
  all_goals first | exact h | exact K.gain _ _ h

theorem tightTest {s : State} (h : P s) : P (tightTest s) := by
  unfold Machine.tightTest
  repeat' split
  all_goals first | exact h | exact K.view (by constructor <;> intros <;> rfl) h

theorem handSeconds {s : State} (h : P s) : P (handSeconds s) := by
  unfold Machine.handSeconds
  dsimp only
  split
  · exact K.gain _ _ (K.view (by constructor <;> intros <;> rfl) h)
  · exact h

theorem tightArrival {s : State} (h : P s) : P (tightArrival s) := K.handSeconds (K.feed _ _ _ _ (K.tightTest h))

theorem onsetOut {s : State} (h : P s) : P (onsetOut s) := by
  unfold Machine.onsetOut
  split
  · exact K.view (by constructor <;> intros <;> rfl) h
  · exact h

theorem feedSkew (trig : Option (List Byte)) {s : State} (h : P s) : P (feedSkew trig s) := K.feed _ _ _ _ h

theorem skewAgain (x : Axis) {s : State} (h : P s) : P (skewAgain x s) := by
  unfold Machine.skewAgain
  split
  · exact K.feedSkew _ h
  · exact h

theorem stepTest {s : State} (h : P s) : P (stepTest s) := by
  unfold Machine.stepTest
  split
  · split
    · dsimp only
      exact K.oweStatus (K.view (by constructor <;> intros <;> rfl)
        (K.gain walkCam _ (K.view (by constructor <;> intros <;> rfl) h)))
    · exact h
  · exact h

theorem homeTest (ph : Option Phase) {s : State} (h : P s) : P (homeTest ph s) := by
  unfold Machine.homeTest
  split
  · exact K.homeReport h
  · exact h

theorem reversalTest (x : Axis) (prior : Option Nat) {s : State} (h : P s) : P (reversalTest x prior s) := by
  have marked : ∀ v, P { s with walk := { s.walk with reversal := v } } := fun v =>
    K.view (by constructor <;> intros <;> rfl) h
  unfold Machine.reversalTest
  dsimp only
  split
  · exact marked _
  · exact K.feed _ _ _ _ (marked _)

theorem skewTest (trig : List Byte) {s : State} (h : P s) : P (skewTest trig s) := by
  unfold Machine.skewTest
  repeat' split
  all_goals first | exact h | exact K.handTrip _ h

/-- A property that the work on the cams keeps at once is kept by the tests that follow. -/
theorem skewKept (worked : ∀ {s}, P s → P (workWalk s)) : SkewKept P := fun x prior trig h =>
  inWalking_of (P := P) (K.skewTest trig) (inWalking_of (P := P) (K.reversalTest x prior) (worked h))

theorem walkArrival (T : SkewKept P) (x : Axis) (trig : List Byte) {s : State} (h : P s) :
    P (walkArrival x trig s) := by
  have progressed : P (putProgress x s) := K.view (by constructor <;> intros <;> rfl) h
  have tested := T x (s.walk.progress x) trig progressed
  have stepped := inWalking_of (P := P) K.stepTest tested
  exact K.feedSkew _ (K.prepRetest (inWalking_of (P := P) (K.homeTest _) stepped))

/-! The brake tester. -/

theorem handTest (x : Axis) (v : Int) (n : Nat) {s : State} (h : P s) : P (handTest x v n s) := by
  unfold Machine.handTest
  split
  · exact K.testRef _ rfl h
  · exact h

/-- A change of the brake tester's record alone. -/
theorem tester (t : Tester) {s : State} (h : P s) : P { s with tester := t } :=
  K.view (by constructor <;> intros <;> rfl) h

theorem periodicTest (c : Chan) {s : State} (h : P s) : P (periodicTest c s) := by
  unfold Machine.periodicTest
  dsimp only
  refine K.handTest _ _ _ ?_
  split
  · exact K.tester _ h
  · exact h

theorem finalTest (c : Chan) {s : State} (h : P s) : P (finalTest c s) := by
  unfold Machine.finalTest
  dsimp only
  refine K.handTest _ _ _ ?_
  split
  · exact K.tester _ h
  · exact h

theorem secondFinal {s : State} (h : P s) : P (secondFinal s) := by
  unfold Machine.secondFinal
  repeat' split
  all_goals first | exact h | exact K.handTest _ _ _ (K.tester _ h)

theorem beginSegment {s : State} (h : P s) : P (beginSegment s) := by
  unfold Machine.beginSegment
  repeat' split
  all_goals first | exact h | exact K.endTest _ _ h | exact K.periodicTest _ (K.tester _ h)

theorem segmentBegin {s : State} (h : P s) : P (segmentBegin s) := by
  unfold Machine.segmentBegin
  split
  · exact K.beginSegment h
  · exact h

theorem testPoll {s : State} (h : P s) : P (testPoll s) := K.segmentBegin (K.secondFinal h)

theorem acceptTest {s : State} (m : s.mode = .parked) (h : P s) : P (acceptTest s) :=
  K.segmentBegin (K.oweStatus (K.tester _ (K.changeMode ⟨rfl, .inl (by rw [m]; rfl)⟩ h)))

theorem testStart {s : State} (h : P s) : P (testStart s) := by
  unfold Machine.testStart
  split
  · exact K.acceptTest (by assumption) h
  · exact K.refuse _ h
  · exact K.refuse _ h

theorem abortTest {s : State} (h : P s) : P (abortTest s) := K.endTest _ _ (K.withdraw h)

theorem testAbort {s : State} (h : P s) : P (testAbort s) := by
  unfold Machine.testAbort
  split
  · exact K.abortTest h
  · exact h

theorem testStale (c : Chan) {s : State} (h : P s) : P (testStale c s) := by
  unfold Machine.testStale
  split
  · exact K.endTest _ _ (K.withdraw h)
  · exact h

theorem testArrival (x : Axis) {s : State} (h : P s) : P (testArrival x s) := by
  have marked := K.tester { s.tester with reached := s.tester.reached.set x true } h
  unfold Machine.testArrival
  dsimp only
  repeat' split
  · exact K.tester _ marked
  · exact marked
  · exact h

theorem recordSegment (r : SegResult) {s : State} (h : P s) : P (recordSegment r s) := K.tester _ h

theorem rampOut {s : State} (h : P s) : P (rampOut s) := by
  unfold Machine.rampOut
  repeat' split
  all_goals first | exact h | exact K.testPoll (K.endTest _ _ (K.finalTest _ (K.recordSegment _ h)))

theorem passSegment {s : State} (h : P s) : P (passSegment s) := by
  have counted := K.oweStatus (K.tester { s.tester with completed := s.tester.completed + 1 } h)
  unfold Machine.passSegment
  dsimp only
  repeat' split
  all_goals first | exact counted | exact K.endTest _ _ counted | exact K.tester _ counted

theorem endHold (c : Chan) (a : Pair Nat) {s : State} (h : P s) : P (endHold c a s) := by
  have measured := K.measure c (slipOf c (s.slipPositions c) a)
    (K.tester { s.tester with tPeriod := none, tHold := none } h)
  unfold Machine.endHold
  dsimp only
  split
  · refine K.testPoll ?_
    split
    · exact K.passSegment (K.finalTest c (K.recordSegment _ measured))
    · exact K.endTest _ _ (K.finalTest c (K.recordSegment _ measured))
  · exact measured

theorem holdOut {s : State} (h : P s) : P (holdOut s) := by
  unfold Machine.holdOut
  repeat' split
  all_goals first | exact h | exact K.endHold _ _ h

theorem periodOut {s : State} (h : P s) : P (periodOut s) := by
  unfold Machine.periodOut
  repeat' split
  all_goals first | exact h | exact K.periodicTest _ (K.tester _ h)

theorem suspendTest {s : State} (h : P s) : P (suspendTest s) := K.oweStatus (K.tester _ (K.withdraw h))

theorem testLever (x : Axis) (lever : Int) {s : State} (h : P s) : P (testLever x lever s) := by
  have written := K.tester { s.tester with levers := s.tester.levers.set x lever } h
  unfold Machine.testLever
  dsimp only
  repeat' split
  all_goals first
    | exact h | exact written | exact K.abortTest written | exact K.suspendTest written | exact K.tester _ h

theorem resumeOut {s : State} (h : P s) : P (resumeOut s) := by
  unfold Machine.resumeOut
  split
  · exact K.beginSegment (K.oweStatus (K.tester _ h))
  · exact h

theorem suspendOut {s : State} (h : P s) : P (suspendOut s) := by
  unfold Machine.suspendOut
  split
  · exact K.abortTest h
  · exact h

/-! The limiter. -/

theorem bump (c : Counter) {s : State} (h : P s) : P (bump c s) := K.view (by constructor <;> intros <;> rfl) h

theorem standingStage (r : Ref) {s : State} (h : P s) : P (standingStage r s) := by
  have standing := K.leverRestart r.lever.toInt (K.writeStanding r.axis r.brake h)
  unfold Machine.standingStage
  dsimp only
  split
  · exact K.testLever _ _ standing
  · exact standing

theorem evaluate (f : Frame) (r : Ref) {s : State} (h : P s) : P (evaluate f r s) :=
  K.forward _ _ (K.quietTest _ (K.setChan _ _ (K.brakeRequest _ _ _ h)))

theorem refuseRef {s : State} (h : P s) : P (refuseRef s) := by
  unfold Machine.refuseRef
  dsimp only
  split
  · exact K.bump _ h
  · exact K.feed _ _ _ _ (K.bump _ h)

theorem limit (f : Frame) (r : Ref) {s : State} (h : P s) : P (limit f r s) := by
  unfold Machine.limit
  dsimp only
  repeat' split
  all_goals first
    | exact K.forward _ _ h
    | exact K.bump _ (K.standingStage r h)
    | exact K.evaluate _ _ (K.standingStage r h)
    | exact K.refuseRef h

/-! The alarm points. -/

/-- A point takes a state other than SHELVED. -/
theorem pointOff {p : Fin 48} {st : PState} (k : st ≠ .shelved) (m : Bool) (t : Option Nat) {s : State} (h : P s) :
    P (setPoint p st m t s) := K.point p st m t (fun e => absurd e k) h

theorem ackPoint (p : Fin 48) {s : State} (h : P s) : P (ackPoint p s) := by
  unfold Machine.ackPoint
  dsimp only
  split
  · exact K.pointOff (by nofun) _ _ h
  · exact K.pointOff (restState_ne_shelved s p) _ _ h
  · exact h

theorem ack (id : Nat) {s : State} (h : P s) : P (ack id s) := by
  unfold Machine.ack
  split
  · exact keeps_foldl (fun _ p k => K.ackPoint p k) _ _ h
  · split
    · exact K.ackPoint _ h
    · exact h

theorem shelve (id minutes : Nat) {s : State} (h : P s) : P (shelve id minutes s) := by
  unfold Machine.shelve
  split
  · rename_i p _
    dsimp only
    split
    · exact h
    · split
      · exact K.refuse _ h
      · rename_i cls
        unfold shelvePoint
        dsimp only
        split
        · exact K.view (points_states s _ (fun q => set_state s p _ q rfl) rfl) h
        · exact K.point p .shelved _ _ (fun _ => cls) h
  · exact h

theorem unshelvePoint (p : Fin 48) {s : State} (h : P s) : P (unshelvePoint p s) := by
  unfold Machine.unshelvePoint
  split
  · exact K.pointOff (restState_ne_shelved s p) _ _ h
  · exact h

theorem unshelve (id : Nat) {s : State} (h : P s) : P (unshelve id s) := by
  unfold Machine.unshelve
  split
  · exact K.unshelvePoint _ h
  · exact h

theorem resetPointLatch (p : Fin 48) {s : State} (h : P s) : P (resetPointLatch p s) := by
  unfold Machine.resetPointLatch
  dsimp only
  split
  · split
    · exact K.pointOff (restState_ne_shelved s p) _ _ h
    · exact K.pointOff (by nofun) _ _ h
    · exact h
  · exact h

theorem resetLatched {s : State} (h : P s) : P (resetLatched s) :=
  keeps_foldl (fun _ p k => K.resetPointLatch p k) _ _ h

theorem onDelayOut (p : Fin 48) {s : State} (h : P s) : P (onDelayOut p s) := by
  unfold Machine.onDelayOut
  dsimp only
  split
  · exact K.drain (K.activatePoint none p (K.weak h))
  · exact h

theorem shelfOut (p : Fin 48) {s : State} (h : P s) : P (shelfOut p s) := by
  unfold Machine.shelfOut
  split
  · exact K.unshelvePoint p h
  · exact h

/-! The analog inputs. -/

theorem setAin (ch : Fin 4) (r : AinRun) {s : State} (h : P s) : P (s.setAin ch r) :=
  K.view (by constructor <;> intros <;> rfl) h

theorem directStep (ch : Fin 4) (raw : Nat) {s : State} (h : P s) : P (directStep ch raw s) := by
  unfold Machine.directStep
  dsimp only
  repeat' split
  all_goals first | exact h | exact K.handTrip _ (K.setAin _ _ h) | exact K.setAin _ _ h

theorem fatigueStep (ch : Fin 4) (v : Int) {s : State} (h : P s) : P (fatigueStep ch v s) := by
  unfold Machine.fatigueStep
  dsimp only
  repeat' split
  all_goals first | exact h | exact K.gain _ _ (K.setAin _ _ h) | exact K.setAin _ _ h

theorem readyConversion (ch : Fin 4) (raw : Nat) {s : State} (h : P s) : P (readyConversion ch raw s) :=
  K.fatigueStep _ _ (K.feed _ _ _ _ (K.directStep _ _ (K.setAin _ _ h)))

theorem convert (ch : Fin 4) (input reference : Int) {s : State} (h : P s) : P (convert ch input reference s) := by
  have sampled : P { s with pins := { s.pins with ain := s.pins.ain.set ch input, extRef := reference } } :=
    K.view (by constructor <;> intros <;> rfl) h
  unfold Machine.convert
  dsimp only
  split
  · exact K.readyConversion _ _ sampled
  · split
    · exact K.setAin _ _ sampled
    · exact K.initTest (K.readyConversion _ _ (K.setAin _ _ sampled))

theorem installAnalog (ch : Fin 4) (a b : AnalogCfg) {s : State} (h : P s) : P (installAnalog ch a b s) := by
  unfold Machine.installAnalog
  split
  · exact K.feed _ _ _ _ (K.setAin _ _ h)
  · exact K.setAin _ _ h

/-! Stations, feedback and sensors. -/

theorem dropSensors (e : Fin 16) {s : State} (h : P s) : P (dropSensors e s) := by
  refine keeps_foldl (fun s ch k => ?_) _ _ h
  unfold dropSensor
  dsimp only
  split
  · exact K.feed _ _ _ _ (K.view (by constructor <;> intros <;> rfl) k)
  · exact k

theorem dropAxis (x : Axis) {s : State} (h : P s) : P (dropAxis x s) :=
  K.feed _ _ _ _ (K.feed _ _ _ _ (K.feed _ _ _ _ h))

theorem lostTrip (e : Fin 16) {s : State} (h : P s) : P (lostTrip e s) := by
  unfold Machine.lostTrip
  split <;> first | exact K.handTrip _ h | exact h

theorem driveChange (e : Fin 16) (x : Option Axis) (new : Fresh) {s : State} (h : P s) : P (driveChange e x new s) := by
  unfold Machine.driveChange
  split
  · exact K.initTest (onAxis_of (P := P) x (fun x _ k => K.skewAgain x k) h)
  · exact onAxis_of (P := P) x (fun x _ k => K.testStale _ (K.staleSet _ (K.skewAgain x (K.dropAxis x k)))) h
  · exact K.lostTrip e (onAxis_of (P := P) x (fun x _ k => K.skewAgain x (K.dropAxis x k)) h)

theorem freshnessChange (e : Fin 16) (old new : Fresh) {s : State} (h : P s) : P (freshnessChange e old new s) := by
  have fed : P (Machine.feed (freshSource e) new.code true none s) := K.feed _ _ _ _ h
  have dropped : P (if old = .fresh then Machine.dropSensors e (Machine.feed (freshSource e) new.code true none s)
      else Machine.feed (freshSource e) new.code true none s) := by
    split
    · exact K.dropSensors e fed
    · exact fed
  unfold Machine.freshnessChange
  dsimp only
  generalize (if old = .fresh then Machine.dropSensors e (Machine.feed (freshSource e) new.code true none s)
      else Machine.feed (freshSource e) new.code true none s) = u at dropped ⊢
  repeat' split
  all_goals first
    | exact K.prepRetest (K.driveChange _ _ _ dropped)
    | exact K.driveChange _ _ _ dropped
    | exact K.prepRetest dropped
    | exact dropped

theorem setStation (e : Fin 16) (r : Option StationRun) {s : State} (h : P s) : P (s.setStation e r) :=
  K.view (by constructor <;> intros <;> rfl) h

theorem freshnessOut (e : Fin 16) {s : State} (h : P s) : P (freshnessOut e s) := by
  unfold Machine.freshnessOut
  dsimp only
  repeat' split
  all_goals first | exact h | exact K.freshnessChange _ _ _ (K.setStation _ _ h) | exact K.setStation _ _ h

theorem arrival (e : Fin 16) (r : StationRun) (seq : Byte) {s : State} (h : P s) : P (arrival e r seq s) := by
  have gap : P (if isGap r seq then Machine.bump .seqGaps s else s) := by
    split
    · exact K.bump _ h
    · exact h
  unfold Machine.arrival
  dsimp only
  split
  · exact K.setStation _ _ gap
  · exact K.freshnessChange _ _ _ (K.setStation _ _ gap)

theorem silenceOut {s : State} (h : P s) : P (silenceOut s) := by
  unfold Machine.silenceOut
  split
  · exact K.feed _ _ _ _ (K.view (by constructor <;> intros <;> rfl) h)
  · exact h

theorem silenceRestart {s : State} (h : P s) : P (silenceRestart s) := by
  have started : P { s with ring := { s.ring with silence := some (s.now + Config.silenceMs) } } :=
    K.view (by constructor <;> intros <;> rfl) h
  unfold Machine.silenceRestart
  dsimp only
  split
  · exact K.feed _ _ _ _ started
  · exact started

theorem axisSources (x : Axis) (trig : List Byte) {s : State} (h : P s) : P (axisSources x trig s) :=
  K.feed _ _ _ _ (K.feed _ _ _ _ (K.feed _ _ _ _ h))

theorem driveArrival (T : SkewKept P) (d : DriveStat) (trig : List Byte) {s : State} (h : P s) : P (driveArrival d trig s) := by
  have put : P (putFeedback d s) := K.view (by constructor <;> intros <;> rfl) h
  refine K.axisSources _ _ (K.ropeArrival _ (K.testArrival _ ?_))
  unfold tightReceiver walkReceiver
  have walked : P (if isCam d.axis then Machine.walkArrival d.axis trig (Machine.channelArrival d.axis trig (putFeedback d s))
      else Machine.prepRetest (Machine.channelArrival d.axis trig (putFeedback d s))) := by
    split
    · exact K.walkArrival T _ _ (K.channelArrival _ _ put)
    · exact K.prepRetest (K.channelArrival _ _ put)
  split
  · exact K.tightArrival walked
  · exact walked

theorem takeStatus (T : SkewKept P) (f : Frame) (d : DriveStat) {s : State} (h : P s) : P (takeStatus f d s) := by
  unfold Machine.takeStatus
  refine K.forward _ _ ?_
  split
  · exact K.driveArrival T _ _ h
  · exact h

theorem reportArrival (e : Fin 16) (ps : List (Fin 16 × Int)) {s : State} (h : P s) : P (reportArrival e ps s) := by
  refine K.prepRetest (keeps_foldl (fun _ _ k => K.feed _ _ _ _ k) _ _ ?_)
  exact keeps_foldl (fun _ _ k => K.view (by constructor <;> intros <;> rfl) k) _ _ h

theorem takeReport (f : Frame) (ps : List (Fin 16 × Int)) {s : State} (h : P s) : P (takeReport f ps s) := by
  unfold Machine.takeReport
  dsimp only
  refine K.forward _ _ ?_
  repeat' split
  all_goals first | exact h | exact K.reportArrival _ _ h

end Keeps
end Sys2Proof.Machine
end

section
/-!
SUPPORT. The walk over the machine's operations, ended: the store, the Management Requests, frames, start-up and every
command. `StepKeeps` adds to `Keeps` what concerns the answers that are owed, the tables and the resets.
-/

namespace Sys2Proof.Machine

/-- A property `P` between commands, with `A` while a request's answer is reserved (R11), that the operations on answers,
tables and the store keep, and the resets. -/
structure StepKeeps (P H A AH : State → Prop) : Prop where
  base : Keeps P H
  admitted : Keeps A AH
  skew : SkewKept P
  reserve : ∀ {s} f, P s → 2 ≤ s.freeCount → A (takeArrival f s)
  answer : ∀ {s} rq st results b, A s → P (answer rq st results b s)
  commit : ∀ {s} rq, s.store.state = .idle → A s → P (beginCommit rq s)
  save : ∀ {s} rq, s.store.state = .idle → A s → P (beginSave (some rq) s)
  autosave : ∀ {s}, P s → P (autosave s)
  committed : ∀ {s} readBack, P s → P (commitDone readBack s)
  saved : ∀ {s} readBack, P s → P (saveDone readBack s)
  build : ∀ {s}, P s → P (buildOne s)
  install : ∀ {s}, s.mode = .init ∨ s.mode = .parked → A s →
    A (installPoints (installStations s.act
      { s with tables := { s.tables with active := s.tables.staging, valid := true, committed := false } }))
  volatile : ∀ {s} straps, P s → P (volatileReset straps s)
  keep : ∀ {s v}, P s → P v → P (keepOver s v)
  load : ∀ {s}, Settling s → P s → P (startPoints (loadAttrs (loadTables s)))
  reload : ∀ {s}, Settling s → P s → P (startPoints (keepAttrs (loadTables s)))

theorem storeIdle_of {s : State} (h : ¬s.storeBusy = true) : s.store.state = .idle := by
  unfold State.storeBusy at h
  simpa using h

namespace Keeps

variable {P H : State → Prop} (K : Keeps P H)
include K

/-! Requests, less their answers. -/

theorem writeTable (t e : Nat) (rest : List Byte) {s : State} (h : P s) : P (writeTable t e rest s).2 := by
  unfold Machine.writeTable
  repeat' split
  all_goals first | exact h | exact K.view (by constructor <;> intros <;> rfl) h

theorem consume (n : Nat) {s : State} (h : P s) : P (consume n s) := by
  have dropped : P { { s with trip := { s.trip with queue := s.trip.queue.drop n } } with
      trip := { s.trip with queue := s.trip.queue.drop n, notStored := if (s.trip.queue.drop n).isEmpty then 0 else s.trip.notStored }
      statusOwed := s.statusOwed || decide ((s.trip.queue.drop n).length ≠ s.trip.queue.length
        ∨ (if (s.trip.queue.drop n).isEmpty then 0 else s.trip.notStored) ≠ s.trip.notStored) } :=
    K.view (by constructor <;> intros <;> rfl) (K.consumed n h)
  have fed := fun us => K.feedAll us dropped
  unfold Machine.consume
  dsimp only
  split
  · exact K.initTest (fed _)
  · exact fed _

theorem countersRead (p : Nat) (c : Bool) {s : State} (h : P s) : P (countersRead p c s) := by
  have read : ∀ v w, P { s with ring := { s.ring with snapshot := v, counters := w } } := fun v w =>
    K.view (by constructor <;> intros <;> rfl) h
  unfold Machine.countersRead
  dsimp only
  repeat' split
  all_goals first | exact h | exact K.feed _ _ _ _ (read _ _) | exact read _ _

theorem installSource (old : TableSet) (e : Fin 16) {s : State} (h : P s) : P (installSource old e s) := by
  unfold Machine.installSource
  repeat' split
  all_goals first | exact h | exact K.feed _ _ _ _ h

/-- The running states of the entries under new tables, and what those that leave FRESH hand on (R21). -/
theorem installStations (old : TableSet) {s : State} (h : P s) : P (installStations old s) := by
  refine keeps_foldl (fun s e k => ?_) _ _ (keeps_foldl (fun s e k => ?_) _ _ h)
  · exact keeps_foldl (fun s x k => K.skewAgain x (K.dropAxis x k)) _ _ (K.dropSensors e k)
  · unfold installStation
    dsimp only
    split
    · exact K.setStation _ _ k
    · exact k

/-! The end of start-up. -/

theorem firstUpdates {s : State} (h : P s) : P (firstUpdates s) := by
  unfold Machine.firstUpdates
  dsimp only
  refine K.feed _ _ _ _ (K.feed _ _ _ _ ?_)
  refine keeps_foldl (fun _ _ k => K.feed _ _ _ _ k) _ _ (keeps_foldl (fun _ _ k => K.feed _ _ _ _ k) _ _ ?_)
  refine keeps_foldl (fun _ _ k => K.feed _ _ _ _ k) _ _ (K.feed _ _ _ _ (K.feed _ _ _ _ ?_))
  refine keeps_foldl (fun s e k => ?_) _ _ h
  unfold feedStation
  split <;> exact K.feed _ _ _ _ k

theorem startMinute {s : State} (h : P s) : P (startMinute s) := K.view (by constructor <;> intros <;> rfl) h

theorem endStartUp {s : State} (h : P (startPoints s)) : P (endStartUp s) := by
  rw [endStartUp_eq]
  exact K.oweStatus (K.initTest (K.updateReason (K.startMinute (K.firstUpdates h))))

end Keeps

namespace StepKeeps

variable {P H A AH : State → Prop} (K : StepKeeps P H A AH)
include K

/-! The store. -/

theorem minuteOut {s : State} (h : P s) : P (minuteOut s) := by
  have counted : P { s with attrs := { s.attrs with
      minutes := min 4294967295 (s.attrs.minutes + 1), tMinute := some (s.now + Config.minuteMs) } } :=
    K.base.view (by constructor <;> intros <;> rfl) h
  unfold Machine.minuteOut
  dsimp only
  repeat' split
  all_goals first | exact h | exact K.autosave counted | exact counted

theorem buildNotices (n : Nat) : ∀ {s}, P s → P (buildNotices n s) := by
  induction n with
  | zero => exact fun h => h
  | succ n ih => exact fun h => ih (K.build h)

theorem finish {s : State} (h : P s) : P (finish s) := K.buildNotices 16 h

theorem statusNotice {s : State} (h : P s) :
    P (if s.noticeRoom && s.statusBuildable then buildStatus s else s) := by
  split
  · rename_i e
    obtain ⟨room, buildable⟩ := Bool.and_eq_true_iff.mp e
    have built := K.build h
    rwa [buildOne, if_pos room, if_pos buildable] at built
  · exact h

theorem alarmNotice {s : State} (h : P s) :
    P (if s.noticeRoom && !s.statusBuildable then
        match s.alarmBuildable with
        | some p => buildAlarm p s
        | none => s
      else s) := by
  split
  · rename_i e
    obtain ⟨room, no⟩ := Bool.and_eq_true_iff.mp e
    have built := K.build h
    rwa [buildOne, if_pos room, if_neg (by simpa using no)] at built
  · exact h

/-! Management Requests. -/

theorem activate (rq : Requester) {s : State} (h : A s) : P (activate rq s) := by
  have installed : s.mode = .init ∨ s.mode = .parked → A (Machine.install s) := fun m => by
    have points := K.install m h
    unfold Machine.install
    dsimp only
    refine K.admitted.initTest ?_
    refine keeps_foldl (fun s i k => K.admitted.renorm i k) _ _ ?_
    refine keeps_foldl (fun s ch k => K.admitted.installAnalog ch _ _ k) _ _ ?_
    exact keeps_foldl (fun s e k => K.admitted.installSource _ e k) _ _ points
  unfold Machine.activate
  split
  · rename_i m
    repeat' split
    · exact K.answer _ _ _ _ h
    · exact K.answer _ _ _ _ h
    · exact K.answer _ _ _ _ (installed m)
  · exact K.answer _ _ _ _ h

theorem carryOut (rq : Requester) (r : Request) {s : State} (h : A s) : P (carryOut rq r s) := by
  have ans : ∀ st rs b, P (Machine.answer rq st rs b s) := fun st rs b => K.answer rq st rs b h
  unfold Machine.carryOut
  split
  case h_1 => exact ans _ _ _
  case h_2 => exact ans _ _ _
  case h_3 => unfold readTable; split <;> exact ans _ _ _
  case h_4 => exact K.answer _ _ _ _ (K.admitted.writeTable _ _ _ h)
  case h_5 => exact K.answer _ _ _ _ (K.admitted.view (by constructor <;> intros <;> rfl) h)
  case h_6 => exact K.activate rq h
  case h_7 =>
    unfold Machine.commit
    split
    · exact ans _ _ _
    · split
      · exact ans _ _ _
      · rename_i idle; exact K.commit rq (storeIdle_of idle) h
  case h_8 =>
    unfold saveAttributes
    split
    · exact ans _ _ _
    · rename_i idle; exact K.save rq (storeIdle_of idle) h
  case h_9 => exact ans _ _ _
  case h_10 =>
    unfold renewAttribute
    split
    · exact ans _ _ _
    · split
      · exact K.answer _ _ _ _ (K.admitted.renew _ h)
      · exact ans _ _ _
  case h_11 => unfold readActiveList; split <;> exact ans _ _ _
  case h_12 => unfold readTrip; split <;> exact ans _ _ _
  case h_13 => exact K.answer _ _ _ _ (K.admitted.consume _ h)
  case h_14 => unfold readTestLog; split <;> exact ans _ _ _
  case h_15 =>
    unfold startBrakeTest
    split
    · exact K.answer _ _ _ _ (K.admitted.acceptTest (by assumption) h)
    · exact ans _ _ _
  case h_16 =>
    unfold abortBrakeTest
    split
    · exact K.answer _ _ _ _ (K.admitted.abortTest h)
    · exact ans _ _ _
  case h_17 => exact ans _ _ _
  case h_18 => exact K.answer _ _ _ _ (K.admitted.countersRead _ _ h)
  case h_19 =>
    unfold requestRestart
    split
    · exact ans _ _ _
    · exact K.answer _ _ _ _ (K.admitted.view (by constructor <;> intros <;> rfl) h)

/-! Frames. -/

theorem act (a : Action) {s : State} (h : P s) : P (act a s) := by
  unfold Machine.act
  split
  · exact K.base.modeRequest _ h
  · exact K.base.ack _ h
  · exact K.base.shelve _ _ h
  · exact K.base.unshelve _ h
  · exact K.base.resetLatched h
  · exact K.base.resetTrip h
  · exact K.base.testStart h
  · exact K.base.testAbort h

theorem takeAction (f : Frame) {s : State} (h : P s) : P (takeAction f s) := by
  unfold Machine.takeAction
  repeat' split
  all_goals first | exact K.act _ (K.base.bump _ h) | exact K.base.bump _ h

theorem takeRequest (f : Frame) {s : State} (h : P s) : P (takeRequest f s) := by
  unfold Machine.takeRequest
  dsimp only
  split
  · exact K.base.bump _ h
  · rename_i room
    have admitted : A (takeArrival f s) := K.reserve f h (Nat.not_lt.mp room)
    repeat' split
    all_goals first | exact K.carryOut _ _ admitted | exact K.answer _ _ _ _ admitted

theorem passing (f : Frame) {s : State} (h : P s) : P (passing f s) := by
  unfold Machine.passing
  repeat' split
  all_goals first
    | exact h
    | exact K.base.limit _ _ h
    | exact K.base.takeStatus K.skew _ _ h
    | exact K.base.takeReport _ _ h
    | exact K.base.forward _ _ h

theorem dispatch (f : Frame) {s : State} (h : P s) : P (dispatch f s) := by
  unfold Machine.dispatch
  repeat' split
  all_goals first
    | exact K.takeAction f h
    | exact K.takeRequest f h
    | exact K.base.bump _ h
    | exact K.passing f h

theorem arrive (f : Frame) {s : State} (h : P s) : P (arrive f s) := by
  unfold Machine.arrive
  repeat' split
  all_goals first
    | exact K.base.bump _ h
    | exact K.dispatch f (K.base.arrival _ _ _ h)
    | exact K.dispatch f h

theorem takeFrame (f : Option Frame) {s : State} (h : P s) : P (takeFrame f s) := by
  have heard : P (silenceRestart (bump .taken s)) := K.base.silenceRestart (K.base.bump _ h)
  unfold Machine.takeFrame
  dsimp only
  split
  · unfold checkFrame
    repeat' split
    all_goals first | exact K.base.bump _ heard | exact K.arrive _ heard
  · exact K.base.bump _ heard

/-! Start-up. -/

theorem earlyFrames (early : List (List Byte)) {s : State} (h : P s) : P (earlyFrames early s) :=
  keeps_foldl (fun _ _ k => K.finish (K.takeFrame _ k)) early _ h

theorem powerOn (straps : BitVec 6) (early : List (List Byte)) {s : State} (h : P s) : P (powerOn straps early s) :=
  K.base.endStartUp (K.load (earlyFrames_settling early (volatileReset_settling straps s))
    (K.earlyFrames early (K.volatile straps h)))

theorem restart (early : List (List Byte)) {s : State} (h : P s) : P (restart early s) :=
  K.base.endStartUp (K.reload (earlyFrames_settling early (keepOver_settling (volatileReset_settling _ s)))
    (K.earlyFrames early (K.keep h (K.volatile _ h))))

theorem sendingDone (early : List (List Byte)) {s : State} (h : P s) : P (sendingDone early s) := by
  have counted := K.base.sent h
  unfold Machine.sendingDone
  split
  · split
    · exact K.restart early counted
    · exact K.base.testPoll (K.base.choose counted)
  · exact h

/-! Every command. -/

/-- Every command answers a next state that keeps the property. -/
theorem exec (i : Instr) {s : State} (h : P s) : ∃ t, exec i s = .next t ∧ P t := by
  have next : ∀ {u}, P u → ∃ t, done u = .next t ∧ P t := fun k => ⟨_, rfl, K.finish k⟩
  cases hf : rowFrame i with
  | some f => exact ⟨_, exec_row hf s, K.finish (K.takeFrame _ h)⟩
  | none =>
    cases i with
    | powerOnReset straps early => exact next (K.powerOn straps early h)
    | restartTakesEffect early =>
      refine next ?_
      split
      · exact K.sendingDone early h
      · exact h
    | frameTakenAtIn bytes => exact next (K.takeFrame _ h)
    | sendingComplete => exact next (K.sendingDone [] h)
    | statusNotice => exact next (K.statusNotice h)
    | alarmNotice => exact next (K.alarmNotice h)
    | initToParked => exact next (K.base.initTest h)
    | parkingComplete => exact next (K.base.parkingTest h)
    | homeWaitEnd =>
      refine next ?_
      split
      · exact K.base.homeReport h
      · exact h
    | segmentBegin => exact next (K.base.segmentBegin h)
    | secondFinalReference => exact next (K.base.secondFinal h)
    | autosave => exact next (K.autosave h)
    | commitCompletion readBack => exact next (K.committed readBack h)
    | saveCompletion readBack => exact next (K.saved readBack h)
    | freshnessTimerExpiry e => exact next (K.base.freshnessOut e h)
    | ringSilenceExpiry => exact next (K.base.silenceOut h)
    | dwellExpiry => exact next (K.base.dwellExpired h)
    | parkTimerExpiry => exact next (K.base.parkOut h)
    | releaseDueExpiry c => exact next (K.base.releaseDue c h)
    | proveTimerExpiry c => exact next (K.base.proveOut c h)
    | releaseConfirmExpiry c => exact next (K.base.releaseOut c h)
    | releaseDwellExpiry c => exact next (K.base.dwellOut c h)
    | setConfirmExpiry c => exact next (K.base.setOut c h)
    | autosetExpiry c => exact next (K.base.autosetOut c h)
    | onsetExpiry => exact next (K.base.onsetOut h)
    | confirmTimerExpiry => exact next (K.base.confirmOut h)
    | prepTimeoutExpiry => exact next (K.base.prepOut h)
    | onDelayExpiry p => exact next (K.base.onDelayOut p h)
    | shelfExpiry p => exact next (K.base.shelfOut p h)
    | conversionCompletion ch input reference => exact next (K.base.convert ch input reference h)
    | rampTimeout => exact next (K.base.rampOut h)
    | holdExpiry => exact next (K.base.holdOut h)
    | testPeriodExpiry => exact next (K.base.periodOut h)
    | resumeExpiry => exact next (K.base.resumeOut h)
    | suspendLimitExpiry => exact next (K.base.suspendOut h)
    | minuteTimerExpiry => exact next (K.minuteOut h)
    | _ => cases hf

/-- Every step keeps a property that reads neither the clock nor the queue of waiting commands. -/
theorem step (free : ∀ {s : State} n i l, P s → P { s with now := n, freeIdx := i, pending := l }) {s t : State} (h : P s)
    (e : step s = .next t) : P t := by
  unfold Machine.step at e
  split at e
  · rename_i c rest _
    obtain ⟨u, hu, keeps⟩ := K.exec c (s := { s with pending := rest }) (free s.now s.freeIdx rest h)
    rw [hu] at e
    cases e
    exact keeps
  · cases e
    have posted : OnlyQueue { s with now := s.now + 1 } (tick s) := (foldl_post _ { s with now := s.now + 1 }).2
    rw [posted]
    exact free (s := s) (s.now + 1) _ _ h

end StepKeeps
end Sys2Proof.Machine
end

section
/-!
SUPPORT. Which elementary operations need a look for which invariant. The ring and store operations leave everything but
the queues and the store (`CoreView`); a property that reads neither the mode, the lines, the trips held nor the skew is
kept by a change of mode and a trip when it is kept by what happens to a point and to the trip record queue (`Plain`).
-/

namespace Sys2Proof.Machine

/-- Two states agree in what an invariant reads outside the ring interface and the store. -/
structure CoreView (s t : State) : Prop where
  mode : t.mode = s.mode
  field : t.trip.field = s.trip.field
  brake : t.trip.brake = s.trip.brake
  queue : t.trip.queue = s.trip.queue
  held : t.heldTrips = s.heldTrips
  points : t.alarm.points = s.alarm.points
  list : t.alarm.list = s.alarm.list
  active : t.act = s.act
  recs : t.attrs.recs = s.attrs.recs
  skew : t.walk.skew = s.walk.skew
  pending : t.pending = s.pending

theorem CoreView.refl (s : State) : CoreView s s := by constructor <;> rfl

theorem CoreView.trans {a b c : State} (h : CoreView a b) (k : CoreView b c) : CoreView a c where
  mode := k.mode.trans h.mode
  field := k.field.trans h.field
  brake := k.brake.trans h.brake
  queue := k.queue.trans h.queue
  held := k.held.trans h.held
  points := k.points.trans h.points
  list := k.list.trans h.list
  active := k.active.trans h.active
  recs := k.recs.trans h.recs
  skew := k.skew.trans h.skew
  pending := k.pending.trans h.pending

/-- A change of the ring interface alone. -/
theorem coreView_ring {s t : State} (h : t = { s with ring := t.ring }) : CoreView s t := by
  rw [h]
  constructor <;> rfl

theorem bump_ring (c : Counter) (s : State) : bump c s = { s with ring := (bump c s).ring } := rfl

theorem handTestRef_rest (e : InsEntry) (s : State) :
    handTestRef e s = { s with ring := (handTestRef e s).ring } := by
  unfold handTestRef joinInsert
  rw [chooseIfIdle_rest]

theorem countSent_rest (s : State) : countSent s = { s with ring := (countSent s).ring } := by
  unfold countSent
  repeat' split
  all_goals rfl

theorem withdrawTest_core (s : State) : CoreView s (withdrawTest s) := by constructor <;> rfl

theorem takeArrival_core (f : Frame) (s : State) : CoreView s (takeArrival f s) := by constructor <;> rfl

theorem beginSave_core (rq : Option Requester) (s : State) : CoreView s (beginSave rq s) := by constructor <;> rfl

theorem autosave_core (s : State) : CoreView s (autosave s) := by
  unfold autosave
  split <;> constructor <;> rfl

theorem heldSave_core (s : State) : CoreView s (heldSave s) := by
  unfold heldSave
  split
  · exact autosave_core s
  · exact .refl s

theorem storeAnswer_core (rq : Option Requester) (ok : Bool) (s : State) : CoreView s (storeAnswer rq ok s) := by
  unfold storeAnswer
  split
  · exact coreView_ring (answer_rest ..)
  · exact .refl s

theorem commitDone_core (readBack : List Byte) (s : State) : CoreView s (commitDone readBack s) := by
  unfold commitDone
  dsimp only
  split
  · refine .trans (.trans ?_ (storeAnswer_core ..)) (heldSave_core _)
    constructor <;> rfl
  · exact .refl s

theorem saveDone_core (readBack : List Byte) (s : State) : CoreView s (saveDone readBack s) := by
  unfold saveDone
  dsimp only
  split
  · refine .trans (.trans ?_ (storeAnswer_core ..)) (heldSave_core _)
    constructor <;> rfl
  · exact .refl s

theorem buildOne_core (s : State) : CoreView s (buildOne s) := by
  rw [(buildOne_kept s).rest]
  constructor <;> rfl

/-! Properties that read points, records and queues alone. -/

/-- Two states agree but in the mode, the trip lines, the trips held and the skew. -/
structure PlainView (s t : State) : Prop where
  queue : t.trip.queue = s.trip.queue
  states : ∀ p : Fin 48, (t.alarm.points[p]).state = (s.alarm.points[p]).state
  list : t.alarm.list = s.alarm.list
  active : t.act = s.act
  recs : t.attrs.recs = s.attrs.recs
  fwd : t.ring.fwd = s.ring.fwd
  consec : t.ring.consec = s.ring.consec
  ins : t.ring.ins = s.ring.ins
  reserved : t.ring.reserved = s.ring.reserved
  store : t.store.state = s.store.state
  answer : t.store.answer = s.store.answer
  pending : t.pending = s.pending

theorem SameView.plain {s t : State} (h : SameView s t) : PlainView s t :=
  ⟨h.queue, h.states, h.list, h.active, h.recs, h.fwd, h.consec, h.ins, h.reserved, h.store, h.answer, h.pending⟩

/-- A property that reads neither the mode, the trip lines, the trips held nor the skew, kept by the elementary
operations on what it reads. -/
structure Plain (P : State → Prop) : Prop where
  view : ∀ {s t}, PlainView s t → P s → P t
  point : ∀ {s} p st m timer, (st = .shelved → (s.act.points[p]).cls ≠ .trip) → P s → P (setPoint p st m timer s)
  append : ∀ {s} r, s.trip.queue.length < 32 → P s → P { s with trip := { s.trip with queue := s.trip.queue ++ [r] } }
  withdraw : ∀ {s}, P s → P (withdrawTest s)
  forward : ∀ {s} f taken, P s → P (forward f taken s)
  choose : ∀ {s}, P s → P (choose s)
  sent : ∀ {s}, P s → P (countSent s)
  testRef : ∀ {s} e, e.cls = .testRef → P s → P (handTestRef e s)
  wear : ∀ {s} i r, r.norm = (s.attrs.recs[i]).norm → r.worst = (s.attrs.recs[i]).worst → P s →
    P (putAttr i (normed r (s.workedNorm i r)) s)
  renewed : ∀ {s} i, P s → P (putAttr i lostAttr s)
  consumed : ∀ {s} n, P s → P { s with trip := { s.trip with queue := s.trip.queue.drop n } }

namespace Plain

variable {P : State → Prop} (K : Plain P)
include K

/-- The trips held are not read. -/
theorem heldTrips (ts : List TripIn) {s : State} (h : P s) : P { s with heldTrips := ts } :=
  K.view (by constructor <;> intros <;> rfl) h

theorem activatePoint (trig : Option (List Byte)) (p : Fin 48) {s : State} (h : P s) :
    P (activatePoint trig p s) := by
  unfold Machine.activatePoint
  have active := K.point p .activeUnack false none nofun h
  dsimp only
  split
  · exact K.heldTrips _ active
  · exact active

theorem evalPoint (trig : Option (List Byte)) (p : Fin 48) {s : State} (h : P s) : P (evalPoint trig p s) := by
  have moved : ∀ st m timer, st ≠ .shelved → P (setPoint p st m timer s) := fun st m timer k =>
    K.point p st m timer (fun e => absurd e k) h
  unfold Machine.evalPoint
  dsimp only
  repeat' split
  all_goals first
    | exact h
    | exact K.activatePoint trig p h
    | exact moved _ _ _ (restState_ne_shelved s p)
    | exact moved _ _ _ nofun

theorem feedHeld (code : Nat) (v : Int) (ok : Bool) (trig : Option (List Byte)) {s : State} (h : P s) :
    P (feedHeld code v ok trig s) := by
  unfold Machine.feedHeld
  split
  · exact K.view (by constructor <;> intros <;> rfl) h
  · exact keeps_foldl (fun _ p k => K.evalPoint trig p k) _ _ (K.view (by constructor <;> intros <;> rfl) h)

theorem rearmPoints {s : State} (h : P s) : P (rearmPoints s) := by
  refine keeps_foldl (fun s p k => ?_) _ _ h
  rw [rearmPoint_eq]
  split
  · rename_i e
    exact K.point p _ _ _ (fun c => absurd c (rearmTo_some e).2.2.2.2.1) k
  · exact k

theorem enterWalking {s : State} (h : P s) : P (enterWalking s) := by
  have cleared : P { s with walk := { s.walk with
      steps := 0, distance := 0, stepMark := s.lagTurn, reversal := ⟨false, false⟩ } } :=
    K.view (by constructor <;> intros <;> rfl) h
  have fed := K.feedHeld 77 0 true none cleared
  unfold Machine.enterWalking
  dsimp only
  repeat' split
  all_goals first
    | exact cleared | exact fed
    | exact K.heldTrips _ cleared
    | exact K.heldTrips _ fed

theorem walkModeChange (old new : Mode) {s : State} (h : P s) : P (walkModeChange old new s) := by
  have walk : ∀ {s} (w : Walk), P s → P { s with walk := w } := fun w k =>
    K.view (by constructor <;> intros <;> rfl) k
  unfold Machine.walkModeChange
  dsimp only
  have stopped : P (if old = .walkPrep then { s with walk := { s.walk with tConfirm := none, tTimeout := none } } else s) := by
    split
    · exact walk _ h
    · exact h
  generalize (if old = .walkPrep then { s with walk := { s.walk with tConfirm := none, tTimeout := none } } else s) = u
    at stopped ⊢
  have left : P (if old = .walking then { u with walk := { u.walk with stepMark := none } } else u) := by
    split
    · exact walk _ stopped
    · exact stopped
  generalize (if old = .walking then { u with walk := { u.walk with stepMark := none } } else u) = v at left ⊢
  split
  · exact walk _ left
  · exact K.enterWalking left
  · exact left

theorem tightModeChange (old : Mode) {s : State} (h : P s) : P (tightModeChange old s) := by
  unfold Machine.tightModeChange
  split
  · exact K.feedHeld _ _ _ _ (K.view (by constructor <;> intros <;> rfl) h)
  · exact h

theorem modeSteps (new : Mode) {s : State} (h : P s) : P (modeSteps new s) := by
  have entered : P { s with ctl := { s.ctl with
        mode := new, entryTime := s.now, slot := none, hold := .none,
        reason := if s.mode = .init then .none else s.ctl.reason,
        parkTimer := if s.mode = .dig then none else s.ctl.parkTimer } } := K.view (by constructor <;> intros <;> rfl) h
  unfold Machine.modeSteps
  dsimp only
  generalize ({ s with ctl := { s.ctl with
        mode := new, entryTime := s.now, slot := none, hold := .none,
        reason := if s.mode = .init then .none else s.ctl.reason,
        parkTimer := if s.mode = .dig then none else s.ctl.parkTimer } } : State) = a at entered ⊢
  have parked : P (if new = .dig then startPark a else a) := by
    split
    · exact K.view (by constructor <;> intros <;> rfl) entered
    · exact entered
  have steps := K.tightModeChange s.mode (K.walkModeChange s.mode new (K.rearmPoints parked))
  split
  · exact K.view (by constructor <;> intros <;> rfl) steps
  · exact K.view (by constructor <;> intros <;> rfl) steps

theorem tripSetAll {s : State} (h : P s) : P (tripSetAll s) := by
  refine keeps_foldl (fun s c k => ?_) _ _ h
  rw [(tripChannel_only c s).frame]
  exact K.view (by constructor <;> intros <;> rfl) k

theorem appendRecord (r : TripRecord) {s : State} (h : P s) : P (appendRecord r s) := by
  unfold Machine.appendRecord
  dsimp only
  split
  · rename_i room
    exact K.feedHeld _ _ _ _ (K.view (by constructor <;> intros <;> rfl) (K.append { r with number := s.trip.next } room h))
  · split
    · exact K.feedHeld _ _ _ _ (K.view (by constructor <;> intros <;> rfl) h)
    · exact K.view (by constructor <;> intros <;> rfl) h

theorem takeTrip (t : TripIn) {s : State} (h : P s) : P (takeTrip t s) := by
  unfold Machine.takeTrip
  split
  · exact K.appendRecord _ (K.view (by constructor <;> intros <;> rfl) h)
  · have set : P (Machine.tripSetAll (deEnergise t.action (Machine.modeSteps .tripped s))) :=
      K.tripSetAll (K.view (by constructor <;> intros <;> rfl) (K.modeSteps .tripped h))
    unfold firstTrip
    dsimp only
    refine K.appendRecord _ ?_
    split
    · exact K.withdraw (K.view (by constructor <;> intros <;> rfl) set)
    · exact set

theorem workWalk {s : State} (h : P s) : P (workWalk s) := by
  unfold Machine.workWalk
  split
  · exact K.view (by constructor <;> intros <;> rfl) h
  · exact h

theorem keeps : Keeps P P where
  weak h := h
  view v := K.view v.plain
  heldView v := K.view v.plain
  ready h _ := h
  cleared h _ := K.heldTrips [] h
  hold t h := K.heldTrips _ h
  point := K.point
  heldPoint p st m timer k h := K.point p st m timer (fun e => absurd e k) h
  trip t ts h := K.takeTrip t (K.heldTrips ts h)
  steps new _ h := K.modeSteps new h
  resetSteps _ h := K.view (by constructor <;> intros <;> rfl) (K.modeSteps .parked h)
  withdraw := K.withdraw
  forward := K.forward
  choose := K.choose
  sent := K.sent
  testRef := K.testRef
  wear := K.wear
  renewed := K.renewed
  consumed := K.consumed

theorem skewKept : SkewKept P := K.keeps.skewKept K.workWalk

end Plain

/-- A property that reads neither the ring interface nor the store, beside the mode, the lines, the trips held and the
skew. -/
theorem Plain.of_core {P : State → Prop} (core : ∀ {s t}, CoreView s t → P s → P t)
    (view : ∀ {s t}, PlainView s t → P s → P t)
    (point : ∀ {s} p st m timer, (st = .shelved → (s.act.points[p]).cls ≠ .trip) → P s → P (setPoint p st m timer s))
    (queue : ∀ {s} q, P s → P { s with trip := { s.trip with queue := q } })
    (wear : ∀ {s} i r, r.norm = (s.attrs.recs[i]).norm → r.worst = (s.attrs.recs[i]).worst → P s →
      P (putAttr i (normed r (s.workedNorm i r)) s))
    (renewed : ∀ {s} i, P s → P (putAttr i lostAttr s)) : Plain P where
  view := view
  point := point
  append _ _ h := queue _ h
  withdraw h := core (withdrawTest_core _) h
  forward _ _ h := core (coreView_ring (forward_rest ..)) h
  choose h := core (coreView_ring (choose_rest _)) h
  sent h := core (coreView_ring (countSent_rest _)) h
  testRef _ _ h := core (coreView_ring (handTestRef_rest ..)) h
  wear := wear
  renewed := renewed
  consumed _ h := queue _ h

/-! Properties that read neither the ring interface nor the store. -/

/-- A property that reads neither the ring interface nor the store. -/
def CoreOnly (P : State → Prop) : Prop := ∀ {s t}, CoreView s t → P s → P t

/-- The steps of a property that reads neither the ring interface nor the store. -/
theorem StepKeeps.of_core {P H : State → Prop} (K : Keeps P H) (T : SkewKept P) (core : CoreOnly P)
    (install : ∀ {s}, s.mode = .init ∨ s.mode = .parked → P s →
      P (installPoints (installStations s.act
        { s with tables := { s.tables with active := s.tables.staging, valid := true, committed := false } })))
    (volatile : ∀ {s} straps, P s → P (volatileReset straps s))
    (keep : ∀ {s v}, P s → P v → P (keepOver s v))
    (load : ∀ {s}, Settling s → P s → P (startPoints (loadAttrs (loadTables s))))
    (reload : ∀ {s}, Settling s → P s → P (startPoints (keepAttrs (loadTables s)))) : StepKeeps P H P H where
  base := K
  admitted := K
  skew := T
  reserve f h _ := core (takeArrival_core f _) h
  answer rq st results b h := core (coreView_ring (answer_rest ..)) h
  commit rq _ h := K.view (by constructor <;> intros <;> rfl) (core (by constructor <;> rfl) h)
  save rq _ h := core (beginSave_core _ _) h
  autosave h := core (autosave_core _) h
  committed readBack h := core (commitDone_core readBack _) h
  saved readBack h := core (saveDone_core readBack _) h
  build h := core (buildOne_core _) h
  install := install
  volatile := volatile
  keep := keep
  load := load
  reload := reload

end Sys2Proof.Machine
end

section
/-!
SUPPORT. The invariants that read the alarm points, the wear and level records and the queue of waiting commands.
-/

namespace Sys2Proof.Machine

/-! Points after a reset of the alarm unit. -/

/-- The points' records are those of an alarm unit started anew: none listed, none SHELVED, and the active list empty
(R143, R144). -/
structure PointsFresh (s : State) : Prop where
  list : s.alarm.list = []
  states : ∀ p : Fin 48, (s.alarm.points[p]).state = .normal ∨ (s.alarm.points[p]).state = .disarmed

theorem startPoints_fresh (s : State) : PointsFresh (startPoints s) where
  list := rfl
  states p := by
    unfold startPoints
    dsimp only
    rw [Fin.getElem_fin, Vector.getElem_map]
    dsimp only
    split
    · exact .inl rfl
    · exact .inr rfl

theorem installPoints_fresh (s : State) : PointsFresh (installPoints s) where
  list := by unfold installPoints; rfl
  states p := by
    have record : (installPoints s).alarm.points[p] = installPoint s p := by
      unfold installPoints
      exact Vector.getElem_ofFn _
    rw [record]
    unfold installPoint
    dsimp only
    split
    · exact .inl rfl
    · exact .inr rfl

theorem reset_fresh {s : State} (h : s.alarm.points = Vector.replicate 48 resetPoint) (l : s.alarm.list = []) :
    PointsFresh s where
  list := l
  states p := by
    have record : s.alarm.points[p] = resetPoint := by rw [h]; exact Vector.getElem_replicate _
    exact .inr (congrArg PointRun.state record)

/-! The active list (R139). -/

theorem PointsFresh.activeList {s : State} (h : PointsFresh s) : ActiveListExact s := by
  refine ⟨by rw [h.list]; exact .nil, fun p => ?_⟩
  rw [h.list]
  rcases h.states p with e | e <;> rw [e] <;> simp [PState.listed]

/-- A point joins the active list, leaves it, or keeps its place, as its state says (R139). -/
theorem setPoint_activeList (p : Fin 48) (st : PState) (m : Bool) (timer : Option Nat) {s : State}
    (h : ActiveListExact s) : ActiveListExact (setPoint p st m timer s) := by
  obtain ⟨nodup, exact'⟩ := h
  obtain ⟨-, hst, -, others, same, -, joins, keeps, leaves⟩ := setPoint_takes p st m timer s
  by_cases unchanged : st = (s.alarm.points[p]).state ∧ m = (s.alarm.points[p]).mark
  · have e := same unchanged.1 unchanged.2
    rw [← setPoint_heldTrips p st m timer s] at e
    rw [show setPoint p st m timer s = s from e]
    exact ⟨nodup, exact'⟩
  · have rest : ∀ q : Fin 48, q ≠ p → (q ∈ s.alarm.list ↔ ((setPoint p st m timer s).alarm.points[q]).state.listed = true) :=
      fun q hq => by rw [others q hq]; exact exact' q
    have changed : st ≠ (s.alarm.points[p]).state ∨ m ≠ (s.alarm.points[p]).mark := Classical.not_and_iff_not_or_not.mp unchanged
    cases new : st.listed with
    | false =>
      have list := leaves new changed
      refine ⟨by rw [list]; exact nodup.filter _, fun q => ?_⟩
      rw [list, List.mem_filter]
      by_cases hq : q = p
      · subst hq; rw [hst, new]; simp
      · rw [rest q hq]; simp [hq]
    | true =>
      cases old : (s.alarm.points[p]).state.listed with
      | true =>
        have list := keeps new old
        refine ⟨by rw [list]; exact nodup, fun q => ?_⟩
        rw [list]
        by_cases hq : q = p
        · subst hq; rw [hst, new, exact' q, old]
        · exact rest q hq
      | false =>
        have list := joins new old
        have absent : p ∉ s.alarm.list := fun k => by rw [exact' p, old] at k; cases k
        refine ⟨by rw [list]; exact List.nodup_append'.mpr ⟨nodup, List.nodup_singleton p, by simpa using absent⟩, fun q => ?_⟩
        rw [list, List.mem_append, List.mem_singleton]
        by_cases hq : q = p
        · subst hq; rw [hst, new]; simp
        · rw [rest q hq]; simp [hq]

theorem activeList_plain : Plain ActiveListExact := by
  have view : ∀ {s t : State}, PlainView s t → ActiveListExact s → ActiveListExact t := fun v ⟨n, e⟩ =>
    ⟨by rw [v.list]; exact n, fun p => by rw [v.list, v.states p]; exact e p⟩
  refine Plain.of_core (fun v ⟨n, e⟩ => ⟨by rw [v.list]; exact n, fun p => by rw [v.list, v.points]; exact e p⟩) view
    (fun p st m timer _ h => setPoint_activeList p st m timer h) (fun _ h => h) (fun _ _ _ _ h => h) (fun _ h => h)

theorem activeList_steps : StepKeeps ActiveListExact ActiveListExact ActiveListExact ActiveListExact :=
  .of_core activeList_plain.keeps activeList_plain.skewKept
    (fun v ⟨n, e⟩ => ⟨by rw [v.list]; exact n, fun p => by rw [v.list, v.points]; exact e p⟩)
    (fun _ _ => (installPoints_fresh _).activeList)
    (fun _ _ => (reset_fresh rfl rfl).activeList) (fun _ h => h)
    (fun _ _ => (startPoints_fresh _).activeList) (fun _ _ => (startPoints_fresh _).activeList)

/-! The shelf (R136). -/

theorem PointsFresh.noneShelved {s : State} (h : PointsFresh s) : NoTripPointShelved s := fun p e => by
  rcases h.states p with k | k <;> rw [k] at e <;> cases e

theorem setPoint_noneShelved (p : Fin 48) (st : PState) (m : Bool) (timer : Option Nat) {s : State}
    (k : st = .shelved → (s.act.points[p]).cls ≠ .trip) (h : NoTripPointShelved s) :
    NoTripPointShelved (setPoint p st m timer s) := by
  intro q e
  rw [show (setPoint p st m timer s).act = s.act from congrArg Tables.active (setPoint_tables p st m timer s)]
  by_cases hq : q = p
  · subst hq
    rw [(setPoint_takes q st m timer s).2.1] at e
    exact k e
  · rw [(setPoint_ne hq st m timer s).1] at e
    exact h q e

theorem noneShelved_core : CoreOnly NoTripPointShelved := fun v h p e => by
  rw [v.active]
  rw [v.points] at e
  exact h p e

theorem noneShelved_plain : Plain NoTripPointShelved :=
  .of_core noneShelved_core (fun v h p e => by rw [v.active]; exact h p ((v.states p).symm.trans e))
    (fun p st m timer k h => setPoint_noneShelved p st m timer k h) (fun _ h => h) (fun _ _ _ _ h => h) (fun _ h => h)

theorem noneShelved_steps : StepKeeps NoTripPointShelved NoTripPointShelved NoTripPointShelved NoTripPointShelved :=
  .of_core noneShelved_plain.keeps noneShelved_plain.skewKept noneShelved_core
    (fun _ _ => (installPoints_fresh _).noneShelved) (fun _ _ => (reset_fresh rfl rfl).noneShelved) (fun _ h => h)
    (fun _ _ => (startPoints_fresh _).noneShelved) (fun _ _ => (startPoints_fresh _).noneShelved)

/-! Wear and level records (R171, R173). -/

/-- A record of wear or level whose values are in range: what `WearInRange` asks of each. -/
def RecordInRange (r : AttrRun) : Prop := 1 ≤ r.norm ∧ r.norm ≤ 100 ∧ r.worst ≤ r.norm

theorem lostAttr_inRange : RecordInRange lostAttr := ⟨by decide, by decide, by decide⟩

/-- A figure of R173 lies in 1..100. -/
theorem normalise_range (raw full : Nat) : 1 ≤ normalise raw full ∧ normalise raw full ≤ 100 :=
  ⟨Nat.le_max_left .., Nat.max_le.mpr ⟨by decide, Nat.min_le_left ..⟩⟩

/-- The normalised value worked out for a record lies in 1..100 when the record's does (R173). -/
theorem workedNorm_range (s : State) (i : Fin 13) {r : AttrRun} (h : 1 ≤ r.norm) :
    1 ≤ s.workedNorm i r ∧ s.workedNorm i r ≤ 100 := by
  unfold State.workedNorm
  split
  · split
    · decide
    · exact normalise_range ..
  · have figure := normalise_range r.raw (s.act.attrs[i]).life
    exact ⟨Nat.le_min.mpr ⟨h, figure.1⟩, (Nat.min_le_right ..).trans figure.2⟩

theorem normed_inRange (s : State) (i : Fin 13) {r : AttrRun} (h : RecordInRange r) :
    RecordInRange (normed r (s.workedNorm i r)) := by
  obtain ⟨least, most⟩ := workedNorm_range s i h.1
  refine ⟨least, most, ?_⟩
  unfold normed
  dsimp only
  split
  · rename_i e; rw [e]; exact h.2.2
  · exact Nat.min_le_right ..

theorem freshAttr_inRange (s : State) (i : Fin 13) (r : AttrRun) : RecordInRange (freshAttr s i r) := by
  obtain ⟨least, most⟩ := workedNorm_range s i (r := { r with norm := 100 }) (show 1 ≤ 100 by decide)
  exact ⟨least, most, Nat.min_le_right ..⟩

theorem keptAttr_inRange (s : State) (i : Fin 13) {r : AttrRun} (h : RecordInRange r) : RecordInRange (keptAttr s i r) := by
  obtain ⟨least, most⟩ := workedNorm_range s i h.1
  exact ⟨least, most, Nat.min_le_right ..⟩

theorem mapAttrs_get (f : Fin 13 → AttrRun → AttrRun) (v : Vector AttrRun 13) (i : Fin 13) :
    (mapAttrs f v)[i] = f i v[i] := by
  unfold mapAttrs
  rw [Fin.getElem_fin, Vector.getElem_ofFn]

theorem putAttr_inRange (i : Fin 13) {r : AttrRun} {s : State} (k : RecordInRange r) (h : WearInRange s) :
    WearInRange (putAttr i r s) := by
  intro j
  show RecordInRange ((s.attrs.recs.set i r)[j])
  rw [Fin.getElem_fin, Vector.getElem_set]
  split
  · exact k
  · exact h j

theorem wear_of_recs {s t : State} (e : t.attrs.recs = s.attrs.recs) (h : WearInRange s) : WearInRange t := by
  intro i
  rw [e]
  exact h i

theorem lost_inRange {s : State} (e : s.attrs.recs = Vector.replicate 13 lostAttr) : WearInRange s := fun i => by
  rw [e, Fin.getElem_fin, Vector.getElem_replicate]
  exact lostAttr_inRange

theorem loadAttrs_inRange (s : State) : WearInRange (loadAttrs s) := by
  unfold loadAttrs
  split
  · intro i
    show RecordInRange ((mapAttrs (freshAttr s) _)[i])
    rw [mapAttrs_get]
    exact freshAttr_inRange ..
  · exact lost_inRange rfl

theorem keepAttrs_inRange {s : State} (h : WearInRange s) : WearInRange (keepAttrs s) := by
  intro i
  show RecordInRange ((mapAttrs (keptAttr s) s.attrs.recs)[i])
  rw [mapAttrs_get]
  exact keptAttr_inRange s i (h i)

theorem wear_plain : Plain WearInRange :=
  .of_core (fun v => wear_of_recs v.recs) (fun v => wear_of_recs v.recs)
    (fun p st m timer _ => wear_of_recs (congrArg Attrs.recs (setPoint_kept p st m timer _).attrs)) (fun _ h => h)
    (fun {s} i r hn hw h => putAttr_inRange i (normed_inRange s i (by rw [RecordInRange, hn, hw]; exact h i)) h)
    (fun i => putAttr_inRange i lostAttr_inRange)

theorem installPoints_recs (s : State) : (installPoints s).attrs.recs = s.attrs.recs := by
  unfold installPoints; rfl

theorem startPoints_recs (s : State) : (startPoints s).attrs.recs = s.attrs.recs := rfl

theorem loadTables_recs (s : State) : (loadTables s).attrs.recs = s.attrs.recs := by rw [loadTables_only]

theorem volatileReset_recs (straps : BitVec 6) (s : State) :
    (volatileReset straps s).attrs.recs = Vector.replicate 13 lostAttr := rfl

theorem wear_steps : StepKeeps WearInRange WearInRange WearInRange WearInRange :=
  .of_core wear_plain.keeps wear_plain.skewKept (fun v => wear_of_recs v.recs)
    (fun _ h => wear_of_recs (installPoints_recs _) (wear_plain.keeps.installStations _ (wear_of_recs rfl h)))
    (fun straps _ => lost_inRange (volatileReset_recs straps _)) (fun h _ => wear_of_recs rfl h)
    (fun _ _ => wear_of_recs (startPoints_recs _) (loadAttrs_inRange _))
    (fun _ h => wear_of_recs (startPoints_recs _) (keepAttrs_inRange (wear_of_recs (loadTables_recs _) h)))

/-! The queue of waiting commands (log 22). -/

/-- The commands that wait are given. -/
def Waiting (q : List Instr) (s : State) : Prop := s.pending = q

theorem waiting_plain (q : List Instr) : Plain (Waiting q) :=
  .of_core (fun v => v.pending.trans) (fun v => v.pending.trans) (fun p st m timer _ => (setPoint_kept p st m timer _).pending.trans)
    (fun _ h => h) (fun _ _ _ _ h => h) (fun _ h => h)

theorem waiting_of {q : List Instr} {s t : State} (e : t.pending = s.pending) (h : Waiting q s) : Waiting q t := e.trans h

theorem installPoints_pending (s : State) : (installPoints s).pending = s.pending := by
  unfold installPoints; rfl

theorem volatileReset_pending (straps : BitVec 6) (s : State) : (volatileReset straps s).pending = s.pending := rfl

theorem loaded_pending (s : State) : (startPoints (loadAttrs (loadTables s))).pending = s.pending := by
  rw [(startPoints_kept _).pending, (loadAttrs_only _).1, loadTables_only]

theorem kept_pending (s : State) : (startPoints (keepAttrs (loadTables s))).pending = s.pending := by
  rw [(startPoints_kept _).pending, (keepAttrs_only _).1, loadTables_only]

theorem waiting_steps (q : List Instr) : StepKeeps (Waiting q) (Waiting q) (Waiting q) (Waiting q) :=
  .of_core (waiting_plain q).keeps (waiting_plain q).skewKept (fun v => waiting_of v.pending)
    (fun _ h => waiting_of (installPoints_pending _) ((waiting_plain q).keeps.installStations _ (waiting_of rfl h)))
    (fun straps h => waiting_of (volatileReset_pending straps _) h) (fun _ k => waiting_of rfl k)
    (fun _ h => waiting_of (loaded_pending _) h) (fun _ h => waiting_of (kept_pending _) h)

end Sys2Proof.Machine
end

section
/-!
SUPPORT. The invariants that read the mode: the trip lines agree with it (R160), and in WALKING the skew keeps within its
trip limit (R110).
-/

namespace Sys2Proof.Machine

/-! What an update of the points within a mode change or a trip event leaves. -/

/-- The mode, the trip unit, the skew and the tables are as they were, and no trip held has been taken. -/
structure EventView (s t : State) : Prop where
  mode : t.mode = s.mode
  trip : t.trip = s.trip
  skew : t.walk.skew = s.walk.skew
  active : t.act = s.act
  held : s.heldTrips <+: t.heldTrips

theorem EventView.refl (s : State) : EventView s s := ⟨rfl, rfl, rfl, rfl, List.prefix_rfl⟩

theorem EventView.trans {a b c : State} (h : EventView a b) (k : EventView b c) : EventView a c where
  mode := k.mode.trans h.mode
  trip := k.trip.trans h.trip
  skew := k.skew.trans h.skew
  active := k.active.trans h.active
  held := h.held.trans k.held

theorem EventView.foldl {β : Type} {f : State → β → State} (h : ∀ s b, EventView s (f s b)) (l : List β) :
    ∀ s, EventView s (l.foldl f s) := by
  induction l with
  | nil => exact .refl
  | cons b l ih => exact fun s => (h s b).trans (ih _)

theorem setPoint_event (p : Fin 48) (st : PState) (m : Bool) (timer : Option Nat) (s : State) :
    EventView s (setPoint p st m timer s) := by
  unfold setPoint
  dsimp only
  split <;> exact ⟨rfl, rfl, rfl, rfl, List.prefix_rfl⟩

theorem activatePoint_event (trig : Option (List Byte)) (p : Fin 48) (s : State) :
    EventView s (activatePoint trig p s) := by
  have h := setPoint_event p .activeUnack false none s
  unfold activatePoint
  dsimp only
  split
  · exact h.trans ⟨rfl, rfl, rfl, rfl, List.prefix_append ..⟩
  · exact h

theorem evalPoint_event (trig : Option (List Byte)) (p : Fin 48) (s : State) : EventView s (evalPoint trig p s) := by
  unfold evalPoint
  dsimp only
  repeat' split
  all_goals first | exact .refl s | exact activatePoint_event trig p s | exact setPoint_event ..

theorem feedHeld_event (code : Nat) (v : Int) (ok : Bool) (trig : Option (List Byte)) (s : State) :
    EventView s (feedHeld code v ok trig s) := by
  unfold feedHeld
  split
  · exact ⟨rfl, rfl, rfl, rfl, List.prefix_rfl⟩
  · have fed : EventView s (s.setSource code v ok) := ⟨rfl, rfl, rfl, rfl, List.prefix_rfl⟩
    exact fed.trans (.foldl (fun s p => evalPoint_event trig p s) _ _)

theorem rearmPoints_event (s : State) : EventView s (rearmPoints s) := by
  refine .foldl (fun s p => ?_) _ s
  rw [rearmPoint_eq]
  split
  · exact setPoint_event ..
  · exact .refl s

theorem enterWalking_event (s : State) : EventView s (enterWalking s) := by
  have cleared : EventView s { s with walk := { s.walk with
      steps := 0, distance := 0, stepMark := s.lagTurn, reversal := ⟨false, false⟩ } } :=
    ⟨rfl, rfl, rfl, rfl, List.prefix_rfl⟩
  have fed := cleared.trans (feedHeld_event 77 0 true none _)
  have held : ∀ (u : State) t, EventView u { u with heldTrips := u.heldTrips ++ [t] } := fun u t =>
    ⟨rfl, rfl, rfl, rfl, List.prefix_append ..⟩
  unfold enterWalking
  dsimp only
  repeat' split
  all_goals first
    | exact cleared | exact fed | exact cleared.trans (held _ _) | exact fed.trans (held _ _)

/-- After the entry to WALKING the skew is within its limit, or a trip is held (R120). -/
theorem enterWalking_skew (s : State) :
    (∀ k, (enterWalking s).walk.skew = some k → k ≤ (enterWalking s).act.walk.tripLimit)
      ∨ (enterWalking s).heldTrips ≠ [] := by
  unfold enterWalking
  dsimp only
  generalize (if s.walk.camReversal = true then
      feedHeld 77 0 true none { s with walk := { s.walk with
        steps := 0, distance := 0, stepMark := s.lagTurn, reversal := ⟨false, false⟩ } }
    else { s with walk := { s.walk with
        steps := 0, distance := 0, stepMark := s.lagTurn, reversal := ⟨false, false⟩ } }) = u
  split
  · rename_i k e
    split
    · exact .inr (by simp)
    · rename_i within
      exact .inl fun j hj => by rw [e] at hj; cases hj; exact Nat.not_lt.mp within
  · rename_i e
    exact .inl fun j hj => by rw [e] at hj; cases hj

theorem walkModeChange_event (old new : Mode) (s : State) : EventView s (walkModeChange old new s) := by
  have walk : ∀ (s : State) (w : Walk), w.skew = s.walk.skew → EventView s { s with walk := w } := fun s w e =>
    ⟨rfl, rfl, e, rfl, List.prefix_rfl⟩
  unfold walkModeChange
  dsimp only
  have stopped : EventView s (if old = .walkPrep then { s with walk := { s.walk with tConfirm := none, tTimeout := none } } else s) := by
    split
    · exact walk _ _ rfl
    · exact .refl s
  generalize (if old = .walkPrep then { s with walk := { s.walk with tConfirm := none, tTimeout := none } } else s) = u
    at stopped ⊢
  have left : EventView u (if old = .walking then { u with walk := { u.walk with stepMark := none } } else u) := by
    split
    · exact walk _ _ rfl
    · exact .refl u
  generalize (if old = .walking then { u with walk := { u.walk with stepMark := none } } else u) = v at left ⊢
  refine (stopped.trans left).trans ?_
  split
  · exact walk _ _ rfl
  · exact enterWalking_event v
  · exact .refl v

theorem walkModeChange_skew (old : Mode) (s : State) :
    (∀ k, (walkModeChange old .walking s).walk.skew = some k → k ≤ (walkModeChange old .walking s).act.walk.tripLimit)
      ∨ (walkModeChange old .walking s).heldTrips ≠ [] := enterWalking_skew _

theorem tightModeChange_event (old : Mode) (s : State) : EventView s (tightModeChange old s) := by
  unfold tightModeChange
  split
  · have cleared : EventView s (clearEpisode s) := ⟨rfl, rfl, rfl, rfl, List.prefix_rfl⟩
    exact cleared.trans (feedHeld_event ..)
  · exact .refl s

/-! A change of mode (R31). -/

/-- The mode record of a change of mode, the walk and tightline work and the points not yet done (R31). -/
def entered (new : Mode) (s : State) : State :=
  let s' := { s with ctl := { s.ctl with
        mode := new, entryTime := s.now, slot := none, hold := .none,
        reason := if s.mode = .init then .none else s.ctl.reason,
        parkTimer := if s.mode = .dig then none else s.ctl.parkTimer } }
  if new = .dig then startPark s' else s'

/-- The walk sequencer's, the alarm unit's and the tightline check's steps of a change of mode (R31). -/
def reworked (new : Mode) (s : State) : State :=
  tightModeChange s.mode (walkModeChange s.mode new (rearmPoints (entered new s)))

theorem modeSteps_eq (new : Mode) (s : State) :
    modeSteps new s = oweStatus
      (if s.mode = .init ∧ new = .parked then
        { reworked new s with trip := { (reworked new s).trip with field := .energised, brake := .energised } }
      else reworked new s) := rfl

theorem entered_mode (new : Mode) (s : State) : (entered new s).mode = new := by
  unfold entered; dsimp only; split <;> rfl

theorem entered_trip (new : Mode) (s : State) : (entered new s).trip = s.trip := by
  unfold entered; dsimp only; split <;> rfl

theorem reworked_event (new : Mode) (s : State) : EventView (entered new s) (reworked new s) :=
  (rearmPoints_event _).trans ((walkModeChange_event ..).trans (tightModeChange_event ..))

/-- A change of mode ends in the new mode. -/
theorem modeSteps_new (new : Mode) (s : State) : (modeSteps new s).mode = new := by
  rw [modeSteps_eq]
  have h := (reworked_event new s).mode.trans (entered_mode new s)
  split <;> exact h

/-- A change of mode leaves the trip unit but for the lines, which the entry to PARKED from INIT energises (R31, R33). -/
theorem modeSteps_trip (new : Mode) (s : State) :
    (modeSteps new s).trip
      = if s.mode = .init ∧ new = .parked then { s.trip with field := .energised, brake := .energised } else s.trip := by
  rw [modeSteps_eq]
  have h := (reworked_event new s).trip.trans (entered_trip new s)
  split
  · show { (reworked new s).trip with field := .energised, brake := .energised } = _
    rw [h]
  · exact h

/-! Trips held between commands. -/

/-- No trip is held (R159). -/
def NoneHeld (s : State) : Prop := s.heldTrips = []

theorem noneHeld_core : CoreOnly NoneHeld := fun v h => v.held.trans h

theorem noneHeld_keeps : Keeps NoneHeld fun _ => True where
  weak _ := trivial
  view v h := v.held.trans h
  heldView _ _ := trivial
  ready _ h := h
  cleared _ _ := rfl
  hold _ _ := trivial
  point p st m timer _ h := (setPoint_heldTrips p st m timer _).trans h
  heldPoint _ _ _ _ _ _ := trivial
  trip _ _ _ := trivial
  steps _ _ _ := trivial
  resetSteps _ _ := trivial
  withdraw h := h
  forward f taken h := noneHeld_core (coreView_ring (forward_rest f taken _)) h
  choose h := noneHeld_core (coreView_ring (choose_rest _)) h
  sent h := noneHeld_core (coreView_ring (countSent_rest _)) h
  testRef e _ h := noneHeld_core (coreView_ring (handTestRef_rest e _)) h
  wear _ _ _ _ h := h
  renewed _ h := h
  consumed _ h := h

/-! The trip lines (R160). -/

/-- The trip lines and the mode agree, whatever trips are held. -/
def Lines (s : State) : Prop :=
  (s.trip.field = .energised ↔ serving s.mode = true) ∧ (s.mode = .init → s.trip.brake = .deEnergised)
    ∧ (s.trip.brake = .deEnergised → s.trip.field = .deEnergised)

theorem linesAgree_iff (s : State) : LinesAgree s ↔ Lines s ∧ NoneHeld s :=
  ⟨fun ⟨a, b, c, d⟩ => ⟨⟨a, b, c⟩, d⟩, fun ⟨⟨a, b, c⟩, d⟩ => ⟨a, b, c, d⟩⟩

theorem lines_of {s t : State} (m : t.mode = s.mode) (f : t.trip.field = s.trip.field) (b : t.trip.brake = s.trip.brake)
    (h : Lines s) : Lines t := by
  unfold Lines
  rw [m, f, b]
  exact h

theorem EventView.lines {s t : State} (v : EventView s t) (h : Lines s) : Lines t :=
  lines_of v.mode (congrArg Trip.field v.trip) (congrArg Trip.brake v.trip) h

/-- In TRIPPED the FIELD line is de-energised. -/
theorem lines_tripped {s : State} (m : s.mode = .tripped) (f : s.trip.field = .deEnergised) : Lines s := by
  unfold Lines
  rw [m, f]
  exact ⟨⟨nofun, nofun⟩, nofun, fun _ => rfl⟩

/-- In a serving mode both lines energised agree with it. -/
theorem lines_energised {s : State} (m : serving s.mode = true) (f : s.trip.field = .energised)
    (b : s.trip.brake = .energised) : Lines s := by
  unfold Lines
  rw [m, f, b]
  exact ⟨by simp, fun e => (by rw [e] at m; cases m), nofun⟩

theorem appendRecord_field (r : TripRecord) (s : State) : (appendRecord r s).trip.field = s.trip.field := by
  have fed : ∀ code v u, (feedHeld code v true none u).trip.field = u.trip.field := fun code v u =>
    congrArg Trip.field (feedHeld_event code v true none u).trip
  unfold appendRecord
  dsimp only
  repeat' split
  all_goals first | rw [fed]; rfl | rfl

/-- A trip de-energises the FIELD line (R157, R158, R160). -/
theorem takeTrip_field (t : TripIn) (s : State) : (takeTrip t s).trip.field = .deEnergised := by
  unfold takeTrip
  split
  · exact appendRecord_field ..
  · unfold firstTrip
    dsimp only
    rw [appendRecord_field]
    have set : (tripSetAll (deEnergise t.action (modeSteps .tripped s))).trip.field = .deEnergised := by
      rw [(tripSetAll_alike _).trip]
      rfl
    split <;> exact set

theorem takeTrip_lines (t : TripIn) (s : State) : Lines (takeTrip t s) :=
  lines_tripped (takeTrip_mode t s) (takeTrip_field t s)

/-- A change between serving modes, or from INIT to PARKED, keeps the lines in agreement (R31, R33, R160). -/
theorem modeSteps_lines {new : Mode} {s : State} (legal : LegalChange s.mode new) (h : Lines s) :
    Lines (modeSteps new s) := by
  obtain ⟨served, old | ⟨init, rfl⟩⟩ := legal
  · have still : ¬(s.mode = .init ∧ new = .parked) := fun e => by rw [e.1] at old; cases old
    have trip := modeSteps_trip new s
    rw [if_neg still] at trip
    have field := h.1.mpr old
    refine lines_energised (by rw [modeSteps_new]; exact served) (by rw [trip]; exact field) ?_
    rw [trip]
    cases b : s.trip.brake with
    | energised => rfl
    | deEnergised => rw [h.2.2 b] at field; cases field
  · have trip := modeSteps_trip .parked s
    rw [if_pos ⟨init, rfl⟩] at trip
    exact lines_energised (by rw [modeSteps_new]; rfl) (by rw [trip]) (by rw [trip])

theorem linesAgree_of {s t : State} (m : t.mode = s.mode) (f : t.trip.field = s.trip.field)
    (b : t.trip.brake = s.trip.brake) (e : t.heldTrips = s.heldTrips) (h : LinesAgree s) : LinesAgree t := by
  obtain ⟨lines, none⟩ := (linesAgree_iff s).mp h
  exact (linesAgree_iff t).mpr ⟨lines_of m f b lines, e.trans none⟩

theorem linesAgree_core : CoreOnly LinesAgree := fun v => linesAgree_of v.mode v.field v.brake v.held

theorem linesAgree_keeps : Keeps LinesAgree Lines where
  weak h := ((linesAgree_iff _).mp h).1
  view v := linesAgree_of v.mode v.field v.brake v.held
  heldView v := lines_of v.mode v.field v.brake
  ready h e := (linesAgree_iff _).mpr ⟨h, e⟩
  cleared h _ := (linesAgree_iff _).mpr ⟨h, rfl⟩
  hold _ h := h
  point p st m timer _ h := by
    have v := setPoint_event p st m timer
    exact linesAgree_of (v _).mode (congrArg Trip.field (v _).trip) (congrArg Trip.brake (v _).trip)
      (setPoint_heldTrips p st m timer _) h
  heldPoint p st m timer _ := (setPoint_event p st m timer _).lines
  trip t _ _ := takeTrip_lines t _
  steps _ legal h := modeSteps_lines legal ((linesAgree_iff _).mp h).1
  resetSteps {s} _ _ := lines_energised (congrArg serving (modeSteps_new .parked s)) rfl rfl
  withdraw h := h
  forward f taken h := linesAgree_core (coreView_ring (forward_rest f taken _)) h
  choose h := linesAgree_core (coreView_ring (choose_rest _)) h
  sent h := linesAgree_core (coreView_ring (countSent_rest _)) h
  testRef e _ h := linesAgree_core (coreView_ring (handTestRef_rest e _)) h
  wear _ _ _ _ h := h
  renewed _ h := h
  consumed _ h := h

theorem workWalk_alike (s : State) : workWalk s = { s with walk := (workWalk s).walk } := by
  unfold workWalk
  split <;> rfl

theorem linesAgree_worked {s : State} (h : LinesAgree s) : LinesAgree (workWalk s) := by
  rw [workWalk_alike]
  exact h

/-- What the invariants on the mode read of a state whose points, tables or records are loaded anew. -/
structure TripModeView (s t : State) : Prop where
  mode : t.mode = s.mode
  trip : t.trip = s.trip
  held : t.heldTrips = s.heldTrips

theorem installPoints_mode (s : State) : TripModeView s (installPoints s) := by
  unfold installPoints
  exact ⟨rfl, rfl, rfl⟩

theorem loaded_mode (s : State) : TripModeView s (startPoints (loadAttrs (loadTables s))) := by
  show TripModeView s { loadAttrs (loadTables s) with alarm := _ }
  rw [(loadAttrs_only _).1, loadTables_only]
  exact ⟨rfl, rfl, rfl⟩

theorem kept_mode (s : State) : TripModeView s (startPoints (keepAttrs (loadTables s))) := by
  show TripModeView s { keepAttrs (loadTables s) with alarm := _ }
  rw [(keepAttrs_only _).1, loadTables_only]
  exact ⟨rfl, rfl, rfl⟩

theorem TripModeView.linesAgree {s t : State} (v : TripModeView s t) (h : LinesAgree s) : LinesAgree t :=
  linesAgree_of v.mode (congrArg Trip.field v.trip) (congrArg Trip.brake v.trip) v.held h

theorem linesAgree_steps : StepKeeps LinesAgree Lines LinesAgree Lines :=
  .of_core linesAgree_keeps (linesAgree_keeps.skewKept linesAgree_worked) linesAgree_core
    (fun _ h => (installPoints_mode _).linesAgree (linesAgree_keeps.installStations _
      (linesAgree_of rfl rfl rfl rfl h)))
    (fun _ _ => ⟨⟨nofun, nofun⟩, fun _ => rfl, fun _ => rfl, rfl⟩) (fun _ k => linesAgree_of rfl rfl rfl rfl k)
    (fun _ h => (loaded_mode _).linesAgree h) (fun _ h => (kept_mode _).linesAgree h)

/-! The skew in WALKING (R110). -/

/-- In WALKING the skew is within its trip limit, or a trip is held. -/
def SkewTaken (s : State) : Prop :=
  s.mode = .walking → (∀ k, s.walk.skew = some k → k ≤ s.act.walk.tripLimit) ∨ s.heldTrips ≠ []

theorem skewWithin_of {s t : State} (m : t.mode = s.mode) (k : t.walk.skew = s.walk.skew) (a : t.act = s.act)
    (e : t.heldTrips = s.heldTrips) (h : SkewWithinLimit s) : SkewWithinLimit t :=
  ⟨e.trans h.1, fun w => by rw [k, a]; exact h.2 (m.symm.trans w)⟩

theorem skewWithin_elsewhere {s : State} (m : s.mode ≠ .walking) (e : s.heldTrips = []) : SkewWithinLimit s :=
  ⟨e, fun w => absurd w m⟩

theorem skewWithin_core : CoreOnly SkewWithinLimit := fun v => skewWithin_of v.mode v.skew v.active v.held

theorem EventView.skewTaken {s t : State} (v : EventView s t) (h : SkewTaken s) : SkewTaken t := by
  intro w
  rw [v.skew, v.active]
  refine (h (v.mode.symm.trans w)).imp_right fun some none => some ?_
  have p := v.held
  rw [none] at p
  exact List.prefix_nil.mp p

theorem modeSteps_skewTaken (new : Mode) (s : State) : SkewTaken (modeSteps new s) := by
  intro w
  rw [modeSteps_new] at w
  subst w
  have walked : SkewTaken (walkModeChange s.mode .walking (rearmPoints (entered .walking s))) :=
    fun _ => walkModeChange_skew ..
  have done := (tightModeChange_event s.mode _).skewTaken walked
  rw [modeSteps_eq, if_neg (fun e => by cases e.2)]
  exact done ((reworked_event .walking s).mode.trans (entered_mode .walking s))

theorem skewWithin_keeps : Keeps SkewWithinLimit SkewTaken where
  weak h w := .inl (h.2 w)
  view v := skewWithin_of v.mode v.skew v.active v.held
  heldView v h w := by rw [v.skew, v.active, v.held]; exact h (v.mode.symm.trans w)
  ready h e := ⟨e, fun w => (h w).resolve_right (fun k => k e)⟩
  cleared _ m := skewWithin_elsewhere (by show State.mode _ ≠ _; rw [m]; nofun) rfl
  hold _ _ _ := .inr (by simp)
  point p st m timer _ h := by
    have v := setPoint_event p st m timer
    exact skewWithin_of (v _).mode (v _).skew (v _).active (setPoint_heldTrips p st m timer _) h
  heldPoint p st m timer _ := (setPoint_event p st m timer _).skewTaken
  trip t _ _ w := by rw [takeTrip_mode] at w; cases w
  steps new _ _ := modeSteps_skewTaken new _
  resetSteps {s} _ _ w := by cases (modeSteps_new .parked s).symm.trans w
  withdraw h := h
  forward f taken h := skewWithin_core (coreView_ring (forward_rest f taken _)) h
  choose h := skewWithin_core (coreView_ring (choose_rest _)) h
  sent h := skewWithin_core (coreView_ring (countSent_rest _)) h
  testRef e _ h := skewWithin_core (coreView_ring (handTestRef_rest e _)) h
  wear _ _ _ _ h := h
  renewed _ h := h
  consumed _ h := h

/-- The skew trip test leaves a skew within the limit, or a machine that has tripped (R110). -/
theorem skewTest_within (trig : List Byte) {s : State} (h : NoneHeld s) :
    SkewWithinLimit (inWalking (skewTest trig) s) := by
  unfold inWalking
  split
  · unfold skewTest
    split
    · rename_i k e
      split
      · exact skewWithin_keeps.drain fun _ => .inr (by simp)
      · rename_i within
        exact ⟨h, fun _ j hj => by rw [e] at hj; cases hj; exact Nat.not_lt.mp within⟩
    · rename_i e
      exact ⟨h, fun _ j hj => by rw [e] at hj; cases hj⟩
  · exact skewWithin_elsewhere (by assumption) h

theorem skewWithin_tested : SkewKept SkewWithinLimit := by
  intro s x prior trig h
  have worked : NoneHeld (workWalk s) := by rw [workWalk_alike]; exact h.1
  exact skewTest_within trig (inWalking_of (P := NoneHeld) (noneHeld_keeps.reversalTest x prior) worked)

theorem skewWithin_steps : StepKeeps SkewWithinLimit SkewTaken SkewWithinLimit SkewTaken :=
  .of_core skewWithin_keeps skewWithin_tested skewWithin_core
    (fun {s} m h => by
      have v := installPoints_mode (installStations s.act { s with
        tables := { s.tables with active := s.tables.staging, valid := true, committed := false } })
      have stations := skewWithin_keeps.installStations s.act (s := { s with
        tables := { s.tables with active := s.tables.staging, valid := true, committed := false } })
        (skewWithin_elsewhere (fun w => by rcases m with m | m <;> cases m.symm.trans w) h.1)
      refine skewWithin_of v.mode ?_ ?_ v.held stations <;> · unfold installPoints; rfl)
    (fun _ _ => ⟨rfl, nofun⟩) (fun _ k => skewWithin_of rfl rfl rfl rfl k)
    (fun settling h => skewWithin_elsewhere ((by rw [(loaded_mode _).mode]; exact settling.walk)) ((loaded_mode _).held.trans h.1))
    (fun settling h => skewWithin_elsewhere ((by rw [(kept_mode _).mode]; exact settling.walk)) ((kept_mode _).held.trans h.1))

end Sys2Proof.Machine
end

section
/-!
SUPPORT. The invariants on the queues: the forward queue, the consecutive-forward count and the trip record queue keep
within their sizes (R15, R19, R163), and the insert queue stays sound (R16).
-/

namespace Sys2Proof.Machine

/-! What a point, a start-up and an installation leave of the queues. -/

/-- The ring interface, the store operation in flight and the trip unit are as they were. -/
structure QueueView (s t : State) : Prop where
  ring : t.ring = s.ring
  store : t.store.state = s.store.state
  answer : t.store.answer = s.store.answer
  trip : t.trip = s.trip

theorem setPoint_queues (p : Fin 48) (st : PState) (m : Bool) (timer : Option Nat) (s : State) :
    QueueView s (setPoint p st m timer s) := by
  unfold setPoint
  dsimp only
  split <;> exact ⟨rfl, rfl, rfl, rfl⟩

theorem installPoints_queues (s : State) : QueueView s (installPoints s) := by
  unfold installPoints
  exact ⟨rfl, rfl, rfl, rfl⟩

theorem loaded_queues (s : State) : QueueView s (startPoints (loadAttrs (loadTables s))) := by
  show QueueView s { loadAttrs (loadTables s) with alarm := _ }
  rw [(loadAttrs_only _).1, loadTables_only]
  exact ⟨rfl, rfl, rfl, rfl⟩

theorem kept_queues (s : State) : QueueView s (startPoints (keepAttrs (loadTables s))) := by
  show QueueView s { keepAttrs (loadTables s) with alarm := _ }
  rw [(keepAttrs_only _).1, loadTables_only]
  exact ⟨rfl, rfl, rfl, rfl⟩

/-! The forward queue, the consecutive-forward count and the trip record queue. -/

theorem bounded_of {s t : State} (f : t.ring.fwd = s.ring.fwd) (c : t.ring.consec = s.ring.consec)
    (q : t.trip.queue = s.trip.queue) (h : QueuesBounded s) : QueuesBounded t := by
  unfold QueuesBounded
  rw [f, c, q]
  exact h

theorem QueueView.bounded {s t : State} (v : QueueView s t) : QueuesBounded s → QueuesBounded t :=
  bounded_of (congrArg Ring.fwd v.ring) (congrArg Ring.consec v.ring) (congrArg Trip.queue v.trip)

/-- A choice takes no frame from the forward queue and counts to 8 at most (R19). -/
theorem choose_bounded {s : State} (h : QueuesBounded s) : QueuesBounded (choose s) := by
  obtain ⟨fwd, consec, queue⟩ := h
  unfold choose
  dsimp only
  split
  · split
    · exact ⟨fwd, Nat.zero_le 8, queue⟩
    · exact ⟨fwd, Nat.min_le_left .., queue⟩
  · exact ⟨fwd, Nat.min_le_left .., queue⟩
  · exact ⟨fwd, consec, queue⟩

theorem chooseIfIdle_bounded {s : State} (h : QueuesBounded s) : QueuesBounded (chooseIfIdle s) := by
  unfold chooseIfIdle
  split
  · exact choose_bounded h
  · exact h

theorem joinInsert_bounded (e : InsEntry) {s : State} (h : QueuesBounded s) : QueuesBounded (joinInsert e s) :=
  chooseIfIdle_bounded (bounded_of rfl rfl rfl h)

theorem answer_bounded (rq : Requester) (st : Status) (results : List Byte) (b : Bool) {s : State}
    (h : QueuesBounded s) : QueuesBounded (answer rq st results b s) :=
  joinInsert_bounded _ (bounded_of rfl rfl rfl h)

theorem forward_bounded (f : Frame) (taken : List Byte) {s : State} (h : QueuesBounded s) :
    QueuesBounded (forward f taken s) := by
  unfold forward
  split
  · exact bounded_of rfl rfl rfl h
  · rename_i room
    obtain ⟨-, consec, queue⟩ := h
    refine chooseIfIdle_bounded ⟨?_, consec, queue⟩
    rw [List.length_append]
    exact Nat.not_le.mp room

theorem countSent_bounded {s : State} (h : QueuesBounded s) : QueuesBounded (countSent s) := by
  obtain ⟨fwd, consec, queue⟩ := h
  unfold countSent
  split
  · exact ⟨fwd, consec, queue⟩
  · split
    · rename_i e; exact ⟨fwd, consec, queue⟩
    · rename_i e
      rw [e] at fwd
      have shorter := Nat.le_of_succ_le fwd
      dsimp only
      split <;> exact ⟨shorter, consec, queue⟩
  · exact ⟨fwd, consec, queue⟩

theorem buildOne_bounded {s : State} (h : QueuesBounded s) : QueuesBounded (buildOne s) := by
  unfold buildOne buildStatus buildAlarm
  repeat' split
  all_goals first | exact h | exact joinInsert_bounded _ (bounded_of rfl rfl rfl h)

theorem autosave_bounded {s : State} (h : QueuesBounded s) : QueuesBounded (autosave s) := by
  unfold autosave
  split <;> exact bounded_of rfl rfl rfl h

theorem heldSave_bounded {s : State} (h : QueuesBounded s) : QueuesBounded (heldSave s) := by
  unfold heldSave
  split
  · exact autosave_bounded h
  · exact h

theorem storeAnswer_bounded (rq : Option Requester) (ok : Bool) {s : State} (h : QueuesBounded s) :
    QueuesBounded (storeAnswer rq ok s) := by
  unfold storeAnswer
  split
  · exact answer_bounded _ _ _ _ h
  · exact h

theorem bounded_plain : Plain QueuesBounded where
  view v := bounded_of v.fwd v.consec v.queue
  point p st m timer _ := (setPoint_queues p st m timer _).bounded
  append r room h := ⟨h.1, h.2.1, by rw [List.length_append]; exact room⟩
  withdraw := bounded_of rfl rfl rfl
  forward f taken := forward_bounded f taken
  choose := choose_bounded
  sent := countSent_bounded
  testRef e _ h := joinInsert_bounded e (bounded_of rfl rfl rfl h)
  wear _ _ _ _ := bounded_of rfl rfl rfl
  renewed _ := bounded_of rfl rfl rfl
  consumed n h := ⟨h.1, h.2.1, by rw [List.length_drop]; exact (Nat.sub_le ..).trans h.2.2⟩

theorem bounded_steps : StepKeeps QueuesBounded QueuesBounded QueuesBounded QueuesBounded where
  base := bounded_plain.keeps
  admitted := bounded_plain.keeps
  skew := bounded_plain.skewKept
  reserve _ h _ := bounded_of rfl rfl rfl h
  answer rq st results b := answer_bounded rq st results b
  commit _ _ := bounded_of rfl rfl rfl
  save _ _ := bounded_of rfl rfl rfl
  autosave := autosave_bounded
  committed readBack h := by
    unfold commitDone
    split
    · exact heldSave_bounded (storeAnswer_bounded _ _ (bounded_of rfl rfl rfl h))
    · exact h
  saved readBack h := by
    unfold saveDone
    split
    · exact heldSave_bounded (storeAnswer_bounded _ _ (bounded_of rfl rfl rfl h))
    · exact h
  build := buildOne_bounded
  install _ h := (installPoints_queues _).bounded
    (bounded_plain.keeps.installStations _ (bounded_of rfl rfl rfl h))
  volatile _ _ := ⟨Nat.zero_le _, Nat.zero_le _, Nat.zero_le _⟩
  keep old fresh := ⟨fresh.1, fresh.2.1, old.2.2⟩
  load _ h := (loaded_queues _).bounded h
  reload _ h := (kept_queues _).bounded h

/-! The insert queue as a list (R16). -/

/-- The number of entries of a class in a list of entries. -/
def countOf (c : InsClass) (l : List InsEntry) : Nat := l.countP fun e => e.cls == c

theorem queued_eq (s : State) (c : InsClass) : s.queued c = countOf c s.ring.ins := List.countP_eq_length_filter.symm

theorem countOf_cons (c : InsClass) (e : InsEntry) (l : List InsEntry) :
    countOf c (e :: l) = countOf c l + if e.cls = c then 1 else 0 := by
  unfold countOf
  rw [List.countP_cons]
  simp

theorem countOf_of_perm {l m : List InsEntry} (h : l.Perm m) (c : InsClass) : countOf c l = countOf c m := h.countP_eq _

theorem countOf_eq_zero {c : InsClass} {l : List InsEntry} (h : (l.all fun e => e.cls != c) = true) : countOf c l = 0 := by
  refine List.countP_eq_zero.mpr fun e he => ?_
  simpa using List.all_eq_true.mp h e he

/-- A queue holds at most one test Reference, one Status Notice and one Alarm Notice for each point, and with `n`
reservations it leaves an entry free whenever no test Reference is queued. -/
structure Within (n : Nat) (l : List InsEntry) : Prop where
  test : countOf .testRef l ≤ 1
  status : countOf .status l ≤ 1
  alarm : ∀ p, countOf (.alarm p) l ≤ 1
  room : l.length + n ≤ 15 + countOf .testRef l

/-- Entries stand in order of class. -/
def InOrder (l : List InsEntry) : Prop := l.Pairwise fun a b => a.cls.rank ≤ b.cls.rank

theorem Within.of_perm {n : Nat} {l m : List InsEntry} (h : l.Perm m) (w : Within n l) : Within n m where
  test := (countOf_of_perm h _).symm ▸ w.test
  status := (countOf_of_perm h _).symm ▸ w.status
  alarm p := (countOf_of_perm h _).symm ▸ w.alarm p
  room := h.length_eq ▸ countOf_of_perm h .testRef ▸ w.room

theorem Within.mono {n m : Nat} {l : List InsEntry} (h : m ≤ n) (w : Within n l) : Within m l :=
  { w with room := (Nat.add_le_add_left h _).trans w.room }

/-- An entry of a class of which none is queued may join where there is room for it. -/
theorem Within.cons {n m : Nat} {e : InsEntry} {l : List InsEntry} (w : Within n l)
    (unique : (∀ b, e.cls ≠ .response b) → countOf e.cls l = 0)
    (room : l.length + 1 + m ≤ 15 + countOf .testRef (e :: l)) : Within m (e :: l) := by
  have joins : ∀ c, (∀ b, c ≠ .response b) → countOf c l ≤ 1 → countOf c (e :: l) ≤ 1 := by
    intro c hc hl
    rw [countOf_cons]
    split
    · rename_i eq
      rw [← eq, unique (eq ▸ hc)]
    · exact hl
  exact ⟨joins _ (by nofun) w.test, joins _ (by nofun) w.status, fun p => joins _ (by nofun) (w.alarm p), room⟩

theorem insertEntry_perm (e : InsEntry) : ∀ l, (insertEntry e l).Perm (e :: l)
  | [] => .refl _
  | x :: xs => by
    unfold insertEntry
    split
    · exact .refl _
    · exact ((insertEntry_perm e xs).cons x).trans (.swap e x xs)

/-- An entry placed behind those of its own and earlier classes keeps the order of class (R16). -/
theorem insertEntry_inOrder (e : InsEntry) : ∀ {l}, InOrder l → InOrder (insertEntry e l)
  | [], _ => List.pairwise_singleton ..
  | x :: xs, h => by
    obtain ⟨head, tail⟩ := List.pairwise_cons.mp h
    unfold insertEntry
    split
    · rename_i before
      refine List.pairwise_cons.mpr ⟨fun y hy => ?_, h⟩
      rcases List.mem_cons.mp hy with rfl | hy
      · exact Nat.le_of_lt before
      · exact (Nat.le_of_lt before).trans (head y hy)
    · rename_i behind
      refine List.pairwise_cons.mpr ⟨fun y hy => ?_, insertEntry_inOrder e tail⟩
      rcases List.mem_cons.mp ((insertEntry_perm e xs).mem_iff.mp hy) with rfl | hy
      · exact Nat.not_lt.mp behind
      · exact head y hy

/-- The first entry of a queue may leave it. -/
theorem Within.tail {n : Nat} {e : InsEntry} {l : List InsEntry} (w : Within n (e :: l)) : Within n l := by
  have less : ∀ c, countOf c l ≤ countOf c (e :: l) := fun c => by rw [countOf_cons]; exact Nat.le_add_right ..
  refine ⟨(less _).trans w.test, (less _).trans w.status, fun p => (less _).trans (w.alarm p), ?_⟩
  have room := w.room
  rw [countOf_cons, List.length_cons] at room
  by_cases k : e.cls = .testRef
  · rw [if_pos k] at room; omega
  · rw [if_neg k] at room; omega

theorem countOf_noTest (l : List InsEntry) : countOf .testRef (l.filter fun e => !e.isTest) = 0 := by
  refine List.countP_eq_zero.mpr fun e he => ?_
  have kept := (List.mem_filter.mp he).2
  unfold InsEntry.isTest at kept
  simpa using kept

/-- A queue stays within its bounds without its test References (R17). -/
theorem Within.withdrawn {n : Nat} {l : List InsEntry} (w : Within n l) : Within n (l.filter fun e => !e.isTest) := by
  have less : ∀ c, countOf c (l.filter fun e => !e.isTest) ≤ countOf c l := fun c =>
    List.filter_sublist.countP_le
  refine ⟨(less _).trans w.test, (less _).trans w.status, fun p => (less _).trans (w.alarm p), ?_⟩
  have split := List.length_eq_length_filter_add (l := l) fun e => e.cls == .testRef
  have tests : (l.filter fun e => e.cls == .testRef).length = countOf .testRef l := List.countP_eq_length_filter.symm
  have rest : (l.filter fun e => !e.isTest) = l.filter fun e => !(e.cls == .testRef) := rfl
  rw [countOf_noTest, rest]
  have room := w.room
  omega

/-! The insert queue of a state (R16). -/

/-- The insert queue is sound while `k` further entries are reserved for answers of requests admitted (R11). -/
structure InsertSound (k : Nat) (s : State) : Prop where
  order : InOrder s.ring.ins
  within : Within s.ring.reserved s.ring.ins
  owed : s.ring.reserved = (if s.store.answer.isSome then 1 else 0) + k
  idle : s.store.state = .idle → s.store.answer = none

theorem insertQueueSound_iff (s : State) : InsertQueueSound s ↔ InsertSound 0 s := by
  unfold InsertQueueSound
  simp only [queued_eq]
  exact ⟨fun ⟨order, test, status, alarm, owed, idle, room⟩ => ⟨order, ⟨test, status, alarm, room⟩, owed, idle⟩,
    fun ⟨order, ⟨test, status, alarm, room⟩, owed, idle⟩ => ⟨order, test, status, alarm, owed, idle, room⟩⟩

namespace InsertSound

variable {k : Nat}

theorem of_eq {s t : State} (h : InsertSound k s) (ins : t.ring.ins = s.ring.ins)
    (reserved : t.ring.reserved = s.ring.reserved) (store : t.store.state = s.store.state)
    (answer : t.store.answer = s.store.answer) : InsertSound k t := by
  obtain ⟨order, within, owed, idle⟩ := h
  constructor
  · rw [ins]; exact order
  · rw [ins, reserved]; exact within
  · rw [reserved, answer]; exact owed
  · rw [store, answer]; exact idle

/-- Another insert queue in order and within its bounds, with the reservations as they were. -/
theorem of_ins {s t : State} (h : InsertSound k s) (order : InOrder t.ring.ins)
    (within : Within s.ring.reserved t.ring.ins) (reserved : t.ring.reserved = s.ring.reserved)
    (store : t.store = s.store) : InsertSound k t := by
  constructor
  · exact order
  · rw [reserved]; exact within
  · rw [reserved, store]; exact h.owed
  · rw [store]; exact h.idle

theorem of_view {s t : State} (v : QueueView s t) (h : InsertSound k s) : InsertSound k t :=
  h.of_eq (congrArg Ring.ins v.ring) (congrArg Ring.reserved v.ring) v.store v.answer

theorem choose {s : State} (h : InsertSound k s) : InsertSound k (choose s) := by
  unfold Machine.choose
  dsimp only
  split
  · rename_i e rest fwd ins
    split
    · have order := h.order
      have within := h.within
      rw [ins] at order within
      exact h.of_ins (List.pairwise_cons.mp order).2 within.tail rfl rfl
    · exact h.of_eq rfl rfl rfl rfl
  · exact h.of_eq rfl rfl rfl rfl
  · exact h.of_eq rfl rfl rfl rfl

theorem chooseIfIdle {s : State} (h : InsertSound k s) : InsertSound k (chooseIfIdle s) := by
  unfold Machine.chooseIfIdle
  split
  · exact h.choose
  · exact h

theorem insert {e : InsEntry} {s t : State} (order : InOrder s.ring.ins) (within : Within t.ring.reserved (e :: s.ring.ins))
    (ins : t.ring.ins = insertEntry e s.ring.ins) (owed : t.ring.reserved = (if t.store.answer.isSome then 1 else 0) + k)
    (idle : t.store.state = .idle → t.store.answer = none) : InsertSound k t where
  order := by rw [ins]; exact insertEntry_inOrder e order
  within := by rw [ins]; exact within.of_perm (insertEntry_perm e _).symm
  owed := owed
  idle := idle

/-- An entry joins when none of its class is queued, answers aside, and there is room for it. -/
theorem join {e : InsEntry} {s : State} (h : InsertSound k s)
    (unique : (∀ b, e.cls ≠ .response b) → countOf e.cls s.ring.ins = 0)
    (room : s.ring.ins.length + 1 + s.ring.reserved ≤ 15 + countOf .testRef (e :: s.ring.ins)) :
    InsertSound k (joinInsert e s) :=
  chooseIfIdle (insert h.order (h.within.cons unique room) rfl h.owed h.idle)

theorem withdrawn {s t : State} (h : InsertSound k s) (ins : t.ring.ins = s.ring.ins.filter fun e => !e.isTest)
    (reserved : t.ring.reserved = s.ring.reserved) (store : t.store = s.store) : InsertSound k t :=
  h.of_ins (by rw [ins]; exact h.order.filter _) (by rw [ins]; exact h.within.withdrawn) reserved store

/-- A test Reference that takes the place of the one queued joins always: with none queued an entry is free (R16, R17). -/
theorem testRef {e : InsEntry} (test : e.cls = .testRef) {s : State} (h : InsertSound k s) :
    InsertSound k (handTestRef e s) := by
  have rest : InsertSound k { s with ring := { s.ring with ins := s.ring.ins.filter fun x => !x.isTest } } :=
    h.withdrawn rfl rfl rfl
  have room := rest.within.room
  refine rest.join (fun _ => by rw [test]; exact countOf_noTest _) ?_
  rw [countOf_cons, if_pos test]
  omega

theorem forward (f : Frame) (taken : List Byte) {s : State} (h : InsertSound k s) :
    InsertSound k (forward f taken s) := by
  unfold Machine.forward
  split
  · exact h.of_eq rfl rfl rfl rfl
  · exact chooseIfIdle (h.of_eq rfl rfl rfl rfl)

theorem countSent {s : State} (h : InsertSound k s) : InsertSound k (countSent s) := by
  unfold Machine.countSent
  dsimp only
  repeat' split
  all_goals exact h.of_eq rfl rfl rfl rfl

/-- An admitted request's answer takes the entry reserved for it (R11). -/
theorem answer (rq : Requester) (st : Status) (results : List Byte) (b : Bool) {s : State} (h : InsertSound 1 s) :
    InsertSound 0 (answer rq st results b s) := by
  obtain ⟨order, within, owed, idle⟩ := h
  have room := within.room
  refine chooseIfIdle (insert order (within.cons (fun k => absurd rfl (k b)) ?_) rfl (by dsimp only; rw [owed]; rfl) idle)
  rw [countOf_cons]
  dsimp only
  omega

/-- A request is admitted when two entries are free, and one of them is reserved for its answer (R11). -/
theorem reserve (f : Frame) {s : State} (h : InsertSound 0 s) (free : 2 ≤ s.freeCount) :
    InsertSound 1 (takeArrival f s) := by
  obtain ⟨order, ⟨test, status, alarm, -⟩, owed, idle⟩ := h
  have room : s.ring.ins.length + (s.ring.reserved + 1) ≤ 15 := by
    have size : s.freeCount = 16 - s.ring.ins.length - s.ring.reserved := rfl
    omega
  exact ⟨order, ⟨test, status, alarm, room.trans (Nat.le_add_right ..)⟩, congrArg (· + 1) owed, idle⟩

/-- With the store idle an answer owed at a completion takes over the reservation. -/
theorem storeBusy {s t : State} {rq : Requester} (h : InsertSound 1 s) (free : s.store.state = .idle) (ring : t.ring = s.ring)
    (store : t.store.state ≠ .idle) (answer : t.store.answer = some rq) : InsertSound 0 t where
  order := by rw [ring]; exact h.order
  within := by rw [ring]; exact h.within
  owed := by rw [ring, answer, h.owed, h.idle free]; rfl
  idle e := absurd e store

theorem autosave {s : State} (h : InsertSound k s) : InsertSound k (autosave s) := by
  unfold Machine.autosave
  split
  · exact h.of_eq rfl rfl rfl rfl
  · rename_i free
    have none := h.idle (storeIdle_of free)
    have owed := h.owed
    rw [none] at owed
    exact ⟨h.order, h.within, owed, fun _ => rfl⟩

theorem heldSave {s : State} (h : InsertSound k s) : InsertSound k (heldSave s) := by
  unfold Machine.heldSave
  split
  · exact h.autosave
  · exact h

/-- A store operation ends, and its answer, if one is owed, takes the entry reserved for it (R199, R200). -/
theorem storeEnd (ok : Bool) {s t : State} (h : InsertSound 0 s) (ring : t.ring = s.ring) :
    InsertSound 0 (storeAnswer s.store.answer ok (storeEnd ok t)) := by
  have ended : ∀ j, s.ring.reserved = j → InsertSound j (Machine.storeEnd ok t) := by
    intro j e
    refine ⟨?_, ?_, ?_, fun _ => rfl⟩
    · show InOrder t.ring.ins; rw [ring]; exact h.order
    · show Within t.ring.reserved t.ring.ins; rw [ring]; exact h.within
    · show t.ring.reserved = 0 + j; rw [ring, e, Nat.zero_add]
  have owed := h.owed
  unfold storeAnswer
  split
  · rename_i e
    rw [e] at owed
    exact (ended 1 owed).answer ..
  · rename_i e
    rw [e] at owed
    exact ended 0 owed

theorem commitDone (readBack : List Byte) {s : State} (h : InsertSound 0 s) : InsertSound 0 (commitDone readBack s) := by
  have ended := h.storeEnd (readBack == s.store.image) (t := { s with
    store := { s.store with tablesRegion := .bytes readBack }
    tables := { s.tables with committed := readBack == s.store.image } }) rfl
  unfold Machine.commitDone
  split
  · exact ended.heldSave
  · exact h

theorem saveDone (readBack : List Byte) {s : State} (h : InsertSound 0 s) : InsertSound 0 (saveDone readBack s) := by
  have ended := h.storeEnd (readBack == s.store.image) (t := { s with store := { s.store with
    attrsRegion := .bytes readBack, attrsLost := s.store.attrsLost && !(readBack == s.store.image) } }) rfl
  unfold Machine.saveDone
  split
  · exact ended.heldSave
  · exact h

/-- A notice is built when four entries are free and none of its class is queued (R18). -/
theorem notice {e : InsEntry} {s t : State} (h : InsertSound 0 s) (room : s.noticeRoom = true)
    (unique : countOf e.cls s.ring.ins = 0) (ring : t.ring = s.ring) (store : t.store = s.store) :
    InsertSound 0 (joinInsert e t) := by
  have four : 4 ≤ s.freeCount := of_decide_eq_true (Bool.and_eq_true_iff.mp room).2
  have size : s.freeCount = 16 - s.ring.ins.length - s.ring.reserved := rfl
  have same : InsertSound 0 t := h.of_eq (by rw [ring]) (by rw [ring]) (by rw [store]) (by rw [store])
  refine same.join (fun _ => by rw [ring]; exact unique) ?_
  rw [ring]
  omega

theorem buildOne {s : State} (h : InsertSound 0 s) : InsertSound 0 (buildOne s) := by
  unfold Machine.buildOne
  split
  · rename_i room
    split
    · rename_i status
      exact h.notice room (countOf_eq_zero (Bool.and_eq_true_iff.mp status).2) rfl rfl
    · split
      · rename_i p found
        have buildable := List.find?_some found
        exact h.notice room (countOf_eq_zero (Bool.and_eq_true_iff.mp buildable).2) rfl rfl
      · exact h
  · exact h

end InsertSound

theorem insertSound_plain (k : Nat) : Plain (InsertSound k) where
  view v h := h.of_eq v.ins v.reserved v.store v.answer
  point p st m timer _ := .of_view (setPoint_queues p st m timer _)
  append _ _ h := h.of_eq rfl rfl rfl rfl
  withdraw h := h.withdrawn rfl rfl rfl
  forward f taken := .forward f taken
  choose := .choose
  sent := .countSent
  testRef _ test := .testRef test
  wear _ _ _ _ h := h.of_eq rfl rfl rfl rfl
  renewed _ h := h.of_eq rfl rfl rfl rfl
  consumed _ h := h.of_eq rfl rfl rfl rfl

theorem insertSound_steps : StepKeeps (InsertSound 0) (InsertSound 0) (InsertSound 1) (InsertSound 1) where
  base := (insertSound_plain 0).keeps
  admitted := (insertSound_plain 1).keeps
  skew := (insertSound_plain 0).skewKept
  reserve f := .reserve f
  answer rq st results b := .answer rq st results b
  commit _ free h := h.storeBusy free rfl nofun rfl
  save _ free h := h.storeBusy free rfl nofun rfl
  autosave := .autosave
  committed readBack := .commitDone readBack
  saved readBack := .saveDone readBack
  build := .buildOne
  install _ h := .of_view (installPoints_queues _)
    ((insertSound_plain 1).keeps.installStations _ (h.of_eq rfl rfl rfl rfl))
  volatile _ _ := ⟨.nil, ⟨Nat.zero_le _, Nat.zero_le _, fun _ => Nat.zero_le _, Nat.zero_le _⟩, rfl, fun _ => rfl⟩
  keep _ fresh := fresh.of_eq rfl rfl rfl rfl
  load _ := .of_view (loaded_queues _)
  reload _ := .of_view (kept_queues _)

end Sys2Proof.Machine
end

section
/-!
The obligations of chapter 0 and the invariants.
-/

namespace Sys2Proof.Proofs

open Sys2Proof.Machine

/-- Settles O53: the lines agree with the mode after each elementary operation, and FIELD is de-energised while a trip
event is carried out. -/
theorem linesAgreeInvariant : Obligations.LinesAgreeInvariant := fun _ _ h e =>
  linesAgree_steps.step (fun _ _ _ k => k) h e

/-- Settles O54: a point joins and leaves the active list as its state says. -/
theorem activeListInvariant : Obligations.ActiveListInvariant := fun _ _ h e =>
  activeList_steps.step (fun _ _ _ k => k) h e

/-- Settles O55: no event of the alarm unit sets a TRIP point to SHELVED, and an installation starts every point anew. -/
theorem noTripPointShelvedInvariant : Obligations.NoTripPointShelvedInvariant := fun _ _ h e =>
  noneShelved_steps.step (fun _ _ _ k => k) h e

/-- Settles O56: a skew above its limit in WALKING is held as a trip, and the trip ends WALKING. -/
theorem skewInvariant : Obligations.SkewInvariant := fun _ _ h e =>
  skewWithin_steps.step (fun _ _ _ k => k) h e

/-- Settles O57: a record's new normalised value is a figure of R173 in 1..100, which its worst value follows. -/
theorem wearInvariant : Obligations.WearInvariant := fun _ _ h e =>
  wear_steps.step (fun _ _ _ k => k) h e

/-- Settles O58: each operation that lengthens a queue tests its size, and the arbiter counts to 8 at most. -/
theorem queueBoundsInvariant : Obligations.QueueBoundsInvariant := fun _ _ h e =>
  bounded_steps.step (fun _ _ _ k => k) h e

/-- Settles O59: each entry joins in its place and with room for it, and a reservation stands for each answer owed. -/
theorem insertQueueInvariant : Obligations.InsertQueueInvariant := fun s t h e =>
  (insertQueueSound_iff t).mpr
    (insertSound_steps.step (fun _ _ _ k => k.of_eq rfl rfl rfl rfl) ((insertQueueSound_iff s).mp h) e)

/-- Settles O1: a waiting command is run first. -/
theorem stepRunsFrontCommand : Obligations.StepRunsFrontCommand := by
  intro c rest s front
  unfold step
  rw [front]

/-- Settles O2: the tick queues the timers that are due, each once, and no command touches the queue. -/
theorem tickAndQueue : Obligations.TickAndQueue := by
  refine ⟨fun s empty => ?_, mem_due, fun i s => ?_⟩
  · obtain ⟨due, only⟩ := tick_ticks s
    rw [empty, List.append_nil] at due
    refine ⟨tick s, ?_, only, due.nodup_iff.mpr (due_nodup _), fun c => ?_⟩
    · unfold step
      rw [empty]
    · rw [due.mem_iff, mem_due, empty]
  · exact (waiting_steps s.pending).exec i rfl

/-- Settles O3: State.reset, part by part. -/
theorem resetState : Obligations.ResetState := by
  have channels : ∀ c, State.reset.brakes.get c = resetChannel := fun c => by cases c <;> rfl
  have counters : ∀ c, State.reset.counter c = 0#32 := fun c => by cases c <;> rfl
  have axes : ∀ x, State.reset.feedback.get x = emptyFeedback := fun x => by cases x <;> rfl
  have analog : ∀ ch : Fin 4, State.reset.analog[ch] = resetAin := fun ch => Vector.getElem_replicate ch.isLt
  exact ⟨rfl, rfl, rfl, rfl, rfl, rfl, channels, rfl, rfl, rfl, rfl, rfl, counters, rfl, rfl, axes, analog, rfl, rfl,
    rfl, rfl⟩

/-- Settles O60: after reset nothing is tripped, listed or queued. -/
theorem invariantsHoldAtReset : Obligations.InvariantsHoldAtReset := by
  have points : PointsFresh State.reset := reset_fresh rfl rfl
  have inserts : InsertSound 0 State.reset :=
    ⟨.nil, ⟨Nat.zero_le _, Nat.zero_le _, fun _ => Nat.zero_le _, Nat.zero_le _⟩, rfl, fun _ => rfl⟩
  exact ⟨⟨⟨nofun, nofun⟩, fun _ => rfl, fun _ => rfl, rfl⟩, points.activeList, points.noneShelved, ⟨rfl, nofun⟩,
    lost_inRange rfl, ⟨Nat.zero_le _, Nat.zero_le _, Nat.zero_le _⟩, (insertQueueSound_iff _).mpr inserts⟩

end Sys2Proof.Proofs
end

section
/-!
SUPPORT. Frames at IN: the frames removed by the stages of R8 and R9, and the dispatch of those that pass.
-/

namespace Sys2Proof.Machine

/-- FRAME_TAKEN_AT_IN takes the frame that the bytes are, if they are one (R2, R8). -/
theorem exec_frameTakenAtIn (bytes : List Byte) (s : State) :
    exec (.frameTakenAtIn bytes) s = .next (finish (takeFrame (parseFrame bytes) s)) := rfl

/-- A frame that passes R8 and R9 is dispatched (R10). -/
theorem exec_frame_passes {bytes : List Byte} {f : Frame} {s : State} (h : parseFrame bytes = some f)
    (k : s.passes f = true) : exec (.frameTakenAtIn bytes) s = .next (finish (dispatch f (received f s))) := by
  rw [exec_frameTakenAtIn, h, takeFrame_passes k]

@[simp] theorem finish_source (s : State) (c : Nat) : (finish s).source c = s.source c := by
  unfold State.source
  rw [finish_alarm]

@[simp] theorem bump_source (d : Counter) (s : State) (c : Nat) : (bump d s).source c = s.source c := rfl

/-! What counting a frame and restarting the silence timer leave (R8, R24). -/

theorem heard_silence (s : State) : (heard s).ring.silence = some (s.now + 50) := by
  unfold heard silenceRestart
  dsimp only
  split
  · exact (feed_kept ..).silence
  · rfl

theorem heard_counter (c : Counter) (s : State) : (heard s).counter c = (bump .taken s).counter c := by
  unfold heard silenceRestart
  dsimp only
  split
  · exact (feed_kept ..).counter c
  · rfl

theorem heard_source_78 (s : State) :
    (s.ring.silence = none → (heard s).source 78 = { value := 0, valid := true })
      ∧ (s.ring.silence ≠ none → (heard s).source 78 = s.source 78) := by
  unfold heard silenceRestart
  dsimp only
  constructor
  · intro h
    rw [if_pos (by rw [bump_silence, h]; rfl)]
    exact feed_source_same (by decide) (by decide) (by decide) (by decide) (by decide) ..
  · intro h
    rw [if_neg (by rw [bump_silence]; simpa using h)]
    rfl

theorem heard_onlyRing {s : State} (h : s.ring.silence.isSome = true) : OnlyRing s (heard s) := by
  unfold heard silenceRestart
  dsimp only
  rw [if_neg (by rw [bump_silence]; simpa using Option.ne_none_iff_isSome.mpr h)]
  rfl

/-! Removal by the stages of R8 and R9. -/

theorem heard_ownByte (s : State) : (heard s).ownByte = s.ownByte := by
  unfold State.ownByte
  rw [heard_own]

/-- Where the last sequence of a frame's source is its own, the frame is removed as a duplicate (R9). -/
theorem arrive_duplicate {f : Frame} {s : State} {e : Fin 16} {r : StationRun} (h : s.sourceRun f = some (e, r))
    (k : r.lastSeq = some f.seq) : arrive f s = bump .removedDuplicate s := by
  obtain ⟨d, entry, running⟩ := Option.bind_eq_some_iff.mp h
  obtain ⟨q, station, eq⟩ := Option.map_eq_some_iff.mp running
  cases eq
  unfold arrive
  rw [entry]
  dsimp only
  rw [station]
  dsimp only
  rw [if_pos (by unfold isDuplicate; rw [k]; exact beq_self_eq_true _)]

/-- Bytes that a stage of R8 or R9 removes are counted, and counted under that stage's counter. -/
theorem takeFrame_removed {bytes : List Byte} {s : State} {c : Counter}
    (h : (parseFrame bytes = none ∧ c = .removedCheck)
      ∨ ∃ f, parseFrame bytes = some f ∧
          (((frameOk f && formOk f) = false ∧ c = .removedCheck)
            ∨ ((frameOk f && formOk f) = true ∧ f.src = s.ownByte ∧ c = .returnedOwn)
            ∨ ((frameOk f && formOk f) = true ∧ f.src ≠ s.ownByte ∧ f.life = 0#4 ∧ c = .removedLife)
            ∨ ((frameOk f && formOk f) = true ∧ f.src ≠ s.ownByte ∧ f.life ≠ 0#4 ∧ c = .removedDuplicate
                ∧ ∃ e r, s.sourceRun f = some (e, r) ∧ r.lastSeq = some f.seq))) :
    takeFrame (parseFrame bytes) s = bump c (heard s) ∧ c ≠ .taken := by
  rcases h with ⟨parsed, rfl⟩ | ⟨f, parsed, stage⟩
  · rw [parsed]
    exact ⟨rfl, nofun⟩
  · rw [parsed]
    show checkFrame f (heard s) = _ ∧ _
    unfold checkFrame
    rw [heard_ownByte]
    rcases stage with ⟨bad, rfl⟩ | ⟨good, own, rfl⟩ | ⟨good, other, life, rfl⟩ | ⟨good, other, life, rfl, e, r, run, last⟩
    · simp [bad]
    · simp [good, own]
    · simp [good, other, life]
    · rw [← heard_sourceRun] at run
      simp [good, other, life, arrive_duplicate run last]

/-! The dispatch of a frame not addressed to the M4 (R10). -/

theorem kind_ne_toNat {f : Frame} {n : Nat} (hn : n < 16) (h : f.kind ≠ BitVec.ofNat 4 n) : f.kind.toNat ≠ n := fun e =>
  h (BitVec.eq_of_toNat_eq (by rw [e, BitVec.toNat_ofNat, Nat.mod_eq_of_lt hn]))

/-- A frame of a kind that no block of the M4 reads is forwarded as it came (R10, R12). -/
theorem dispatch_forwards {f : Frame} {s : State} (away : s.addressed f = false) (own : s.takesGeneralCall f = false)
    (h1 : f.kind ≠ 1#4) (h2 : f.kind ≠ 2#4) (h3 : f.kind ≠ 3#4) : dispatch f s = forward f f.payload s := by
  unfold State.addressed at away
  unfold dispatch
  rw [away, own]
  show passing f s = _
  unfold passing
  split
  · rename_i e; exact absurd e (kind_ne_toNat (by decide) h1)
  · rename_i e; exact absurd e (kind_ne_toNat (by decide) h2)
  · rename_i e; exact absurd e (kind_ne_toNat (by decide) h3)
  · rfl

end Sys2Proof.Machine
end

section
/-!
The obligations of chapter 1 on frames at IN.
-/

namespace Sys2Proof.Proofs

open Sys2Proof.Machine

/-- Settles O5: the bytes of a frame are those it goes out as, and a frame row takes the frame it spells. -/
theorem wireBytes : Obligations.WireBytes := by
  refine ⟨parseFrame_iff, wireBytes_eq, rfl, crc16_append, fun i f s row fits => ?_⟩
  rw [exec_row row, exec_frameTakenAtIn, (parseFrame_iff _ f).mpr ⟨fits, rfl⟩]

/-- Settles O6: a frame removed by a stage of R8 or R9 is counted, and restarts the silence timer. -/
theorem framesRemovedByStage : Obligations.FramesRemovedByStage := by
  refine ⟨frameOk_iff, formOk_iff, parseAction_iff, fun bytes s c stage => ?_⟩
  obtain ⟨removed, other⟩ := takeFrame_removed stage
  have kept := heard_kept s
  refine ⟨_, exec_frameTakenAtIn bytes s, ?_⟩
  rw [removed]
  refine ⟨?_, ?_, fun d hd hc => ?_, ?_, ?_, fun h => ?_, fun h => ?_, ?_, ?_, ?_, ?_, ?_, ?_, fun h => ?_⟩
  · rw [finish_counter, bump_counter_ne _ other, heard_counter, bump_counter_same]
  · rw [finish_counter, bump_counter_same, heard_counter, bump_counter_ne _ other.symm]
  · rw [finish_counter, bump_counter_ne _ hc.symm, heard_counter, bump_counter_ne _ hd.symm]
  · rw [finish_fwd, bump_fwd, heard_fwd]
  · rw [finish_silence, bump_silence, heard_silence]
  · rw [finish_source, bump_source, (heard_source_78 s).1 h]
  · rw [finish_source, bump_source, (heard_source_78 s).2 h]
  · simp [heard_stations]
  · simp [kept.feedback]
  · simp [kept.sensors]
  · simp [heard_tables]
  · simp [kept.store]
  · simp [kept.attrs]
  · have counted : OnlyRing s (bump c (heard s)) := by
      have only := heard_onlyRing h
      unfold OnlyRing at only ⊢
      rw [bump_ring, only]
    have finished := finish_onlyRing (bump c (heard s))
    unfold OnlyRing at counted finished ⊢
    rw [finished, counted]

/-- Settles O7: a frame of a kind no block reads joins the forward queue as it came, with its life lowered. -/
theorem passingFramesAreForwarded : Obligations.PassingFramesAreForwarded := by
  intro bytes f s parsed passes away own h1 h2 h3
  refine ⟨_, exec_frame_passes parsed passes, ?_⟩
  rw [dispatch_forwards away own h1 h2 h3]
  refine ⟨finish_forward_onlyRing .., fun room => ?_, fun full => ?_⟩
  · rw [finish_fwd, forward_fwd (by rw [received_fwd]; exact room), received_fwd]
  · rw [forward_full (by rw [received_fwd]; exact full)]
    exact ⟨by rw [finish_fwd, bump_fwd, received_fwd], by rw [finish_counter, bump_counter_same]⟩

end Sys2Proof.Proofs
end

section
/-!
SUPPORT. Arrivals, and the frames addressed to the M4 that it turns away (R9 to R11).
-/

namespace Sys2Proof.Machine

/-! Arrivals. -/

/-- The state of an arrival before the entry's return to FRESH: a gap counted and the entry's running state set (R9). -/
def arrived (e : Fin 16) (r : StationRun) (seq : Byte) (s : State) : State :=
  (if isGap r seq then bump .seqGaps s else s).setStation e
    (some (arrivalRun r seq s.now (s.act.stations[e]).timeout))

theorem arrival_eq (e : Fin 16) (r : StationRun) (seq : Byte) (s : State) :
    arrival e r seq s = if r.fresh = .fresh then arrived e r seq s
      else freshnessChange e r.fresh .fresh (arrived e r seq s) := by
  unfold arrival arrived
  cases isGap r seq <;> rfl

theorem arrival_kept (e : Fin 16) (r : StationRun) (seq : Byte) (s : State) :
    TripKept (arrived e r seq s) (arrival e r seq s) := by
  rw [arrival_eq]
  split
  · exact .refl _
  · rename_i h
    exact freshnessChange_fresh_kept e h _

theorem arrived_reserved (e : Fin 16) (r : StationRun) (seq : Byte) (s : State) :
    (arrived e r seq s).ring.reserved = s.ring.reserved := by
  unfold arrived
  split <;> rfl

/-- A frame taken at IN finds the reservations as they were when it is dispatched (R8, R9). -/
@[simp] theorem received_reserved (f : Frame) (s : State) : (received f s).ring.reserved = s.ring.reserved := by
  unfold received
  split
  · exact ((arrival_kept ..).reserved.trans (arrived_reserved ..)).trans (heard_kept s).reserved
  · exact (heard_kept s).reserved

/-! Frames addressed to the M4 (R10, R11). -/

theorem dispatch_action {f : Frame} {s : State} (h : s.addressed f = true) (k : f.kind = 4#4) :
    dispatch f s = takeAction f s := by
  unfold State.addressed at h
  unfold dispatch
  rw [if_pos h, k]
  rfl

theorem dispatch_request {f : Frame} {s : State} (h : s.addressed f = true) (k : f.kind = 5#4) :
    dispatch f s = takeRequest f s := by
  unfold State.addressed at h
  unfold dispatch
  rw [if_pos h, k]
  rfl

theorem dispatch_misaddressed {f : Frame} {s : State} (h : s.addressed f = true) (h4 : f.kind ≠ 4#4) (h5 : f.kind ≠ 5#4) :
    dispatch f s = bump .removedMisaddressed s := by
  unfold State.addressed at h
  unfold dispatch
  rw [if_pos h]
  split
  · rename_i e; exact absurd e (kind_ne_toNat (by decide) h4)
  · rename_i e; exact absurd e (kind_ne_toNat (by decide) h5)
  · rfl

/-- A frame addressed to the M4 that it does not take is counted, and nothing else (R10, R11). -/
theorem dispatch_turnsAway {f : Frame} {s : State} {c : Counter} (h : s.addressed f = true)
    (k : (f.kind ≠ 4#4 ∧ f.kind ≠ 5#4 ∧ c = .removedMisaddressed)
      ∨ (f.kind = 4#4 ∧ s.consoleOk f = false ∧ c = .removedUnauthorised)
      ∨ (f.kind = 5#4 ∧ s.freeCount < 2 ∧ c = .requestsNotTaken)) : dispatch f s = bump c s := by
  rcases k with ⟨h4, h5, rfl⟩ | ⟨kind, console, rfl⟩ | ⟨kind, room, rfl⟩
  · exact dispatch_misaddressed h h4 h5
  · rw [dispatch_action h kind]
    unfold takeAction
    unfold State.consoleOk at console
    rw [console]
    rfl
  · rw [dispatch_request h kind]
    unfold takeRequest
    rw [if_pos (by exact room)]

/-- A request from a station that may not send it is answered NOT_AUTHORISED (R11, R191). -/
theorem takeRequest_notAuthorised {f : Frame} {s : State} (room : 2 ≤ s.freeCount) (h : s.managerOk f = false) :
    takeRequest f s = answer (requesterOf f s) .notAuthorised [] false (takeArrival f s) := by
  unfold takeRequest
  rw [if_neg (by exact Nat.not_lt.mpr room)]
  unfold State.managerOk at h
  dsimp only
  rw [if_neg (by
    show ¬(!s.tables.valid || s.hasRole f.src .manager) = true
    rw [h]
    decide)]

theorem finish_bump_onlyRing (c : Counter) (s : State) : OnlyRing s (finish (bump c s)) := by
  have finished := finish_onlyRing (bump c s)
  unfold OnlyRing at finished ⊢
  rw [finished, bump_ring]

end Sys2Proof.Machine
end

section
/-!
The obligation of chapter 1 on frames turned away.
-/

namespace Sys2Proof.Proofs

open Sys2Proof.Machine

/-- Settles O9: a frame turned away is counted, and a bad or unauthorised request answered so. -/
theorem turnedAwayAtTheM4 : Obligations.TurnedAwayAtTheM4 := by
  refine ⟨fun bytes f s c parsed passes own turned => ?_, requestOf_none_iff, fun h payload s u f hf hu => ⟨?_, ?_⟩⟩
  · refine ⟨_, exec_frame_passes parsed passes, ?_⟩
    rw [dispatch_turnsAway own turned]
    exact ⟨finish_bump_onlyRing .., by rw [finish_counter, bump_counter_same],
      by rw [finish_fwd, bump_fwd, received_fwd], by rw [finish_reserved, bump_reserved, received_reserved]⟩
  · subst hf hu
    intro taken bad
    refine ⟨_, exec_row (i := .unknownRequest h payload) rfl s, ?_⟩
    rw [takeFrame_requests rfl taken, bad]
    exact ⟨finish_answer .., finish_answer_onlyRing ..⟩
  · subst hf hu
    intro passes own room unauthorised
    refine ⟨_, exec_row (i := .unknownRequest h payload) rfl s, ?_⟩
    rw [takeFrame_passes passes, dispatch_request own rfl, takeRequest_notAuthorised room unauthorised]
    exact ⟨finish_answer .., finish_answer_onlyRing ..⟩

end Sys2Proof.Proofs
end

section
/-!
SUPPORT. Freshness (R21 to R23): what a change of an entry's freshness hands on, by its role, and what it leaves.
-/

namespace Sys2Proof.Machine

/-! A change of freshness by role (R23). -/

/-- The hand-offs of every change of an entry's freshness: its source, and from FRESH its sensor values (R14, R23). -/
def freshnessHanded (e : Fin 16) (old new : Fresh) (s : State) : State :=
  if old = .fresh then dropSensors e (feed (38 + e.val) new.code true none s) else feed (38 + e.val) new.code true none s

theorem freshnessHanded_fresh (e : Fin 16) (new : Fresh) (s : State) :
    freshnessHanded e .fresh new s = dropSensors e (feed (38 + e.val) new.code true none s) := if_pos rfl

theorem freshnessHanded_of_ne (e : Fin 16) {old : Fresh} (h : old ≠ .fresh) (new : Fresh) (s : State) :
    freshnessHanded e old new s = feed (38 + e.val) new.code true none s := if_neg h

theorem freshCode_fresh : ((Fresh.code .fresh : Nat) : Int) = 0 := rfl

theorem freshCode_stale : ((Fresh.code .stale : Nat) : Int) = 1 := rfl

theorem freshCode_lost : ((Fresh.code .lost : Nat) : Int) = 2 := rfl

theorem freshnessChange_drive {e : Fin 16} {s : State} (h : (s.act.stations[e]).role = .drive) (old new : Fresh) :
    freshnessChange e old new s
      = prepRetest (driveChange e (s.act.stations[e]).axis new (freshnessHanded e old new s)) := by
  unfold freshnessChange
  dsimp only
  rw [if_pos h, if_pos (.inl h)]
  rfl

theorem freshnessChange_sensor {e : Fin 16} {s : State} (h : (s.act.stations[e]).role = .sensor) (old new : Fresh) :
    freshnessChange e old new s = prepRetest (freshnessHanded e old new s) := by
  unfold freshnessChange
  dsimp only
  rw [if_pos (.inr h), if_neg (by rw [h]; decide)]
  rfl

theorem freshnessChange_station {e : Fin 16} {s : State}
    (h : (s.act.stations[e]).role = .console ∨ (s.act.stations[e]).role = .manager) (old new : Fresh) :
    freshnessChange e old new s = freshnessHanded e old new s := by
  unfold freshnessChange
  dsimp only
  rw [if_neg (by rcases h with h | h <;> rw [h] <;> decide), if_neg (by rcases h with h | h <;> rw [h] <;> decide)]
  rfl

/-- The hand-offs that name an axis are not made for an entry without one (log 55). -/
theorem driveChange_no_axis (e : Fin 16) (s : State) : driveChange e none .fresh s = initTest s
    ∧ driveChange e none .stale s = s ∧ driveChange e none .lost s = lostTrip e s := ⟨rfl, rfl, rfl⟩

theorem driveChange_axis (e : Fin 16) (x : Axis) (s : State) : driveChange e (some x) .fresh s = initTest (skewAgain x s)
    ∧ driveChange e (some x) .stale s = testStale (chanOf x) (staleSet (chanOf x) (skewAgain x (dropAxis x s)))
    ∧ driveChange e (some x) .lost s = lostTrip e (skewAgain x (dropAxis x s)) := ⟨rfl, rfl, rfl⟩

/-! The freshness timer's expiries (R22). -/

theorem exec_freshnessTimerExpiry (e : Fin 16) (s : State) :
    exec (.freshnessTimerExpiry e) s = .next (finish (freshnessOut e s)) := rfl

section
variable {e : Fin 16} {s : State} {r : StationRun}

theorem freshnessOut_stopped (h : s.stations[e] = some r) (k : s.expired r.timer = false) : freshnessOut e s = s := by
  unfold freshnessOut
  rw [h]
  dsimp only
  rw [if_neg (by rw [k]; decide)]

theorem freshnessOut_first (h : s.stations[e] = some r) (k : s.expired r.timer = true) (n : r.expiries = 0) :
    freshnessOut e s = freshnessChange e r.fresh .stale (s.setStation e
      (some { r with expiries := 1, fresh := .stale, timer := some (s.now + (s.act.stations[e]).timeout) })) := by
  unfold freshnessOut
  rw [h]
  dsimp only
  rw [if_pos k, n]
  rfl

theorem freshnessOut_second (h : s.stations[e] = some r) (k : s.expired r.timer = true) (n : r.expiries = 1) :
    freshnessOut e s = s.setStation e
      (some { r with expiries := 2, timer := some (s.now + (s.act.stations[e]).timeout) }) := by
  unfold freshnessOut
  rw [h]
  dsimp only
  rw [if_pos k, n]
  rfl

theorem freshnessOut_later (h : s.stations[e] = some r) (k : s.expired r.timer = true) (n : 2 ≤ r.expiries) :
    freshnessOut e s = freshnessChange e r.fresh .lost (s.setStation e
      (some { r with expiries := 3, fresh := .lost, timer := none, lastSeq := none })) := by
  unfold freshnessOut
  rw [h]
  dsimp only
  rw [if_pos k]
  split
  · omega
  · omega
  · rfl

end

/-! What a change of freshness leaves of the records. -/

/-- The station, feedback and table records are as they were. -/
structure RecordsKept (s t : State) : Prop where
  stations : t.stations = s.stations
  feedback : t.feedback = s.feedback
  tables : t.tables = s.tables

theorem RecordsKept.refl (s : State) : RecordsKept s s := ⟨rfl, rfl, rfl⟩

theorem RecordsKept.trans {a b c : State} (h : RecordsKept a b) (k : RecordsKept b c) : RecordsKept a c :=
  ⟨k.stations.trans h.stations, k.feedback.trans h.feedback, k.tables.trans h.tables⟩

theorem TripKept.records {s t : State} (h : TripKept s t) : RecordsKept s t := ⟨h.stations, h.feedback, h.tables⟩

theorem RecordsKept.foldl {β : Type} {f : State → β → State} (h : ∀ s b, RecordsKept s (f s b)) (l : List β) :
    ∀ s, RecordsKept s (l.foldl f s) := by
  induction l with
  | nil => exact .refl
  | cons b l ih => exact fun s => (h s b).trans (ih _)

theorem dropSensors_records (e : Fin 16) (s : State) : RecordsKept s (dropSensors e s) := by
  refine .foldl (fun s ch => ?_) _ s
  unfold dropSensor
  dsimp only
  split
  · have dropped : RecordsKept s { s with sensors := s.sensors.set ch { (s.sensors[ch]) with valid := false } } :=
      ⟨rfl, rfl, rfl⟩
    exact dropped.trans (feed_kept ..).records
  · exact .refl s

theorem dropAxis_kept (x : Axis) (s : State) : TripKept s (dropAxis x s) :=
  ((feed_kept ..).trans (feed_kept ..)).trans (feed_kept ..)

theorem endTest_kept (st : TestStatus) (c : Option Chan) (s : State) : TripKept s (endTest st c s) := by
  unfold endTest
  dsimp only
  split
  · exact (endRecord_kept st c s).trans (changeMode_kept ..)
  · exact endRecord_kept st c s

theorem testStale_kept (c : Chan) (s : State) : TripKept s (testStale c s) := by
  unfold testStale
  split
  · exact (withdrawTest_kept s).trans (endTest_kept ..)
  · exact .refl s

theorem onAxis_kept {f : Axis → State → State} (h : ∀ x s, TripKept s (f x s)) (x : Option Axis) (s : State) :
    TripKept s (onAxis x f s) := by
  cases x with
  | none => exact .refl s
  | some x => exact h x s

theorem driveChange_kept (e : Fin 16) (x : Option Axis) (new : Fresh) (s : State) :
    TripKept s (driveChange e x new s) := by
  have dropped : ∀ x s, TripKept s (skewAgain x (dropAxis x s)) := fun x s =>
    (dropAxis_kept x s).trans (skewAgain_kept x _)
  unfold driveChange
  split
  · exact (onAxis_kept skewAgain_kept x s).trans (initTest_kept _)
  · exact onAxis_kept (fun x s => ((dropped x s).trans (staleSet_kept ..)).trans (testStale_kept ..)) x s
  · have lost := onAxis_kept dropped x s
    unfold lostTrip
    split
    all_goals first | exact lost | exact lost.trans (handTrip_kept ..)

theorem freshnessHanded_records (e : Fin 16) (old new : Fresh) (s : State) :
    RecordsKept s (freshnessHanded e old new s) := by
  have fed : RecordsKept s (feed (38 + e.val) new.code true none s) := (feed_kept ..).records
  unfold freshnessHanded
  split
  · exact fed.trans (dropSensors_records e _)
  · exact fed

theorem freshnessChange_records (e : Fin 16) (old new : Fresh) (s : State) :
    RecordsKept s (freshnessChange e old new s) := by
  have handed := freshnessHanded_records e old new s
  cases role : (s.act.stations[e]).role with
  | drive =>
    rw [freshnessChange_drive role]
    exact (handed.trans (driveChange_kept ..).records).trans (prepRetest_kept _).records
  | sensor =>
    rw [freshnessChange_sensor role]
    exact handed.trans (prepRetest_kept _).records
  | console =>
    rw [freshnessChange_station (.inl role)]
    exact handed
  | manager =>
    rw [freshnessChange_station (.inr role)]
    exact handed

theorem arrival_stations (e : Fin 16) (r : StationRun) (seq : Byte) (s : State) :
    (arrival e r seq s).stations
      = s.stations.set e (some (arrivalRun r seq s.now (s.act.stations[e]).timeout)) := by
  rw [(arrival_kept ..).stations]
  unfold arrived
  split <;> rfl

/-! Sensor values and sources dropped (R14, R125). -/

/-- An entry has written the valid value of a sensor channel (R14). -/
def Wrote (e : Fin 16) (s : State) (ch : Fin 16) : Prop := (s.sensors[ch]).valid = true ∧ (s.sensors[ch]).writer = some e

/-- The values that an entry wrote on the channels of a list have lost their valid marks, and their sources theirs. -/
structure SensorsDropped (e : Fin 16) (l : List (Fin 16)) (s t : State) : Prop where
  rest : t = { s with sensors := t.sensors, alarm := { s.alarm with sources := t.alarm.sources } }
  dropped : ∀ ch ∈ l, Wrote e s ch → t.sensors[ch] = { (s.sensors[ch]) with valid := false }
    ∧ t.source (20 + ch.val) = { value := (s.source (20 + ch.val)).value, valid := false }
  kept : ∀ ch : Fin 16, (ch ∉ l ∨ ¬Wrote e s ch) →
    t.sensors[ch] = s.sensors[ch] ∧ t.source (20 + ch.val) = s.source (20 + ch.val)

theorem dropSensor_one {e ch : Fin 16} {s : State} (h : Wrote e s ch → s.pointsOn (20 + ch.val) = []) :
    SensorsDropped e [ch] s (dropSensor e ch s) := by
  unfold dropSensor
  dsimp only
  by_cases w : Wrote e s ch
  · have wrote : (s.sensors[ch]).valid = true ∧ (s.sensors[ch]).writer = some e := w
    rw [if_pos wrote, feed_unwatched _ _ _ (by exact h w)]
    have hch := ch.isLt
    refine ⟨rfl, fun c hc _ => ?_, fun c hc => ?_⟩
    · rw [List.mem_singleton] at hc
      subst hc
      exact ⟨Vector.getElem_set_self _, setSource_source_same (by unfold sensorSource; omega) (by unfold sensorSource; omega) ..⟩
    · have other : c ≠ ch := by
        rintro rfl
        exact hc.elim (fun k => k (List.mem_singleton_self _)) fun k => k w
      have code : 20 + c.val ≠ sensorSource ch := fun k => other (Fin.ext (by unfold sensorSource at k; omega))
      exact ⟨Vector.getElem_set_ne ch.isLt c.isLt (fun k => other (Fin.ext k.symm)),
        setSource_source_ne code (by unfold sensorSource; omega) ..⟩
  · have other : ¬((s.sensors[ch]).valid = true ∧ (s.sensors[ch]).writer = some e) := w
    rw [if_neg other]
    exact ⟨rfl, fun c hc k => absurd (List.mem_singleton.mp hc ▸ k) w, fun _ _ => ⟨rfl, rfl⟩⟩

theorem dropSensor_fold {e : Fin 16} : ∀ {l : List (Fin 16)}, l.Nodup → ∀ {s : State},
    (∀ ch, Wrote e s ch → s.pointsOn (20 + ch.val) = []) →
    SensorsDropped e l s (l.foldl (fun s ch => dropSensor e ch s) s)
  | [], _, s, _ => ⟨rfl, fun _ h => (by cases h), fun _ _ => ⟨rfl, rfl⟩⟩
  | c :: l, hl, s, unwatched => by
    obtain ⟨fresh, tail⟩ := List.nodup_cons.mp hl
    have one := dropSensor_one (unwatched c)
    rw [List.foldl_cons]
    generalize dropSensor e c s = u at one ⊢
    have still : ∀ ch : Fin 16, ch ≠ c → (Wrote e u ch ↔ Wrote e s ch) := fun ch hch => by
      unfold Wrote
      rw [(one.kept ch (.inl (by simpa using hch))).1]
    have cleared : ¬Wrote e u c := fun w => by
      by_cases k : Wrote e s c
      · unfold Wrote at w
        rw [(one.dropped c (List.mem_singleton_self c) k).1] at w
        cases w.1
      · unfold Wrote at w
        rw [(one.kept c (.inr k)).1] at w
        exact k w
    have points : ∀ code, u.pointsOn code = s.pointsOn code := fun code => by rw [one.rest]; rfl
    have more := dropSensor_fold tail (s := u) fun ch w => by
      rw [points]
      by_cases k : ch = c
      · exact absurd (k ▸ w) cleared
      · exact unwatched ch ((still ch k).mp w)
    generalize l.foldl (fun s ch => dropSensor e ch s) u = t at more ⊢
    refine ⟨by rw [more.rest, one.rest], fun ch hch w => ?_, fun ch hch => ?_⟩
    · by_cases k : ch = c
      · subst k
        obtain ⟨value, source⟩ := more.kept ch (.inl fresh)
        rw [value, source]
        exact one.dropped ch (List.mem_singleton_self ch) w
      · obtain ⟨value, source⟩ := one.kept ch (.inl (by simpa using k))
        have both := more.dropped ch ((List.mem_cons.mp hch).resolve_left k) ((still ch k).mpr w)
        rw [value, source] at both
        exact both
    · by_cases k : ch = c
      · subst k
        obtain ⟨value, source⟩ := more.kept ch (.inl fresh)
        rw [value, source]
        exact one.kept ch (.inr (hch.resolve_left fun m => m List.mem_cons_self))
      · obtain ⟨value, source⟩ := one.kept ch (.inl (by simpa using k))
        have both := more.kept ch (hch.imp (fun m n => m (List.mem_cons_of_mem c n)) fun w m => w ((still ch k).mp m))
        rw [value, source] at both
        exact both

/-- Every value that an entry wrote loses its valid mark, where no point watches the sources of such values (R14, R23). -/
theorem dropSensors_dropped {e : Fin 16} {s : State} (h : ∀ ch, Wrote e s ch → s.pointsOn (20 + ch.val) = []) :
    SensorsDropped e (List.finRange 16) s (dropSensors e s) := by
  unfold dropSensors
  exact dropSensor_fold (List.nodup_finRange 16) h

/-- The three sources of an axis lose their valid marks, and keep their values (R125). -/
theorem dropAxis_unwatched {x : Axis} {s : State} {n : Nat} (hn : n = 1 + 3 * axisPos x) (h0 : s.pointsOn n = [])
    (h1 : s.pointsOn (n + 1) = []) (h2 : s.pointsOn (n + 2) = []) :
    dropAxis x s = { s with alarm := { s.alarm with sources := (dropAxis x s).alarm.sources } }
      ∧ ∀ m, (dropAxis x s).source m =
          if n ≤ m ∧ m ≤ n + 2 then { value := (s.source m).value, valid := false } else s.source m := by
  have range : 1 ≤ n ∧ n + 2 ≤ 79 := by subst hn; cases x <;> decide
  have eq : dropAxis x s = ((s.setSource n 0 false).setSource (n + 1) 0 false).setSource (n + 2) 0 false := by
    unfold dropAxis axisSource
    rw [← hn]
    dsimp only
    rw [feed_unwatched _ _ _ h0, feed_unwatched (code := n + 1) _ _ _ (by exact h1),
      feed_unwatched (code := n + 2) _ _ _ (by exact h2)]
  rw [eq]
  refine ⟨rfl, fun m => ?_⟩
  have other : ∀ k (u : State), 1 ≤ k → m ≠ k → (u.setSource k 0 false).source m = u.source m := fun k u hk e =>
    setSource_source_ne e hk ..
  have same : ∀ u : State, 1 ≤ m → m ≤ 79 →
      (u.setSource m 0 false).source m = { value := (u.source m).value, valid := false } := fun u h h' =>
    setSource_source_same h h' ..
  split
  · rename_i inside
    obtain rfl | rfl | rfl : m = n ∨ m = n + 1 ∨ m = n + 2 := by omega
    · rw [other _ _ (by omega) (by omega), other _ _ (by omega) (by omega), same _ (by omega) (by omega)]
    · rw [other _ _ (by omega) (by omega), same _ (by omega) (by omega), other _ _ (by omega) (by omega)]
    · rw [same _ (by omega) (by omega), other _ _ (by omega) (by omega), other _ _ (by omega) (by omega)]
  · rw [other _ _ (by omega) (by omega), other _ _ (by omega) (by omega), other _ _ (by omega) (by omega)]

/-! What a trip leaves standing. -/

/-- A property of the mode and the trip unit that a trip leaves standing. -/
structure TripStable (Q : State → Prop) : Prop where
  view : ∀ {s t : State}, Q s → t.mode = s.mode → t.trip = s.trip → Q t
  trip : ∀ t {s}, Q s → Q (takeTrip t s)

namespace TripStable

variable {Q : State → Prop} (K : TripStable Q)
include K

theorem event {s t : State} (v : EventView s t) (h : Q s) : Q t := K.view h v.mode v.trip

theorem drainTrips (n : Nat) : ∀ {s}, Q s → Q (drainTrips n s) := by
  induction n with
  | zero => exact fun h => K.view h rfl rfl
  | succ n ih =>
    intro s h
    unfold Machine.drainTrips
    split
    · exact h
    · exact ih (K.trip _ (K.view h rfl rfl))

/-- What every trip brings about holds after one is handed. -/
theorem handTrip (made : ∀ t s, Q (takeTrip t s)) (t : TripIn) (s : State) : Q (handTrip t s) := by
  unfold Machine.handTrip drain Machine.drainTrips
  split
  · rename_i none
    exact absurd (List.append_eq_nil_iff.mp none).2 (List.cons_ne_nil _ _)
  · exact K.drainTrips 255 (made ..)

theorem takeUpdate (u : Update) {s : State} (h : Q s) : Q (takeUpdate u s) :=
  keeps_foldl (fun _ p k => K.drainTrips 256 (K.event (evalPoint_event u.trig p _) k)) _ _
    (K.view h rfl rfl)

theorem takeUpdates (n : Nat) : ∀ {s}, Q s → Q (takeUpdates n s) := by
  induction n with
  | zero => exact fun h => h
  | succ n ih =>
    intro s h
    unfold Machine.takeUpdates
    split
    · exact ih (K.takeUpdate _ (K.view h rfl rfl))
    · exact h

theorem feed (code : Nat) (v : Int) (ok : Bool) (trig : Option (List Byte)) {s : State} (h : Q s) :
    Q (feed code v ok trig s) := by
  have fed := K.takeUpdates 256 (K.view (t := { s with
    updates := some [{ code := code, value := v, valid := ok, trig := trig }] }) h rfl rfl)
  exact K.view fed rfl rfl

theorem freshnessHanded (e : Fin 16) (old new : Fresh) {s : State} (h : Q s) : Q (freshnessHanded e old new s) := by
  have fed := K.feed (38 + e.val) new.code true none h
  unfold Machine.freshnessHanded
  split
  · refine keeps_foldl (fun s ch k => ?_) _ _ fed
    unfold dropSensor
    dsimp only
    split
    · exact K.feed _ _ _ _ (K.view k rfl rfl)
    · exact k
  · exact fed

theorem dropAxis (x : Axis) {s : State} (h : Q s) : Q (dropAxis x s) :=
  K.feed _ _ _ _ (K.feed _ _ _ _ (K.feed _ _ _ _ h))

theorem skewAgain (x : Axis) {s : State} (h : Q s) : Q (skewAgain x s) := by
  unfold Machine.skewAgain
  split
  · exact K.feed _ _ _ _ h
  · exact h

end TripStable

/-- The machine has tripped (R157). -/
def Tripped (s : State) : Prop := s.mode = .tripped ∧ s.trip.field = .deEnergised

theorem takeTrip_tripped (t : TripIn) (s : State) : Tripped (takeTrip t s) := ⟨takeTrip_mode t s, takeTrip_field t s⟩

theorem tripped_stable : TripStable Tripped where
  view h m t := ⟨m.trans h.1, by rw [t]; exact h.2⟩
  trip t s _ := takeTrip_tripped t s

theorem trippedOr_stable (m : Mode) : TripStable fun s => s.mode = m ∨ Tripped s where
  view h mode trip := h.imp mode.trans fun k => tripped_stable.view k mode trip
  trip t s _ := .inr (takeTrip_tripped t s)

theorem prepRetest_elsewhere {s : State} (h : s.mode ≠ .walkPrep) : prepRetest s = s := by
  unfold prepRetest
  rw [if_neg h]

/-- A drive that is lost in a mode that takes its trip leaves the machine tripped (R23). -/
theorem lost_drive_trips {e : Fin 16} {s : State} (role : (s.act.stations[e]).role = .drive) {x : Axis}
    (axis : (s.act.stations[e]).axis = some x) (old : Fresh)
    (mode : s.mode = .dig ∨ s.mode = .walkPrep ∨ s.mode = .walking ∨ s.mode = .testing) :
    Tripped (freshnessChange e old .lost s) := by
  have K := trippedOr_stable s.mode
  rw [freshnessChange_drive role, axis]
  have handed := K.skewAgain x (K.dropAxis x (K.freshnessHanded e old .lost (.inl rfl)))
  have lost : Tripped (driveChange e (some x) .lost (freshnessHanded e old .lost s)) := by
    show Tripped (lostTrip e (skewAgain x (dropAxis x (freshnessHanded e old .lost s))))
    unfold lostTrip
    split
    all_goals first | exact tripped_stable.handTrip takeTrip_tripped .. | skip
    rename_i dig prep walking testing
    rcases handed with same | tripped
    · rw [same] at dig prep walking testing
      rcases mode with m | m | m | m
      · exact absurd m dig
      · exact absurd m prep
      · exact absurd m walking
      · exact absurd m testing
    · exact tripped
  rwa [prepRetest_elsewhere (by rw [lost.1]; decide)]

end Sys2Proof.Machine
end

section
/-!
SUPPORT. The clauses of the obligation on freshness (R9, R21 to R23).
-/

namespace Sys2Proof.Machine

/-! An arrival as a frame's dispatch finds it (R9). -/

section
variable {f : Frame} {s : State} {e : Fin 16} {r : StationRun}

theorem received_of_run (h : s.sourceRun f = some (e, r)) : received f s = arrival e r f.seq (heard s) := by
  unfold received
  rw [heard_sourceRun, h]

theorem received_stations (h : s.sourceRun f = some (e, r)) :
    (received f s).stations = s.stations.set e (some (arrivalRun r f.seq s.now (s.act.stations[e]).timeout)) := by
  rw [received_of_run h, arrival_stations, heard_stations, heard_now]
  unfold State.act
  rw [heard_tables]

theorem received_seqGaps (h : s.sourceRun f = some (e, r)) :
    (received f s).counter .seqGaps
      = (if isGap r f.seq then bumpWord (s.counter .seqGaps) else s.counter .seqGaps) := by
  have heard : (heard s).counter .seqGaps = s.counter .seqGaps := by
    rw [heard_counter, bump_counter_ne s (by decide)]
  rw [received_of_run h, (arrival_kept ..).counter]
  unfold arrived
  split
  · exact (bump_counter_same _ _).trans (congrArg bumpWord heard)
  · exact heard

theorem isGap_iff (r : StationRun) (q : Byte) : isGap r q = true ↔ ∃ p, r.lastSeq = some p ∧ q ≠ p + 1#8 := by
  unfold isGap
  cases r.lastSeq <;> simp

/-- The state of an arrival in the words of the obligation, of the state in which the frame is counted. -/
theorem arrived_heard (seq : Byte) :
    arrived e r seq (heard s) = { (if isGap r seq then bump .seqGaps (heard s) else heard s) with
      stations := (if isGap r seq then bump .seqGaps (heard s) else heard s).stations.set e
        (some { fresh := .fresh, expiries := 0, timer := some (s.now + (s.act.stations[e]).timeout), lastSeq := some seq
                gaps := if isGap r seq then min 65535 (r.gaps + 1) else r.gaps, lastArrival := some s.now }) } := by
  unfold arrived State.setStation State.act arrivalRun
  rw [heard_now, heard_tables]

theorem arrived_act (seq : Byte) : (arrived e r seq s).act = s.act := by
  unfold arrived State.act
  split <;> rfl

end

/-! Leaves of a change of freshness. -/

/-- The other entries' running states, the feedback records and the tables are as they were. -/
structure OtherEntriesKept (e : Fin 16) (s t : State) : Prop where
  others : ∀ d : Fin 16, d ≠ e → t.stations[d] = s.stations[d]
  feedback : t.feedback = s.feedback
  tables : t.tables = s.tables

theorem freshnessOut_records (e : Fin 16) (s : State) : OtherEntriesKept e s (freshnessOut e s) := by
  have put : ∀ r, OtherEntriesKept e s (s.setStation e r) := fun r =>
    ⟨fun d other => Vector.getElem_set_ne e.isLt d.isLt fun k => other (Fin.ext k.symm), rfl, rfl⟩
  have changed : ∀ r old new, OtherEntriesKept e s (freshnessChange e old new (s.setStation e r)) := fun r old new => by
    have k := freshnessChange_records e old new (s.setStation e r)
    exact ⟨fun d other => by rw [k.stations]; exact (put r).others d other, k.feedback, k.tables⟩
  unfold freshnessOut
  split
  · exact ⟨fun _ _ => rfl, rfl, rfl⟩
  · split
    · split
      · exact changed ..
      · exact put _
      · exact changed ..
    · exact ⟨fun _ _ => rfl, rfl, rfl⟩

/-- A stale drive's channel with no test on it, or with one: what is left of it (R23, R189). -/
theorem testStale_left {c : Chan} {s t : State} (h : t = testStale c s) :
    ((s.testRuns = false ∨ s.testChan ≠ some c) → t = s)
      ∧ (s.testRuns = true → s.testChan = some c → s.mode = .testing → s.heldTrips = [] →
          ∃ rs, EndResults s rs ∧ TestEnded s t .failedStale (some c) rs ∧ t.testQueued = false
            ∧ t.tester.secondFinal = none ∧ t.brakes = s.brakes ∧ t.trip = s.trip ∧ t.attrs = s.attrs) := by
  subst h
  unfold testStale
  constructor
  · intro h
    rw [if_neg fun k => h.elim (fun r => by rw [r] at k; cases k.1) fun r => r k.2]
  · intro runs chan mode held
    rw [if_pos ⟨runs, chan⟩]
    obtain ⟨⟨rs, results, ended⟩, rest⟩ := endTest_ended .failedStale (some c) (s := withdrawTest s) mode held rfl
    obtain ⟨ring, -, final, -⟩ := endTest_quiet .failedStale (some c) (s := withdrawTest s) mode held
    refine ⟨rs, results, ended, ?_, final, by rw [rest]; rfl, by rw [rest]; rfl, by rw [rest]; rfl⟩
    unfold State.testQueued
    rw [ring, List.any_eq_false]
    intro x hx test
    have kept := (List.mem_filter.mp hx).2
    rw [test] at kept
    cases kept

/-- What the freshness timer's expiries leave (R22). -/
theorem freshnessExpiries_left (e : Fin 16) (s : State) (r : StationRun) (run : s.stations[e] = some r) :
    ∃ t, exec (.freshnessTimerExpiry e) s = .next t
      ∧ (∀ d : Fin 16, d ≠ e → t.stations[d] = s.stations[d])
      ∧ (s.expired r.timer = true → r.expiries = 0 →
          t.stations[e] = some { r with expiries := 1, fresh := .stale,
                                        timer := some (s.now + (s.act.stations[e]).timeout) })
      ∧ (s.expired r.timer = true → r.expiries = 1 →
          t.stations[e] = some { r with expiries := 2, timer := some (s.now + (s.act.stations[e]).timeout) }
            ∧ OnlyRing { s with stations := t.stations } t)
      ∧ (s.expired r.timer = true → r.expiries = 2 →
          t.stations[e] = some { r with expiries := 3, fresh := .lost, timer := none, lastSeq := none })
      ∧ (s.expired r.timer = false → OnlyRing s t)
      ∧ t.feedback = s.feedback ∧ t.tables = s.tables := by
  have kept := freshnessOut_records e s
  refine ⟨_, exec_freshnessTimerExpiry e s, fun d other => ?_, fun out n => ?_, fun out n => ?_, fun out n => ?_,
    fun on => ?_, ?_, ?_⟩
  · rw [finish_stations]
    exact kept.others d other
  · rw [finish_stations, freshnessOut_first run out n, (freshnessChange_records ..).stations]
    exact Vector.getElem_set_self _
  · rw [freshnessOut_second run out n]
    rw [finish_stations]
    exact ⟨Vector.getElem_set_self _, finish_onlyRing (s.setStation e _)⟩
  · rw [finish_stations, freshnessOut_later run out (by omega), (freshnessChange_records ..).stations]
    exact Vector.getElem_set_self _
  · rw [freshnessOut_stopped run on]
    exact finish_onlyRing s
  · rw [finish_feedback]
    exact kept.feedback
  · rw [finish_tables]
    exact kept.tables

/-- What a drive that goes STALE hands on, step by step (R23, log 20). -/
theorem driveStale_handed {e : Fin 16} {s k : State} {r q : StationRun} {x : Axis}
    (run : s.stations[e] = some r) (out : s.expired r.timer = true) (n : r.expiries = 0) (fresh : r.fresh = .fresh)
    (role : (s.act.stations[e]).role = .drive) (axis : (s.act.stations[e]).axis = some x)
    (hq : q = { r with expiries := 1, fresh := .stale, timer := some (s.now + (s.act.stations[e]).timeout) })
    (hk : k = feed (38 + e.val) 1 true none { s with stations := s.stations.set e (some q) }) :
    exec (.freshnessTimerExpiry e) s = .next (finish (prepRetest (testStale (chanOf x) (staleSet (chanOf x)
      (skewAgain x (dropAxis x (dropSensors e k))))))) := by
  subst hq hk
  rw [exec_freshnessTimerExpiry, freshnessOut_first run out n, fresh,
    freshnessChange_drive (s := s.setStation e _) role, freshnessHanded_fresh, freshCode_stale]
  show Host.Outcome.next (finish (prepRetest (driveChange e (s.act.stations[e]).axis .stale _))) = _
  rw [axis, (driveChange_axis ..).2.1]
  rfl

/-- What an entry that goes STALE hands on, where it is no drive with an axis (R23, log 55). -/
theorem entryStale_handed {e : Fin 16} {s k : State} {r q : StationRun} {role : Role}
    (run : s.stations[e] = some r) (out : s.expired r.timer = true) (n : r.expiries = 0) (fresh : r.fresh = .fresh)
    (hr : role = (s.act.stations[e]).role)
    (hq : q = { r with expiries := 1, fresh := .stale, timer := some (s.now + (s.act.stations[e]).timeout) })
    (hk : k = feed (38 + e.val) 1 true none { s with stations := s.stations.set e (some q) }) :
    ((role = .sensor ∨ (role = .drive ∧ (s.act.stations[e]).axis = none)) →
        exec (.freshnessTimerExpiry e) s = .next (finish (prepRetest (dropSensors e k))))
      ∧ ((role = .console ∨ role = .manager) →
        exec (.freshnessTimerExpiry e) s = .next (finish (dropSensors e k))) := by
  subst hr hq hk
  rw [exec_freshnessTimerExpiry, freshnessOut_first run out n, fresh]
  refine ⟨?_, fun h => ?_⟩
  · rintro (h | ⟨h, axis⟩)
    · rw [freshnessChange_sensor (s := s.setStation e _) h, freshnessHanded_fresh, freshCode_stale]
      rfl
    · rw [freshnessChange_drive (s := s.setStation e _) h, freshnessHanded_fresh, freshCode_stale]
      show Host.Outcome.next (finish (prepRetest (driveChange e (s.act.stations[e]).axis .stale _))) = _
      rw [axis, (driveChange_no_axis ..).2.1]
      rfl
  · rw [freshnessChange_station (s := s.setStation e _) h, freshnessHanded_fresh, freshCode_stale]
    rfl

/-- What an entry at LOST hands on, and a lost drive's trip (R23). -/
theorem entryLost_handed {e : Fin 16} {s k : State} {r : StationRun} {role : Role}
    (run : s.stations[e] = some r) (out : s.expired r.timer = true) (n : r.expiries = 2) (fresh : r.fresh = .stale)
    (hr : role = (s.act.stations[e]).role)
    (hk : k = feed (38 + e.val) 2 true none { s with
      stations := s.stations.set e
        (some { r with expiries := 3, fresh := .lost, timer := none, lastSeq := none }) }) :
    (role = .sensor → exec (.freshnessTimerExpiry e) s = .next (finish (prepRetest k)))
      ∧ ((role = .console ∨ role = .manager) → exec (.freshnessTimerExpiry e) s = .next (finish k))
      ∧ (role = .drive → ∀ w : State,
          ((∃ x, (s.act.stations[e]).axis = some x ∧ w = skewAgain x (dropAxis x k))
            ∨ ((s.act.stations[e]).axis = none ∧ w = k)) →
          ((w.mode = .dig ∨ w.mode = .walkPrep ∨ w.mode = .walking ∨ w.mode = .testing) →
            exec (.freshnessTimerExpiry e) s = .next (finish (prepRetest
              (handTrip { cause := .stationLost e, action := .both, frame := none } w))))
          ∧ ((w.mode = .init ∨ w.mode = .parked ∨ w.mode = .tripped) →
              exec (.freshnessTimerExpiry e) s = .next (finish (prepRetest w)))) := by
  subst hr hk
  rw [exec_freshnessTimerExpiry, freshnessOut_later run out (by omega), fresh]
  refine ⟨fun h => ?_, fun h => ?_, fun h w hw => ?_⟩
  · rw [freshnessChange_sensor (s := s.setStation e _) h, freshnessHanded_of_ne e (by decide), freshCode_lost]
    rfl
  · rw [freshnessChange_station (s := s.setStation e _) h, freshnessHanded_of_ne e (by decide), freshCode_lost]
    rfl
  · rw [freshnessChange_drive (s := s.setStation e _) h, freshnessHanded_of_ne e (by decide), freshCode_lost]
    have dropped : driveChange e (s.act.stations[e]).axis .lost
        (feed (38 + e.val) 2 true none (s.setStation e (some
          { r with expiries := 3, fresh := .lost, timer := none, lastSeq := none }))) = lostTrip e w := by
      rcases hw with ⟨x, axis, rfl⟩ | ⟨axis, rfl⟩
      · rw [axis, (driveChange_axis ..).2.2]; rfl
      · rw [axis, (driveChange_no_axis ..).2.2]; rfl
    show (_ → Host.Outcome.next (finish (prepRetest (driveChange e (s.act.stations[e]).axis .lost _))) = _)
      ∧ (_ → Host.Outcome.next (finish (prepRetest (driveChange e (s.act.stations[e]).axis .lost _))) = _)
    rw [dropped]
    unfold lostTrip
    refine ⟨fun m => ?_, fun m => ?_⟩
    · rcases m with m | m | m | m <;> rw [m]
    · rcases m with m | m | m <;> rw [m]

/-- What an entry hands on at its return to FRESH by an arrival (R9, R23, R33). -/
theorem entryReturn_handed {f : Frame} {s v k : State} {e : Fin 16} {r q : StationRun} {role : Role}
    (run : s.sourceRun f = some (e, r)) (hr : role = (s.act.stations[e]).role)
    (hv : v = (if isGap r f.seq then bump .seqGaps (heard s) else heard s))
    (hq : q = { fresh := .fresh, expiries := 0, timer := some (s.now + (s.act.stations[e]).timeout), lastSeq := some f.seq
                gaps := if isGap r f.seq then min 65535 (r.gaps + 1) else r.gaps, lastArrival := some s.now })
    (hk : k = feed (38 + e.val) 0 true none { v with stations := v.stations.set e (some q) }) :
    (r.fresh = .fresh → received f s = { v with stations := v.stations.set e (some q) })
      ∧ (r.fresh ≠ .fresh →
          ((role = .console ∨ role = .manager) → received f s = k)
          ∧ (role = .sensor → received f s = prepRetest k)
          ∧ (role = .drive → ∀ x, (s.act.stations[e]).axis = some x →
              received f s = prepRetest (initTest (skewAgain x k)))
          ∧ (role = .drive → (s.act.stations[e]).axis = none → received f s = prepRetest (initTest k))) := by
  subst hr hv hq
  have handed : k = freshnessHanded e r.fresh .fresh (arrived e r f.seq (heard s)) ∨ r.fresh = .fresh := by
    by_cases fresh : r.fresh = .fresh
    · exact .inr fresh
    · rw [freshnessHanded_of_ne e fresh, freshCode_fresh, arrived_heard]
      exact .inl hk
  rw [received_of_run run, arrival_eq]
  refine ⟨fun fresh => ?_, fun stale => ?_⟩
  · rw [if_pos fresh]
    exact arrived_heard f.seq
  · rw [if_neg stale]
    have entry : (arrived e r f.seq (heard s)).act.stations[e] = s.act.stations[e] := by
      rw [arrived_act, State.act, heard_tables]
    have handed := handed.resolve_right stale
    refine ⟨fun h => ?_, fun h => ?_, fun h x axis => ?_, fun h axis => ?_⟩
    · rw [freshnessChange_station (by rw [entry]; exact h), handed]
    · rw [freshnessChange_sensor (by rw [entry]; exact h), handed]
    · rw [freshnessChange_drive (by rw [entry]; exact h), entry, axis, handed, (driveChange_axis ..).1]
    · rw [freshnessChange_drive (by rw [entry]; exact h), entry, axis, handed, (driveChange_no_axis ..).1]

end Sys2Proof.Machine
end

section
/-!
The obligation of chapter 1 on freshness.
-/

namespace Sys2Proof.Proofs

open Sys2Proof.Machine

/-- Settles O8: arrivals, the freshness timer's expiries, and what a change of freshness hands on. -/
theorem freshness : Obligations.Freshness := by
  refine ⟨?arrivals, ?expiries, ?lostDrive, ?staleDrive, ?stale, ?lost, ?returns, fun _ => rfl, ?source, ?sensors, ?axis,
    ?skew, ?setRequest, fun c s t h => testStale_left h⟩
  case arrivals =>
    intro f s e r run
    have stations := received_stations run
    refine ⟨?_, fun d other => ?_, received_seqGaps run, isGap_iff r f.seq⟩
    · rw [stations]; exact Vector.getElem_set_self _
    · rw [stations]; exact Vector.getElem_set_ne _ _ fun k => other (Fin.ext k.symm)
  case expiries =>
    exact freshnessExpiries_left
  case lostDrive =>
    intro e s r x run out n held role axis mode
    refine ⟨_, exec_freshnessTimerExpiry e s, ?_⟩
    rw [freshnessOut_later run out (by omega)]
    have tripped := lost_drive_trips (s := s.setStation e (some
      { r with expiries := 3, fresh := .lost, timer := none, lastSeq := none })) role axis r.fresh mode
    exact ⟨(congrArg ModeCtl.mode (finish_ctl _)).trans tripped.1, by rw [finish_trip]; exact tripped.2⟩
  case staleDrive =>
    intro e s k r q x run out n fresh role axis hq hk
    exact driveStale_handed run out n fresh role axis hq hk
  case stale =>
    intro e s k r q role run out n fresh hr hq hk
    exact entryStale_handed run out n fresh hr hq hk
  case lost =>
    intro e s k r role run out n fresh hr hk
    exact entryLost_handed run out n fresh hr hk
  case returns =>
    intro f s v k e r q role run hr hv hq hk
    exact entryReturn_handed run hr hv hq hk
  case source =>
    intro e n s
    have he := e.isLt
    rw [feed_source_same (by omega) (by omega) (by omega) (by omega) (by omega)]
    rfl
  case sensors =>
    intro e s t ht unwatched
    have all := dropSensors_dropped fun ch (w : Wrote e s ch) => unwatched ch w.1 w.2
    rw [← ht] at all
    refine ⟨all.rest, fun ch => ⟨fun valid writer => ?_, fun other => ?_⟩⟩
    · exact all.dropped ch (List.mem_finRange ch) ⟨valid, writer⟩
    · exact all.kept ch (.inr fun w => other.elim (fun k => by rw [w.1] at k; cases k) fun k => k w.2)
  case axis =>
    rintro x s t n rfl hn h0 h1 h2
    exact dropAxis_unwatched hn h0 h1 h2
  case skew =>
    intro x s
    unfold skewAgain
    exact ⟨fun h => if_pos h, fun h => if_neg (by rw [h]; decide)⟩
  case setRequest =>
    rintro c s t rfl
    exact ⟨staleSet_stale c s, (staleSet_only c s).others, (staleSet_only c s).frame⟩

end Sys2Proof.Proofs
end

section
/-!
SUPPORT. The stages of the limiter as rules: the row in force (R82, R105), what every stage keeps of a Reference (R69),
and the blocked Reference (R70).
-/

namespace Sys2Proof.Machine

/-! The row in force (R82, R105). -/

/-- The last of a vector's entries in use that has a property. -/
theorem getLast?_filter_take_iff {α : Type} {n : Nat} (v : Vector α n) (p : α → Bool) (row : α) : ∀ used : Nat,
    ((v.toList.take used).filter p).getLast? = some row
      ↔ ∃ i : Fin n, i.val < used ∧ v[i] = row ∧ p row = true ∧ ∀ j : Fin n, i < j → j.val < used → p v[j] = false
  | 0 => by simp
  | used + 1 => by
    have ih := getLast?_filter_take_iff v p row used
    by_cases inside : used < n
    · have more : v.toList.take (used + 1) = v.toList.take used ++ [v[used]] := by
        rw [List.take_add_one, List.getElem?_eq_getElem (by simpa using inside)]
        simp
      rw [more, List.filter_append]
      cases last : p v[used] with
      | true =>
        rw [List.filter_cons_of_pos last, List.filter_nil, List.getLast?_append_of_ne_nil _ (List.cons_ne_nil _ _)]
        constructor
        · rintro ⟨⟩
          exact ⟨⟨used, inside⟩, Nat.lt_succ_self _, rfl, last, fun j hj hu => absurd hj (by rw [Fin.lt_def]; dsimp only; omega)⟩
        · rintro ⟨i, hi, rfl, -, above⟩
          have same : i.val = used := by
            by_contra other
            have below := above ⟨used, inside⟩ (by rw [Fin.lt_def]; dsimp only; omega) (Nat.lt_succ_self _)
            rw [Fin.getElem_fin, last] at below
            cases below
          subst same
          rfl
      | false =>
        rw [List.filter_cons_of_neg (by rw [last]; decide), List.filter_nil, List.append_nil, ih]
        refine exists_congr fun i => ?_
        constructor
        · rintro ⟨hi, row, met, above⟩
          refine ⟨by omega, row, met, fun j hj hu => ?_⟩
          by_cases k : j.val = used
          · subst k; exact last
          · exact above j hj (by omega)
        · rintro ⟨hi, rfl, met, above⟩
          have other : i.val ≠ used := by
            rintro rfl
            rw [Fin.getElem_fin, last] at met
            cases met
          exact ⟨by omega, rfl, met, fun j hj hu => above j hj (by omega)⟩
    · rw [List.take_of_length_le (by rw [Vector.length_toList]; omega)]
      rw [List.take_of_length_le (by rw [Vector.length_toList]; omega)] at ih
      rw [ih]
      have all : ∀ i : Fin n, i.val < used + 1 ↔ i.val < used := fun i => by have := i.isLt; omega
      simp only [all]

theorem rowInForce_iff {α : Type} {n : Nat} (rows : Vector α n) (used : Nat) (start : α → Nat) (v : Nat) (row : α) :
    ((rows.toList.take used).filter fun r => decide (start r ≤ v)).getLast? = some row
      ↔ RowInForce rows used start v row := by
  rw [getLast?_filter_take_iff]
  unfold RowInForce
  simp only [decide_eq_true_eq, decide_eq_false_iff_not, Nat.not_le]

theorem envelopeRow_iff (s : State) (drag : Nat) (row : EnvRow) : s.envelopeRow drag = some row ↔
    RowInForce s.act.rows s.act.drag.rows EnvRow.dragStart drag row := rowInForce_iff ..

theorem sectorOf_iff (s : State) (angle : Nat) (sec : SectorCfg) : s.sectorOf angle = some sec ↔
    RowInForce s.act.sectors s.act.walk.sectors SectorCfg.start angle sec := rowInForce_iff ..

/-! What every stage keeps (R69). -/

/-- A Reference lowered from given values: no larger in magnitude and never of the opposite sign, with a torque limit no
larger (R69). -/
structure Lowered (v : Int) (n : Nat) (e : Eval) : Prop where
  magnitude : e.speed.natAbs ≤ v.natAbs
  sign : 0 ≤ e.speed * v
  torque : e.torque ≤ n

theorem Lowered.of_speed {v : Int} {n : Nat} {e o : Eval} (h : Lowered v n e) (s : o.speed = e.speed)
    (t : o.torque = e.torque) : Lowered v n o := ⟨by rw [s]; exact h.magnitude, by rw [s]; exact h.sign, by rw [t]; exact h.torque⟩

theorem Lowered.of_zero {v : Int} {n : Nat} {e o : Eval} (h : Lowered v n e) (s : o.speed = 0) (t : o.torque = e.torque) :
    Lowered v n o := ⟨by rw [s]; exact Nat.zero_le _, by rw [s, Int.zero_mul], by rw [t]; exact h.torque⟩

theorem lowered_start (r : Ref) : Lowered r.speed r.torque (Eval.start r) :=
  ⟨Nat.le_refl _, mul_self_nonneg r.speed, Nat.le_refl _⟩

theorem capSpeed_natAbs (cap : Nat) (v : Int) : (capSpeed cap v).natAbs ≤ v.natAbs ∧ (cap < v.natAbs → (capSpeed cap v).natAbs = cap) := by
  unfold capSpeed
  split
  · rename_i h
    have sign : v.sign.natAbs = 1 := Int.natAbs_sign_of_ne_zero (by omega)
    rw [Int.natAbs_mul, sign, Int.natAbs_natCast, Nat.one_mul]
    exact ⟨Nat.le_of_lt h, fun _ => rfl⟩
  · rename_i h
    exact ⟨Nat.le_refl _, fun k => absurd k h⟩

/-- A capped speed is 0 or has the sign it had (R69). -/
theorem capSpeed_sign (cap : Nat) (w v : Int) (h : 0 ≤ w * v) : 0 ≤ capSpeed cap w * v := by
  unfold capSpeed
  split
  · rcases Int.lt_trichotomy w 0 with neg | zero | pos
    · rw [Int.sign_eq_neg_one_of_neg neg]
      have : v ≤ 0 := by
        by_contra k
        exact absurd h (not_le.mpr (mul_neg_of_neg_of_pos neg (not_le.mp k)))
      exact mul_nonneg_of_nonpos_of_nonpos (by omega) this
    · subst zero; simp
    · rw [Int.sign_eq_one_of_pos pos]
      have : 0 ≤ v := nonneg_of_mul_nonneg_right h pos
      exact mul_nonneg (by omega) this
  · exact h

theorem Lowered.capped {v : Int} {n : Nat} {e : Eval} (h : Lowered v n e) (cap : Nat) (c : Cause) :
    Lowered v n (e.capped cap c) := by
  unfold Eval.capped
  split
  · exact ⟨(capSpeed_natAbs cap e.speed).1.trans h.magnitude, capSpeed_sign cap _ _ h.sign, h.torque⟩
  · exact h

theorem Lowered.cappedBy {v : Int} {n : Nat} {e : Eval} (h : Lowered v n e) (cap : Option Nat) (c : Cause) :
    Lowered v n (e.cappedBy cap c) := by
  cases cap with
  | none => exact h
  | some cap => exact h.capped cap c

theorem Lowered.walkLimits {v : Int} {n : Nat} {e : Eval} (h : Lowered v n e) (x : Axis) (s : State) :
    Lowered v n (walkLimits x s e) := by
  have forward : Lowered v n (if e.speed < 0 then e.capped 0 .walkDirection else e) := by
    split
    · exact h.capped ..
    · exact h
  exact (forward.cappedBy _ _).cappedBy _ _

/-- Stages 4 to 6 raise no speed and no torque limit (R69, R75 to R77). -/
theorem Lowered.speedStages {v : Int} {n : Nat} {e : Eval} (h : Lowered v n e) (x : Axis) (s : State) :
    Lowered v n (speedStages x s e) := by
  have mode : Lowered v n (modeStage x s e) := by
    unfold modeStage
    repeat' split
    · exact h.of_zero rfl rfl
    · exact h.of_zero rfl rfl
    · exact h.capped ..
  have fresh : Lowered v n (freshStage x s (modeStage x s e)) := by
    unfold freshStage
    split
    · exact mode
    · exact mode.of_zero rfl rfl
  unfold Machine.speedStages limitStage
  repeat' split
  · exact fresh
  · exact fresh.cappedBy ..
  · exact fresh.cappedBy ..
  · exact fresh.cappedBy ..
  · exact fresh.walkLimits ..

theorem Lowered.brakeStage {v : Int} {n : Nat} {e : Eval} (h : Lowered v n e) (x : Axis) (s : State) :
    Lowered v n (brakeStage x s e) := by
  have field : Lowered v n { e with brake := forwardedField (s.brakes.get (chanOf x)).state } := h.of_speed rfl rfl
  unfold Machine.brakeStage
  dsimp only
  split
  · exact field
  · exact field.capped ..

theorem Lowered.torqueStage {v : Int} {n : Nat} {e : Eval} (h : Lowered v n e) (x : Axis) (s : State) :
    Lowered v n (torqueStage x s e) := by
  unfold Machine.torqueStage
  split
  · rename_i lower
    exact ⟨h.magnitude, h.sign, (Nat.le_of_lt lower.2.2).trans h.torque⟩
  · exact h

/-! A blocked Reference (R70). -/

/-- A Reference blocked with a cause: speed 0, and the cause of the first blocking condition (R70). -/
def BlockedFor (c : Cause) (e : Eval) : Prop := e.speed = 0 ∧ e.block = some c

theorem blocked_start (r : Ref) (c : Cause) : BlockedFor c ((Eval.start r).blocked c) := ⟨rfl, rfl⟩

/-- A blocking stage that comes after leaves speed 0 and the first cause (R70). -/
theorem BlockedFor.freshStage {c : Cause} {e : Eval} (h : BlockedFor c e) (x : Axis) (s : State) :
    BlockedFor c (freshStage x s e) := by
  obtain ⟨speed, block⟩ := h
  unfold Machine.freshStage
  split
  · exact ⟨speed, block⟩
  · exact ⟨rfl, by show e.block.or _ = _; rw [block]; rfl⟩

/-- The lowering stages leave a blocked Reference as it is (R70). -/
theorem BlockedFor.lowering {c : Cause} {e : Eval} (h : BlockedFor c e) (x : Axis) (s u : State) :
    BlockedFor c (torqueStage x s (brakeStage x u (limitStage x s e))) := by
  rw [limitStage_zero h.1]
  have braked : BlockedFor c (brakeStage x u e) := by
    unfold brakeStage
    dsimp only
    split
    · exact h
    · rw [capped_within _ (by show e.speed.natAbs ≤ 0; rw [h.1]; exact Nat.le_refl 0)]
      exact h
  unfold torqueStage
  split <;> exact braked

theorem BlockedFor.cause {c : Cause} {e : Eval} (h : BlockedFor c e) : e.speed = 0 ∧ e.cause = c :=
  ⟨h.1, by unfold Eval.cause; rw [h.2]; rfl⟩

theorem eval_cause (e : Eval) : (∀ c, e.block = some c → e.cause = c) ∧ (e.block = none → e.cause = e.lower) := by
  unfold Eval.cause
  exact ⟨fun c h => by rw [h]; rfl, fun h => by rw [h]; rfl⟩

/-! The mode stage and the freshness stage (R75, R76). -/

theorem permits_iff (m : Mode) (x : Axis) : permits m x = true ↔
    (m = .dig ∧ (x = .hoist ∨ x = .drag ∨ x = .swing)) ∨ (m = .walking ∧ (x = .walkLeft ∨ x = .walkRight)) := by
  cases m <;> cases x <;> decide

theorem held_iff (s : State) (c : Chan) : s.held c = true ↔
    (s.ctl.hold = .digChannels ∧ c ≠ .walk) ∨ (s.ctl.hold = .walkChannel ∧ c = .walk) := by
  unfold State.held
  cases s.ctl.hold <;> cases c <;> decide

theorem modeStage_permitted {x : Axis} {s : State} (p : permits s.mode x = true) (h : s.held (chanOf x) = false)
    (e : Eval) : modeStage x s e = e.capped (s.act.mode.cap.get x) .mode := by
  unfold modeStage
  rw [p, h]
  rfl

theorem freshStage_fresh {x : Axis} {s : State} (h : s.driveFresh x = true) (k : (s.feedback.get x).updated = true)
    (e : Eval) : freshStage x s e = e := by
  unfold freshStage
  rw [h, k]
  rfl

end Sys2Proof.Machine
end

section
/-!
SUPPORT. A Reference with the tables valid: the standing request and the lever (R74), what its channel does at the brake
stage (R50, R52, R54, R56, R78), and the frame forwarded (R68, R80).
-/

namespace Sys2Proof.Machine

/-! Channel steps change their channel alone. -/

theorem returnToSet_only (c : Chan) (s : State) : OnlyChan c s (returnToSet c s) := setChan_only ..

theorem completeRelease_only (c : Chan) (s : State) : OnlyChan c s (completeRelease c s) := by
  unfold completeRelease
  dsimp only
  split
  · exact returnToSet_only c s
  · exact setChan_only ..

theorem enterPending_only (c : Chan) (s : State) : OnlyChan c s (enterPending c s) := by
  unfold enterPending
  dsimp only
  split
  · exact (setChan_only ..).trans (completeRelease_only ..)
  · exact setChan_only ..

theorem brakeRequest_only (x : Axis) (field : BrakeReq) (lever : Int) (s : State) :
    OnlyChan (chanOf x) s (brakeRequest x field lever s) := by
  unfold brakeRequest
  dsimp only
  repeat' split
  all_goals first | exact .refl .. | exact enterPending_only .. | exact returnToSet_only .. | exact beginToSet_only ..

theorem recordSpeed_only (x : Axis) (v : Int) (s : State) : OnlyChan (chanOf x) s (recordSpeed x v s) :=
  (setChan_only ..).trans (quietTest_only ..)

theorem OnlyChan.kept {c : Chan} {s t : State} (h : OnlyChan c s t) : TripKept s t := by
  rw [h.frame]
  constructor <;> rfl

/-- Whether a channel is barred is a matter of the other channels (R48, R50). -/
theorem OnlyChan.barred {c : Chan} {s t : State} (h : OnlyChan c s t) (k : Barred t c) : Barred s c := by
  obtain ⟨i, other, entry, set⟩ := k
  refine ⟨i, other, ?_, ?_⟩
  · rw [h.frame] at entry
    exact entry
  · rw [h.others i other] at set
    exact set

/-! The lever (R74, R187, R188). -/

theorem suspendTest_kept (s : State) : TripKept s (suspendTest s) := by constructor <;> rfl

theorem abortTest_kept (s : State) : TripKept s (abortTest s) := (withdrawTest_kept s).trans (endTest_kept ..)

theorem testLever_kept (x : Axis) (lever : Int) (s : State) : TripKept s (testLever x lever s) := by
  have tester : ∀ t, TripKept s { s with tester := t } := fun t => by constructor <;> rfl
  unfold testLever
  dsimp only
  repeat' split
  · exact tester _
  · exact (tester _).trans (abortTest_kept _)
  · exact (tester _).trans (suspendTest_kept _)
  · exact tester _
  · exact tester _
  · exact .refl s

theorem leverRestart_kept (lever : Int) (s : State) : TripKept s (leverRestart lever s) := by
  rw [leverRestart_eq]
  constructor <;> rfl

theorem standingStage_kept (r : Ref) (s : State) : TripKept s (standingStage r s) := by
  have standing : TripKept s (leverRestart r.lever.toInt (writeStanding r.axis r.brake s)) :=
    (writeStanding_only ..).kept.trans (leverRestart_kept ..)
  unfold standingStage
  dsimp only
  split
  · exact standing.trans (testLever_kept ..)
  · exact standing

/-- The lever leaves the channels, where no trip is held (R187, R188). -/
theorem testLever_brakes {x : Axis} {lever : Int} {s : State} (mode : s.mode = .testing) (held : s.heldTrips = []) :
    (testLever x lever s).brakes = s.brakes := by
  have ended : ∀ l, (abortTest { s with tester := { s.tester with levers := l } }).brakes = s.brakes := fun l => by
    have rest := (endTest_ended .abortedOperator none
      (s := withdrawTest { s with tester := { s.tester with levers := l } }) mode held rfl).2
    unfold abortTest
    rw [rest]
    rfl
  unfold testLever
  dsimp only
  repeat' split
  · rfl
  · exact ended _
  · rfl
  · rfl
  · rfl
  · rfl

/-- The standing-request stage leaves the channels as the standing request does, where no trip is held (R74). -/
theorem standingStage_brakes {r : Ref} {s : State} (held : s.heldTrips = []) :
    (standingStage r s).brakes = (writeStanding r.axis r.brake s).brakes := by
  have frame := (writeStanding_only r.axis r.brake s).frame
  have none : (writeStanding r.axis r.brake s).heldTrips = [] := by rw [frame]; exact held
  have lever : (leverRestart r.lever.toInt (writeStanding r.axis r.brake s)).brakes
      = (writeStanding r.axis r.brake s).brakes := by rw [leverRestart_eq]
  unfold standingStage
  dsimp only
  split
  · rename_i mode
    rw [testLever_brakes mode (by rw [leverRestart_eq]; exact none), lever]
  · exact lever

/-! The standing request (R49). -/

section
variable {x : Axis} {field : BrakeReq} {s : State} {c : Chan} {old : Channel}

theorem writeStanding_not_released (hc : c = chanOf x) (ho : old = s.brakes.get c) (h : old.state ≠ .released) :
    (writeStanding x field s).brakes.get c = { old with standing := field } := by
  subst hc ho
  unfold writeStanding
  dsimp only
  rw [if_neg h]
  exact setChan_get ..

theorem writeStanding_same (hc : c = chanOf x) (ho : old = s.brakes.get c) (h : old.state = .released)
    (k : old.armed = decide (field = .releaseAutoset)) :
    (writeStanding x field s).brakes.get c = { old with standing := field } := by
  subst hc ho
  have armed : (field == BrakeReq.releaseAutoset) = (s.brakes.get (chanOf x)).armed := k.symm
  unfold writeStanding
  dsimp only
  rw [if_pos h, if_pos armed, setChan_get, armed]

theorem writeStanding_changed (hc : c = chanOf x) (ho : old = s.brakes.get c) (h : old.state = .released)
    (k : old.armed ≠ decide (field = .releaseAutoset)) :
    QuietTested s c { old with standing := field, armed := decide (field = .releaseAutoset) }
      ((writeStanding x field s).brakes.get c) := by
  subst hc ho
  have armed : ¬(field == BrakeReq.releaseAutoset) = (s.brakes.get (chanOf x)).armed := fun e => k e.symm
  unfold writeStanding
  dsimp only
  rw [if_pos h, if_neg armed]
  have tested := quietTest_tested (chanOf x) (s.setChan (chanOf x) { (s.brakes.get (chanOf x)) with
    standing := field, armed := field == .releaseAutoset })
  rw [setChan_get] at tested
  exact tested.of_eq rfl rfl rfl

theorem BeginsToSet.standing {u : State} {ch ch' : Channel} (h : BeginsToSet u c ch ch') : ch'.standing = ch.standing := by
  by_cases k : ch.releasedTime.getD 0 + (u.act.brake.get c).minRelease ≤ u.now
  · rw [(h.1 k).1]; rfl
  · rw [h.2 (Nat.not_le.mp k)]; rfl

theorem QuietTested.standing {u : State} {ch ch' : Channel} (h : QuietTested u c ch ch') : ch'.standing = ch.standing := by
  obtain ⟨busy, running, start⟩ := h
  by_cases quiet : Quiet u c ch
  · by_cases timer : ch.tAutoset = none
    · by_cases delay : (u.act.brake.get c).autoset = 0
      · exact ((start quiet timer).2 delay).standing
      · rw [(start quiet timer).1 delay]
    · rw [running quiet timer]
  · rw [busy quiet]

/-- The standing request of the channel is the Reference's brake field (R49). -/
theorem writeStanding_standing (hc : c = chanOf x) : ((writeStanding x field s).brakes.get c).standing = field := by
  by_cases h : (s.brakes.get c).state = .released
  · by_cases k : (s.brakes.get c).armed = decide (field = .releaseAutoset)
    · rw [writeStanding_same hc rfl h k]
    · exact (writeStanding_changed hc rfl h k).standing
  · rw [writeStanding_not_released hc rfl h]

end

/-! A release request (R50). -/

/-- Another channel that is SET delays a release of a channel until a time (R50). -/
def DelaysUntil (s : State) (c i : Chan) (n : Nat) : Prop :=
  ∃ d, i ≠ c ∧ (s.act.matrix.get i).get c = some d ∧ (s.brakes.get i).state = .set ∧ n = (s.brakes.get i).setTime + d

/-- The later of a time and the one a channel delays a release until (R50). -/
def laterDue (s : State) (c : Chan) (t : Nat) (i : Chan) : Nat :=
  match s.matrix i c with
  | some d => if i != c && (s.brakes.get i).state == .set then max t ((s.brakes.get i).setTime + d) else t
  | none => t

theorem laterDue_of_delay {s : State} {c i : Chan} {n : Nat} (h : DelaysUntil s c i n) (t : Nat) :
    laterDue s c t i = max t n := by
  obtain ⟨d, other, entry, set, rfl⟩ := h
  unfold laterDue State.matrix
  rw [entry]
  simp [other, set]

theorem laterDue_of_none {s : State} {c i : Chan} (h : ¬∃ n, DelaysUntil s c i n) (t : Nat) : laterDue s c t i = t := by
  unfold laterDue State.matrix
  split
  · rename_i d entry
    rw [if_neg]
    rintro k
    simp only [Bool.and_eq_true, bne_iff_ne, ne_eq, beq_iff_eq] at k
    exact h ⟨_, d, k.1, entry, k.2, rfl⟩
  · rfl

theorem foldl_laterDue (s : State) (c : Chan) : ∀ (l : List Chan) (t : Nat),
    t ≤ l.foldl (laterDue s c) t ∧ (∀ i ∈ l, ∀ n, DelaysUntil s c i n → n ≤ l.foldl (laterDue s c) t)
      ∧ (l.foldl (laterDue s c) t = t ∨ ∃ i, DelaysUntil s c i (l.foldl (laterDue s c) t))
  | [], t => ⟨Nat.le_refl _, fun _ h => (by cases h), .inl rfl⟩
  | i :: l, t => by
    obtain ⟨least, all, least_or⟩ := foldl_laterDue s c l (laterDue s c t i)
    rw [List.foldl_cons]
    generalize l.foldl (laterDue s c) (laterDue s c t i) = due at least all least_or ⊢
    by_cases h : ∃ n, DelaysUntil s c i n
    · obtain ⟨n, delays⟩ := h
      rw [laterDue_of_delay delays] at least least_or
      refine ⟨(Nat.le_max_left ..).trans least, fun j hj m hm => ?_, least_or.elim (fun e => ?_) .inr⟩
      · rcases List.mem_cons.mp hj with rfl | hj
        · have same : m = n := by
            obtain ⟨d, -, entry, -, rfl⟩ := hm
            obtain ⟨d', -, entry', -, rfl⟩ := delays
            rw [entry] at entry'
            cases entry'
            rfl
          rw [same]
          exact (Nat.le_max_right ..).trans least
        · exact all j hj m hm
      · rcases Nat.le_total t n with k | k
        · rw [Nat.max_eq_right k] at e
          exact .inr ⟨i, e ▸ delays⟩
        · rw [Nat.max_eq_left k] at e
          exact .inl e
    · rw [laterDue_of_none h] at least least_or
      refine ⟨least, fun j hj m hm => ?_, least_or⟩
      rcases List.mem_cons.mp hj with rfl | hj
      · exact absurd ⟨m, hm⟩ h
      · exact all j hj m hm

/-- The due time of a release (R50). -/
theorem dueTime_dueAt (s : State) (c : Chan) : DueAt s c (s.dueTime c) := by
  obtain ⟨least, all, least_or⟩ := foldl_laterDue s c allChans ((s.brakes.get c).setTime + (s.act.brake.get c).minSet)
  refine ⟨least, fun i d other entry set => all i (mem_allChans i) _ ⟨d, other, entry, set, rfl⟩, least_or.imp_right ?_⟩
  rintro ⟨i, d, other, entry, set, due⟩
  exact ⟨i, d, other, entry, set, due⟩

theorem asksRelease_iff {s : State} {r : Ref} (h : s.held (chanOf r.axis) = false) :
    asksRelease (if s.held (chanOf r.axis) then .hold else r.brake) r.lever.toInt = true ↔ AsksRelease r := by
  rw [h]
  unfold asksRelease AsksRelease
  have lever : r.lever.toInt = 0 ↔ r.lever = 0#16 := by rw [← BitVec.toInt_inj]; rfl
  cases hb : r.brake <;> simp [lever]

theorem releasable_iff (s : State) (x : Axis) : s.releasable x = true ↔ Releasable s x := by
  unfold State.releasable Releasable
  simp [and_assoc]

/-! What the channel does on a Reference at the brake stage (R78). -/

/-- The speed recorded in a channel that is not RELEASED: its autoset timer stops (R56, R78). -/
theorem recordSpeed_not_released {x : Axis} {s : State} {ch : Channel} (hc : ch = s.brakes.get (chanOf x))
    (h : ch.state ≠ .released) (v : Int) :
    (recordSpeed x v s).brakes.get (chanOf x) = { ch with lastSpeed := ch.lastSpeed.set x v, tAutoset := none } := by
  subst hc
  have tested := quietTest_tested (chanOf x) (s.setChan (chanOf x) { (s.brakes.get (chanOf x)) with
    lastSpeed := (s.brakes.get (chanOf x)).lastSpeed.set x v })
  rw [setChan_get] at tested
  exact tested.of_not_released h

theorem recordSpeed_released {x : Axis} {s : State} {ch : Channel} (hc : ch = s.brakes.get (chanOf x)) (v : Int) :
    QuietTested s (chanOf x) { ch with lastSpeed := ch.lastSpeed.set x v }
      ((recordSpeed x v s).brakes.get (chanOf x)) := by
  subst hc
  have tested := quietTest_tested (chanOf x) (s.setChan (chanOf x) { (s.brakes.get (chanOf x)) with
    lastSpeed := (s.brakes.get (chanOf x)).lastSpeed.set x v })
  rw [setChan_get] at tested
  exact tested.of_eq rfl rfl rfl

/-- The forcing of the brake stage (R66, R78): a channel that is not RELEASED leaves no speed. -/
theorem brakeStage_not_released {x : Axis} {s : State} (h : (s.brakes.get (chanOf x)).state ≠ .released) (e : Eval) :
    (brakeStage x s e).speed = 0 := by
  unfold brakeStage
  dsimp only
  rw [if_neg h]
  by_cases zero : e.speed = 0
  · rw [capped_within _ (by show e.speed.natAbs ≤ 0; omega)]
    exact zero
  · exact (capped_zero_stops (e := { e with brake := forwardedField (s.brakes.get (chanOf x)).state }) _ zero).1

theorem brakeStage_released {x : Axis} {s : State} (h : (s.brakes.get (chanOf x)).state = .released) (e : Eval) :
    brakeStage x s e = { e with brake := 1 } := by
  unfold brakeStage
  dsimp only
  rw [if_pos h, h]
  rfl

/-- The channel after the brake stage of a Reference, with the speed it leaves with (R78). -/
def braked (r : Ref) (u : State) : State :=
  recordSpeed r.axis
    (brakeStage r.axis (brakeRequest r.axis r.brake r.lever.toInt u) (speedStages r.axis u (Eval.start r))).speed
    (brakeRequest r.axis r.brake r.lever.toInt u)

theorem braked_only (r : Ref) (u : State) : OnlyChan (chanOf r.axis) u (braked r u) :=
  (brakeRequest_only ..).trans (recordSpeed_only ..)

/-- A channel that the request leaves not RELEASED records speed 0 (R66, R78). -/
theorem braked_not_released {r : Ref} {u : State} {ch : Channel}
    (hc : ch = (brakeRequest r.axis r.brake r.lever.toInt u).brakes.get (chanOf r.axis)) (h : ch.state ≠ .released) :
    (braked r u).brakes.get (chanOf r.axis) = { ch with lastSpeed := ch.lastSpeed.set r.axis 0, tAutoset := none } := by
  unfold braked
  rw [brakeStage_not_released (by rw [← hc]; exact h), recordSpeed_not_released hc h]

theorem evaluate_eq (f : Frame) (r : Ref) (u : State) :
    evaluate f r u = forward { f with payload := evalPayload r (torqueStage r.axis u (brakeStage r.axis
      (brakeRequest r.axis r.brake r.lever.toInt u) (speedStages r.axis u (Eval.start r)))) } f.payload (braked r u) := by
  have frame := (braked_only r u).frame
  have torque : ∀ e, torqueStage r.axis (braked r u) e = torqueStage r.axis u e := fun e => by
    rw [frame]
    rfl
  unfold evaluate
  dsimp only
  rw [← torque]
  rfl

/-- A Reference evaluated: its way through the limiter (R68). -/
theorem limit_evaluates {f : Frame} {r : Ref} {v : State} (valid : v.tables.valid = true)
    (addressed : v.refAddressed f r = true) (free : (standingStage r v).segmentRuns (chanOf r.axis) = false) :
    limit f r v = evaluate f r (standingStage r v) := by
  unfold limit
  rw [valid, addressed]
  dsimp only
  rw [free]
  rfl

end Sys2Proof.Machine
end

section
/-!
SUPPORT. The channel of a Reference after the brake stage, by its state before (R50, R52, R54, R56, R78).
-/

namespace Sys2Proof.Machine

section
variable {r : Ref} {u : State} {ch ch' : Channel}

/-- The channel's record after a Reference (R78). -/
def BrakedTo (r : Ref) (u : State) (ch ch' : Channel) : Prop :=
  ch = u.brakes.get (chanOf r.axis) ∧ ch.standing = r.brake ∧ ch' = (braked r u).brakes.get (chanOf r.axis)

/-- HOLD is what the channel acts on when its standing request reads so, under the parking hold too (R28, R49). -/
theorem request_hold (h : BrakedTo r u ch ch') :
    (if u.held (chanOf r.axis) then BrakeReq.hold else r.brake) = .hold ↔ HoldStands u (chanOf r.axis) := by
  unfold HoldStands
  rw [← h.1, h.2.1]
  cases u.held (chanOf r.axis) <;> simp

/-- A SET channel that a Reference asks to release (R50). -/
theorem braked_releases (h : BrakedTo r u ch ch') (set : ch.state = .set) (asks : AsksRelease r)
    (able : Releasable u r.axis) (free : ¬Barred u (chanOf r.axis)) (due : Nat) (hd : due = u.dueTime (chanOf r.axis)) :
    (due ≤ u.now → u.proving (chanOf r.axis) = 0 →
        ch' = { ch.stopTimers with
          state := .releasing, due := none, proved := true, confirm := ⟨false, false⟩
          tRelease := some (u.now + (u.act.brake.get (chanOf r.axis)).releaseConfirm)
          lastSpeed := ch.lastSpeed.set r.axis 0 })
      ∧ ((u.now < due ∨ u.proving (chanOf r.axis) ≠ 0) →
        ch' = { ch.stopTimers with
          state := .releasePending, due := some due, proved := decide (u.proving (chanOf r.axis) = 0)
          tProve := some (u.now + (u.act.brake.get (chanOf r.axis)).prove)
          tDue := if due ≤ u.now then none else some due
          lastSpeed := ch.lastSpeed.set r.axis 0 }) := by
  obtain ⟨rfl, standing, rfl⟩ := h
  have permitted : u.held (chanOf r.axis) = false := able.2.1
  have entered : brakeRequest r.axis r.brake r.lever.toInt u = enterPending (chanOf r.axis) u := by
    have asked : (asksRelease (if u.held (chanOf r.axis) then .hold else r.brake) r.lever.toInt && u.releasable r.axis
        && !u.barred (chanOf r.axis)) = true := by
      rw [(asksRelease_iff permitted).mpr asks, (releasable_iff ..).mpr able,
        Bool.eq_false_iff.mpr (fun k => free ((barred_iff ..).mp k))]
      rfl
    unfold brakeRequest
    dsimp only
    rw [set]
    dsimp only
    rw [if_pos asked]
  generalize hp : u.setChan (chanOf r.axis) { (u.brakes.get (chanOf r.axis)).stopTimers with
        state := .releasePending
        due := some due
        proved := u.proving (chanOf r.axis) == 0
        tProve := some (u.now + (u.act.brake.get (chanOf r.axis)).prove)
        tDue := if due ≤ u.now then none else some due } = p
  have pending : enterPending (chanOf r.axis) u
      = if due ≤ u.now ∧ (u.proving (chanOf r.axis) == 0) = true then completeRelease (chanOf r.axis) p else p := by
    unfold enterPending
    dsimp only
    rw [← hd, hp]
  refine ⟨fun out unproved => ?_, fun waits => ?_⟩
  · rw [if_pos ⟨out, beq_iff_eq.mpr unproved⟩] at pending
    have open_ : ¬(p.barred (chanOf r.axis) || p.request (chanOf r.axis) == .hold) = true := by
      rw [Bool.or_eq_true, beq_iff_eq]
      rintro (k | k)
      · exact free ((hp ▸ setChan_only ..).barred ((barred_iff p _).mp k))
      · have hold := (request_hold_iff ..).mp k
        unfold HoldStands at hold
        rw [← hp] at hold
        rw [setChan_get] at hold
        rcases hold with k | k
        · exact absurd (permitted.symm.trans k) (by decide)
        · have brake : r.brake = .hold := standing.symm.trans k
          rcases asks with a | a
          · rw [brake] at a; cases a
          · rw [brake] at a; cases a.1
    have completed : (completeRelease (chanOf r.axis) p).brakes.get (chanOf r.axis)
        = { (p.brakes.get (chanOf r.axis)).stopTimers with
            state := .releasing, due := none, confirm := ⟨false, false⟩
            tRelease := some (p.now + (p.act.brake.get (chanOf r.axis)).releaseConfirm) } := by
      unfold completeRelease
      dsimp only
      rw [if_neg open_, setChan_get]
    rw [braked_not_released rfl (by rw [entered, pending, completed]; nofun), entered, pending, completed, ← hp,
      setChan_get, unproved]
    rfl
  · rw [if_neg (fun k => waits.elim (fun w => Nat.not_lt.mpr k.1 w) fun w => w (beq_iff_eq.mp k.2))] at pending
    have record := congrArg (fun s : State => s.brakes.get (chanOf r.axis)) hp
    dsimp only at record
    rw [setChan_get] at record
    rw [braked_not_released rfl (by rw [entered, pending, ← record]; nofun), entered, pending, ← record]
    rfl

/-- A SET channel that no Reference may release stays SET (R50). -/
theorem braked_stays_set (h : BrakedTo r u ch ch') (set : ch.state = .set)
    (stays : ¬AsksRelease r ∨ ¬Releasable u r.axis ∨ Barred u (chanOf r.axis)) :
    ch' = { ch with lastSpeed := ch.lastSpeed.set r.axis 0, tAutoset := none } := by
  obtain ⟨rfl, -, rfl⟩ := h
  have asked : ¬(asksRelease (if u.held (chanOf r.axis) then .hold else r.brake) r.lever.toInt && u.releasable r.axis
      && !u.barred (chanOf r.axis)) = true := by
    rw [Bool.and_eq_true, Bool.and_eq_true]
    rintro ⟨⟨asks, able⟩, free⟩
    have able := (releasable_iff ..).mp able
    rcases stays with k | k | k
    · exact k ((asksRelease_iff able.2.1).mp asks)
    · exact k able
    · rw [(barred_iff ..).mpr k] at free
      cases free
  have same : brakeRequest r.axis r.brake r.lever.toInt u = u := by
    unfold brakeRequest
    dsimp only
    rw [set]
    dsimp only
    rw [if_neg asked]
  rw [braked_not_released rfl (by rw [same, set]; decide), same]

/-- HOLD returns a RELEASE_PENDING channel to SET (R52). -/
theorem braked_pending_hold (h : BrakedTo r u ch ch') (pending : ch.state = .releasePending)
    (hold : HoldStands u (chanOf r.axis)) :
    ch' = { ch.stopTimers with state := .set, due := none, proved := false, lastSpeed := ch.lastSpeed.set r.axis 0 } := by
  have req := (request_hold h).mpr hold
  obtain ⟨rfl, -, rfl⟩ := h
  have returned : (brakeRequest r.axis r.brake r.lever.toInt u).brakes.get (chanOf r.axis)
      = { (u.brakes.get (chanOf r.axis)).stopTimers with state := .set, due := none, proved := false } := by
    unfold brakeRequest
    dsimp only
    rw [pending]
    dsimp only
    rw [if_pos req]
    exact setChan_get ..
  rw [braked_not_released rfl (by rw [returned]; nofun), returned]
  rfl

theorem BeginsToSet.not_released {c : Chan} (h : BeginsToSet u c ch ch') : ch'.state ≠ .released := by
  by_cases k : ch.releasedTime.getD 0 + (u.act.brake.get c).minRelease ≤ u.now
  · rw [(h.1 k).1]; nofun
  · rw [h.2 (Nat.not_le.mp k)]; nofun

/-- The last forwarded speed plays no part in a channel's beginning to set (R54). -/
theorem BeginsToSet.lastSpeed {c : Chan} (h : BeginsToSet u c ch ch') (l : Pair Int) :
    BeginsToSet u c { ch with lastSpeed := l } { ch' with lastSpeed := l, tAutoset := none } := by
  refine ⟨fun k => ?_, fun k => ?_⟩
  · obtain ⟨record, hard⟩ := h.1 k
    refine ⟨?_, hard⟩
    rw [record]
    rfl
  · rw [h.2 k]
    rfl

/-- HOLD begins to set a RELEASED channel (R54). -/
theorem braked_released_hold (h : BrakedTo r u ch ch') (released : ch.state = .released)
    (hold : HoldStands u (chanOf r.axis)) :
    BeginsToSet u (chanOf r.axis) { ch with lastSpeed := ch.lastSpeed.set r.axis 0 } ch' := by
  have req := (request_hold h).mpr hold
  obtain ⟨rfl, -, rfl⟩ := h
  have begins : brakeRequest r.axis r.brake r.lever.toInt u = beginToSet (chanOf r.axis) u := by
    unfold brakeRequest
    dsimp only
    rw [released]
    dsimp only
    rw [if_pos req]
  have step := beginToSet_begins (chanOf r.axis) u
  rw [← begins] at step
  have kept : ((brakeRequest r.axis r.brake r.lever.toInt u).brakes.get (chanOf r.axis)).lastSpeed
      = (u.brakes.get (chanOf r.axis)).lastSpeed := by
    by_cases k : (u.brakes.get (chanOf r.axis)).releasedTime.getD 0 + (u.act.brake.get (chanOf r.axis)).minRelease ≤ u.now
    · rw [(step.1 k).1]; rfl
    · rw [step.2 (Nat.not_le.mp k)]; rfl
  rw [braked_not_released rfl step.not_released, kept]
  exact step.lastSpeed _

/-- Without HOLD a RELEASED channel takes the speed, and its quietness is tested (R56). -/
theorem braked_released_free (h : BrakedTo r u ch ch') (released : ch.state = .released)
    (free : ¬HoldStands u (chanOf r.axis)) :
    QuietTested u (chanOf r.axis)
      { ch with lastSpeed := ch.lastSpeed.set r.axis (speedStages r.axis u (Eval.start r)).speed } ch' := by
  have req := mt (request_hold h).mp free
  obtain ⟨rfl, -, rfl⟩ := h
  have same : brakeRequest r.axis r.brake r.lever.toInt u = u := by
    unfold brakeRequest
    dsimp only
    rw [released]
    dsimp only
    rw [if_neg req]
  unfold braked
  rw [same, brakeStage_released released]
  exact recordSpeed_released rfl _

/-- In every other state the speed 0 is recorded alone (R78). -/
theorem braked_recorded (h : BrakedTo r u ch ch')
    (state : ch.state = .releasing ∨ ch.state = .setPending ∨ ch.state = .setting ∨ ch.state = .fault
      ∨ (ch.state = .releasePending ∧ ¬HoldStands u (chanOf r.axis))) :
    ch' = { ch with lastSpeed := ch.lastSpeed.set r.axis 0, tAutoset := none } := by
  have req := request_hold h
  obtain ⟨rfl, -, rfl⟩ := h
  have same : brakeRequest r.axis r.brake r.lever.toInt u = u := by
    unfold brakeRequest
    dsimp only
    rcases state with k | k | k | k | ⟨k, free⟩ <;> rw [k]
    dsimp only
    rw [if_neg (mt req.mp free)]
  have other : (u.brakes.get (chanOf r.axis)).state ≠ .released := by
    rcases state with k | k | k | k | ⟨k, -⟩ <;> rw [k] <;> decide
  rw [braked_not_released rfl (by rw [same]; exact other), same]

end

end Sys2Proof.Machine
end

section
/-!
SUPPORT. References turned away (R72 to R74), and the caps of the hoist envelope (R82, R83).
-/

namespace Sys2Proof.Machine

theorem bumpWord_allOnes : bumpWord (BitVec.allOnes 32) = BitVec.allOnes 32 := by decide

theorem bumpWord_of_ne {w : BitVec 32} (h : w ≠ BitVec.allOnes 32) : bumpWord w = w + 1#32 ∧ bumpWord w ≠ w := by
  have word : bumpWord w = w + 1#32 := if_neg h
  refine ⟨word, fun e => ?_⟩
  rw [word] at e
  have zero : (1#32 : BitVec 32) = 0#32 := by
    have sub := congrArg (fun v => v - w) e
    rwa [BitVec.add_comm, BitVec.add_sub_cancel, BitVec.sub_self] at sub
  exact absurd zero (by decide)

/-- A Reference turned away for its source or destination is counted (R72, R73). -/
theorem limit_refuses {f : Frame} {r : Ref} {v : State} (valid : v.tables.valid = true)
    (away : v.refAddressed f r = false) : limit f r v = refuseRef v := by
  unfold limit
  rw [valid, away]
  rfl

theorem limit_supersedes {f : Frame} {r : Ref} {v : State} (valid : v.tables.valid = true)
    (addressed : v.refAddressed f r = true) (runs : (standingStage r v).segmentRuns (chanOf r.axis) = true) :
    limit f r v = bump .removedSuperseded (standingStage r v) := by
  unfold limit
  rw [valid, addressed]
  dsimp only
  rw [runs]
  rfl

/-- With the count saturated the refused-reference source is not handed (R25). -/
theorem refuseRef_saturated {s : State} (h : s.counter .removedRefusedRef = BitVec.allOnes 32) :
    refuseRef s = bump .removedRefusedRef s := by
  unfold refuseRef
  dsimp only
  rw [bump_counter_same, h, bumpWord_allOnes, if_pos rfl]

theorem refuseRef_counts {s : State} (h : s.counter .removedRefusedRef ≠ BitVec.allOnes 32) :
    refuseRef s = feed 79 (s.counter .removedRefusedRef + 1#32).toNat true none (bump .removedRefusedRef s) := by
  obtain ⟨word, other⟩ := bumpWord_of_ne h
  unfold refuseRef
  dsimp only
  rw [bump_counter_same, if_neg other, word]

theorem bump_feedback_attrs (c : Counter) (s : State) : (bump c s).feedback = s.feedback ∧ (bump c s).attrs = s.attrs :=
  ⟨rfl, rfl⟩

/-- What turning a Reference away leaves, but for its source (R72, R73). -/
theorem refuseRef_kept (s : State) : TripKept (bump .removedRefusedRef s) (refuseRef s) := by
  by_cases h : s.counter .removedRefusedRef = BitVec.allOnes 32
  · rw [refuseRef_saturated h]
    exact .refl _
  · rw [refuseRef_counts h]
    exact feed_kept ..

theorem refuseRef_source {s : State} (h : s.counter .removedRefusedRef ≠ BitVec.allOnes 32) :
    (refuseRef s).source 79 = { value := (s.counter .removedRefusedRef + 1#32).toNat, valid := true } := by
  rw [refuseRef_counts h, feed_source_same (by decide) (by decide) (by decide) (by decide) (by decide)]
  rfl

/-- Where no point watches the refused-reference source nothing but that source and the ring interface changes. -/
theorem refuseRef_unwatched {s : State} (h : s.pointsOn 79 = []) :
    refuseRef s = { s with ring := (refuseRef s).ring
                           alarm := { s.alarm with sources := (refuseRef s).alarm.sources } }
      ∧ ∀ code, code ≠ 79 → (refuseRef s).source code = s.source code := by
  by_cases k : s.counter .removedRefusedRef = BitVec.allOnes 32
  · rw [refuseRef_saturated k]
    exact ⟨rfl, fun _ _ => rfl⟩
  · rw [refuseRef_counts k, feed_unwatched _ _ _ (by exact h)]
    exact ⟨rfl, fun code other => setSource_source_ne other (by decide) ..⟩

theorem arrived_feedback (e : Fin 16) (r : StationRun) (seq : Byte) (s : State) :
    (arrived e r seq s).feedback = s.feedback := by
  unfold arrived
  split <;> rfl

@[simp] theorem received_feedback (f : Frame) (s : State) : (received f s).feedback = s.feedback := by
  unfold received
  split
  · exact ((arrival_kept ..).feedback.trans (arrived_feedback ..)).trans (heard_kept s).feedback
  · exact (heard_kept s).feedback

/-- No trip is held when a frame is dispatched (R159). -/
theorem received_held (f : Frame) {s : State} (h : s.heldTrips = []) : (received f s).heldTrips = [] := by
  have heard : NoneHeld (heard s) := noneHeld_keeps.silenceRestart (noneHeld_keeps.bump _ h)
  unfold received
  split
  · exact noneHeld_keeps.arrival _ _ _ heard
  · exact heard

/-! The hoist envelope (R82, R83). -/

theorem limitStage_hoist (s : State) (e : Eval) : limitStage .hoist s e = e.cappedBy (s.hoistCap e.speed) .envelope := by
  unfold limitStage
  split
  · rename_i zero
    exact (cappedBy_zero zero ..).symm
  · rfl

theorem hoistCap_unheard {s : State} (h : s.feedback.drag.updated = false) (v : Int) : s.hoistCap v = some 0 := by
  unfold State.hoistCap
  rw [h]
  rfl

theorem hoistCap_row {s : State} {row : EnvRow} (h : s.feedback.drag.updated = true)
    (k : s.envelopeRow s.feedback.drag.position = some row) (v : Int) :
    s.hoistCap v = ropeCap row.hoistMin row.hoistMax row.band row.slow s.feedback.hoist.position v := by
  unfold State.hoistCap
  rw [h, k]
  rfl

end Sys2Proof.Machine
end

section
/-!
The obligations of chapter 4 on References with tables, and on the hoist envelope.
-/

namespace Sys2Proof.Proofs

open Sys2Proof.Machine

/-- Settles O10: each stage keeps or lowers the speed and the torque limit, and the frame leaves as the last stage leaves it. -/
theorem forwardedReferenceIsNeverRaised : Obligations.ForwardedReferenceIsNeverRaised := by
  refine ⟨parseRef_iff, fun h w r => parseRef_fields w r, fun f r s => refAddressed_iff s f r, ?_, fun _ _ _ => rfl, ?_,
    fun x s e fresh heard => freshStage_fresh fresh heard e, eval_cause⟩
  · rintro h w s u k f r e rfl hr passes away valid addressed rfl free room rfl rfl
    have reads : RefReads w r := (parseRef_fields w r).mp hr
    obtain ⟨axis, -, lever, speed, torque, -⟩ := reads
    have lowered := fun a b d => (((lowered_start r).speedStages r.axis a).brakeStage r.axis b).torqueStage r.axis d
    refine ⟨_, exec_reference hr passes away, ?_, ?_, ?_, ?_⟩
    · rw [limit_evaluates valid addressed free, evaluate_eq, finish_fwd]
      have queue : (braked r (standingStage r (received (refFrame h w) s))).ring.fwd = s.ring.fwd := by
        rw [(braked_only ..).kept.fwd, (standingStage_kept ..).fwd, received_fwd]
      rw [forward_fwd (by rw [queue]; exact room), queue]
      unfold evalPayload
      rw [byte_axisCode axis, lever]
    · rw [← speed]
      exact (lowered _ _ _).magnitude
    · rw [← speed]
      exact (lowered _ _ _).sign
    · rw [← torque]
      exact (lowered _ _ _).torque
  · rintro x s e o rfl permitted free
    rw [modeStage_permitted permitted free]
    refine ⟨fun above => capped_above_keeps_direction _ above, fun within => ?_, ?_, ?_⟩
    · rw [capped_within _ within]
      exact ⟨rfl, rfl⟩
    · unfold Eval.capped
      split <;> rfl
    · unfold Eval.capped
      split <;> rfl

/-- Settles O12: a Reference turned away is counted, and the new count handed. -/
theorem referencesTurnedAway : Obligations.ReferencesTurnedAway := by
  refine ⟨fun f r s => refAddressed_iff s f r, ?_⟩
  rintro h w s f r rfl hr passes away valid
  refine ⟨fun refused => ⟨_, exec_reference hr passes away, ?_⟩, fun addressed runs => ⟨_, exec_reference hr passes away, ?_⟩⟩
  · rw [limit_refuses valid refused]
    have kept := refuseRef_kept (received (refFrame h w) s)
    refine ⟨?_, ?_, fun room => ?_, fun full => ⟨?_, ?_⟩, ?_, ?_, fun unwatched => ?_⟩
    · rw [finish_fwd, kept.fwd, bump_fwd, received_fwd]
    · rw [finish_counter, kept.counter, bump_counter_same]
    · rw [finish_source, refuseRef_source room]
    · rw [finish_source, refuseRef_saturated full, bump_source]
    · rw [refuseRef_saturated full]
      exact finish_bump_onlyRing ..
    · rw [finish_feedback, kept.feedback]
      exact received_feedback ..
    · rw [finish_attrs, kept.attrs]
      rfl
    · obtain ⟨rest, others⟩ := refuseRef_unwatched unwatched
      refine ⟨?_, fun code other => by rw [finish_source, others code other]⟩
      have finished := finish_onlyRing (refuseRef (received (refFrame h w) s))
      unfold OnlyRing at finished
      rw [finish_alarm, finished, rest]
  · rw [limit_supersedes valid addressed runs]
    refine ⟨?_, finish_bump_onlyRing .., ?_⟩
    · rw [finish_fwd, bump_fwd, (standingStage_kept ..).fwd, received_fwd]
    · rw [finish_counter, bump_counter_same, (standingStage_kept ..).counter]

/-- Settles O13: the first blocking stage gives the cause, and the stages after it leave speed 0. -/
theorem blockedReferenceCause : Obligations.BlockedReferenceCause := by
  refine ⟨?_, permits_iff, ⟨rfl, rfl, rfl, rfl, rfl, rfl, rfl⟩, held_iff⟩
  rintro x s u r o rfl
  refine ⟨fun barred => ?_, fun permitted held => ?_, fun permitted free stale => ?_⟩
  · have blocked : modeStage x s (Eval.start r) = (Eval.start r).blocked (blockCause s.mode) := by
      unfold modeStage
      rw [barred]
      rfl
    unfold speedStages
    rw [blocked]
    exact (((blocked_start r _).freshStage x s).lowering x s u).cause
  · have blocked : modeStage x s (Eval.start r) = (Eval.start r).blocked .parking := by
      unfold modeStage
      rw [permitted, held]
      rfl
    unfold speedStages
    rw [blocked]
    exact (((blocked_start r _).freshStage x s).lowering x s u).cause
  · have unblocked : (modeStage x s (Eval.start r)).block = none := by
      rw [modeStage_permitted permitted free]
      unfold Eval.capped
      split <;> rfl
    have blocked : BlockedFor .stale (freshStage x s (modeStage x s (Eval.start r))) := by
      unfold freshStage
      rw [if_neg (by rcases stale with k | k <;> rw [k] <;> simp)]
      exact ⟨rfl, by show Option.or _ _ = _; rw [unblocked]; rfl⟩
    exact (blocked.lowering x s u).cause

/-- Settles O15: HOIST is capped by the row in force, and stops without a DRAG feedback record. -/
theorem hoistEnvelope : Obligations.HoistEnvelope := by
  refine ⟨envelopeRow_iff, ?_⟩
  rintro s e o rfl
  refine ⟨fun unheard moving => ?_, fun heard row force p hp => ?_, fun zero => limitStage_zero zero .hoist s⟩
  · rw [limitStage_hoist, hoistCap_unheard unheard]
    exact capped_zero_stops _ moving
  · subst hp
    exact cappedBy_ropeCap (by rw [limitStage_hoist, hoistCap_row heard force])

end Sys2Proof.Proofs
end

section
/-!
SUPPORT. The brake stage on a Reference and the park timer's length (R30, R65, R66).
-/

namespace Sys2Proof.Machine

theorem forwardedField_of (st : ChanState) :
    ((st = .set ∨ st = .setting ∨ st = .fault) → forwardedField st = 0) ∧ (st = .releasePending → forwardedField st = 3)
      ∧ ((st = .releasing ∨ st = .released ∨ st = .setPending) → forwardedField st = 1) := by
  cases st <;> decide

theorem brakeStage_keeps (x : Axis) (s : State) (e : Eval) :
    (brakeStage x s e).brake = forwardedField (s.brakes.get (chanOf x)).state
      ∧ (brakeStage x s e).torque = e.torque ∧ (brakeStage x s e).block = e.block := by
  unfold brakeStage Eval.capped
  dsimp only
  repeat' split
  all_goals exact ⟨rfl, rfl, rfl⟩

theorem brakeStage_lowers {x : Axis} {s : State} (h : (s.brakes.get (chanOf x)).state ≠ .released) {e : Eval}
    (moving : e.speed ≠ 0) : (brakeStage x s e).lower = if s.held (chanOf x) then .parking else .brake := by
  unfold brakeStage
  dsimp only
  rw [if_neg h]
  exact (capped_zero_stops (e := { e with brake := forwardedField (s.brakes.get (chanOf x)).state }) _ moving).2

theorem parkLength_of (code : Nat) : (code = 0 → parkLength code = none)
    ∧ (1 ≤ code → code ≤ 120 → parkLength code = some (code * 5000))
    ∧ (120 < code → parkLength code = some ((code - 120) * 900000)) := by
  unfold parkLength
  refine ⟨fun h => if_pos h, fun h k => ?_, fun h => ?_⟩
  · rw [if_neg (by omega), if_pos k]
  · rw [if_neg (by omega), if_neg (by omega)]

/-- What a console Reference makes of its channel before the brake stage (R49, R56). -/
theorem standing_channel {r : Ref} {v u : State} {c : Chan} {old ch : Channel} (held : v.heldTrips = [])
    (hc : c = chanOf r.axis) (hu : u = standingStage r v) (ho : old = v.brakes.get c) (hch : ch = u.brakes.get c) :
    (old.state ≠ .released → ch = { old with standing := r.brake })
      ∧ (old.state = .released →
          (old.armed = decide (r.brake = .releaseAutoset) → ch = { old with standing := r.brake })
          ∧ (old.armed ≠ decide (r.brake = .releaseAutoset) →
              QuietTested v c { old with standing := r.brake, armed := decide (r.brake = .releaseAutoset) } ch))
      ∧ (∀ d, d ≠ c → u.brakes.get d = v.brakes.get d) ∧ ch.standing = r.brake := by
  have brakes : u.brakes = (writeStanding r.axis r.brake v).brakes := hu ▸ standingStage_brakes held
  rw [brakes] at hch ⊢
  rw [hch]
  refine ⟨fun h => writeStanding_not_released hc ho h, fun h => ⟨fun k => writeStanding_same hc ho h k,
    fun k => writeStanding_changed hc ho h k⟩, fun d hd => ?_, writeStanding_standing hc⟩
  exact (writeStanding_only ..).others d (hc ▸ hd)

/-- A Reference evaluated touches its channel, the ring interface and the notice marks alone (R78, R80). -/
theorem evaluate_frame (f : Frame) (r : Ref) {u t : State} (ht : t = finish (evaluate f r u)) :
    t = { u with brakes := t.brakes, ring := t.ring, owed := t.owed, statusOwed := t.statusOwed }
      ∧ t.brakes = (braked r u).brakes := by
  have finished := (finish_kept (evaluate f r u)).rest
  rw [← ht, evaluate_eq, forward_rest] at finished
  have frame := (braked_only r u).frame
  generalize braked r u = b at finished frame ⊢
  constructor
  · rw [finished, frame]
  · rw [finished]

end Sys2Proof.Machine
end

section
/-!
The obligation of chapter 4 on the brake stage.
-/

namespace Sys2Proof.Proofs

open Sys2Proof.Machine

/-- Settles O14: the standing request, the lever, and what the brake stage makes of the channel by its state. -/
theorem brakeStageForcesSpeed : Obligations.BrakeStageForcesSpeed := by
  refine ⟨?forcing, fun s => ⟨rfl, rfl, rfl, rfl⟩, fun r v u h => standingStage_leaves h, parkLength_of, ?channel⟩
  case forcing =>
    rintro x s e o rfl
    obtain ⟨brake, torque, block⟩ := brakeStage_keeps x s e
    refine ⟨?_, torque, block⟩
    rintro st rfl
    obtain ⟨hold, wait, release⟩ := forwardedField_of (s.brakes.get (chanOf x)).state
    rw [brake]
    exact ⟨hold, wait, release, fun h => brakeStage_not_released h e, fun h k => brakeStage_lowers h k,
      fun h => by rw [brakeStage_released h]; exact ⟨rfl, rfl⟩⟩
  case channel =>
    intro h w s v u f r c old ch hf hr passes hv away valid addressed none hc hu free hold hch
    have held : v.heldTrips = [] := hv ▸ received_held f none
    obtain ⟨other, released, others, standing⟩ := standing_channel held hc hu hold hch
    subst hf hv hc
    refine ⟨other, released, others, ?_⟩
    have idle : (standingStage r (received (refFrame h w) s)).segmentRuns (chanOf r.axis) = false := hu ▸ free
    have arrived : exec (.reference h w) s = .next (finish (evaluate (refFrame h w) r u)) := by
      rw [exec_reference hr passes away, limit_evaluates valid addressed idle, hu]
    obtain ⟨frame, brakes⟩ := evaluate_frame (refFrame h w) r (u := u) rfl
    rw [brakes] at frame
    refine ⟨finish (evaluate (refFrame h w) r u), (braked r u).brakes.get (chanOf r.axis), arrived, by rw [brakes], ?_⟩
    · rw [brakes]
      have reached : BrakedTo r u ch ((braked r u).brakes.get (chanOf r.axis)) := ⟨hch, standing, rfl⟩
      refine ⟨frame, fun d hd => (braked_only r u).others d hd, fun set asks able unbarred => ?_,
        braked_stays_set reached, braked_pending_hold reached, braked_released_hold reached, braked_released_free reached, braked_recorded reached⟩
      exact ⟨_, dueTime_dueAt u _, braked_releases reached set asks able unbarred _ rfl⟩

end Sys2Proof.Proofs
end

section
/-!
What a trip records: the record that joins the queue, and that later trips leave it there (R157, R158, R163).
-/

namespace Sys2Proof.Machine

theorem appendRecord_trip (r : TripRecord) (s : State) :
    (appendRecord r s).trip =
      if s.trip.queue.length < 32 then
        { s.trip with queue := s.trip.queue ++ [{ r with number := s.trip.next }]
                      next := if s.trip.next < 4294967295 then s.trip.next + 1 else s.trip.next }
      else
        { s.trip with notStored := if s.trip.notStored < 65535 then s.trip.notStored + 1 else s.trip.notStored
                      next := if s.trip.next < 4294967295 then s.trip.next + 1 else s.trip.next } := by
  have fed : ∀ code v u, (feedHeld code v true none u).trip = u.trip := fun code v u =>
    (feedHeld_event code v true none u).trip
  unfold appendRecord
  dsimp only
  by_cases room : s.trip.queue.length < 32
  · rw [if_pos (by exact room), if_pos room, fed]
    rfl
  · rw [if_neg (by exact room), if_neg room]
    split
    · rw [fed]
      rfl
    · rfl

/-- The trip unit once the lines of a trip are de-energised (R157 step 3, R158). -/
def lined (a : TripAction) (t : Trip) : Trip :=
  { t with field := .deEnergised, brake := if a = .both then .deEnergised else t.brake }

/-- A trip takes its record, captured from the machine before it, once the lines are de-energised (R157, R158). -/
theorem takeTrip_appends (i : TripIn) (s : State) :
    ∃ u, takeTrip i s = appendRecord (capture i (decide (s.mode ≠ .tripped)) s) u ∧ u.trip = lined i.action s.trip := by
  unfold takeTrip
  by_cases m : s.mode = .tripped
  · rw [if_pos m]
    refine ⟨deEnergise i.action s, ?_, rfl⟩
    rw [decide_eq_false fun k => k m]
    rfl
  · rw [if_neg m, decide_eq_true m]
    have steps : (modeSteps .tripped s).trip = s.trip := by
      rw [modeSteps_trip, if_neg fun k => nomatch k.2]
    have set : (tripSetAll (deEnergise i.action (modeSteps .tripped s))).trip = lined i.action s.trip := by
      rw [(tripSetAll_alike _).trip, ← steps]
      rfl
    unfold firstTrip
    dsimp only
    refine ⟨_, rfl, ?_⟩
    split <;> exact set

theorem takeTrip_trip (i : TripIn) (s : State) :
    ∃ u : State, u.trip = lined i.action s.trip
      ∧ (takeTrip i s).trip = (appendRecord (capture i (decide (s.mode ≠ .tripped)) s) u).trip := by
  obtain ⟨u, eq, trip⟩ := takeTrip_appends i s
  exact ⟨u, trip, by rw [eq]⟩

theorem takeTrip_brake (i : TripIn) (s : State) :
    (takeTrip i s).trip.brake = if i.action = .both then .deEnergised else s.trip.brake := by
  obtain ⟨u, trip, eq⟩ := takeTrip_trip i s
  rw [eq, appendRecord_trip]
  split <;> (show u.trip.brake = _; rw [trip]; rfl)

theorem takeTrip_queue (i : TripIn) (s : State) : (takeTrip i s).trip.queue =
    if s.trip.queue.length < 32 then
      s.trip.queue ++ [{ capture i (decide (s.mode ≠ .tripped)) s with number := s.trip.next }]
    else s.trip.queue := by
  obtain ⟨u, trip, eq⟩ := takeTrip_trip i s
  have queue : u.trip.queue = s.trip.queue := by rw [trip]; rfl
  have next : u.trip.next = s.trip.next := by rw [trip]; rfl
  rw [eq, appendRecord_trip, queue, next]
  split
  · rfl
  · exact queue

/-- A record once taken stays in the queue (R163). -/
theorem recordHeld_stable (r : TripRecord) : TripStable fun s => r ∈ s.trip.queue where
  view h _ trip := by rw [trip]; exact h
  trip i s h := by
    rw [takeTrip_queue]
    split
    · exact List.mem_append_left _ h
    · exact h

/-- A BRAKE line that is de-energised stays so (R160). -/
theorem brakeOff_stable : TripStable fun s => s.trip.brake = .deEnergised where
  view h _ trip := by rw [trip]; exact h
  trip i s h := by
    rw [takeTrip_brake, h, ite_self]

/-- A trip handed with none held is taken first, and those it raises after it (R159). -/
theorem handTrip_eq (i : TripIn) {s : State} (h : s.heldTrips = []) :
    handTrip i s = drainTrips 255 (takeTrip i s) := by
  have none : ({ s with heldTrips := [] } : State) = s := by rw [← h]
  unfold handTrip drain
  conv_lhs => unfold drainTrips
  rw [h]
  show drainTrips 255 (takeTrip i { s with heldTrips := [] }) = _
  rw [none]

theorem handTrip_tripped (i : TripIn) (s : State) : Tripped (handTrip i s) :=
  tripped_stable.handTrip takeTrip_tripped i s

theorem handTrip_brakeOff {i : TripIn} (both : i.action = .both) {s : State} (h : s.heldTrips = []) :
    (handTrip i s).trip.brake = .deEnergised := by
  rw [handTrip_eq i h]
  refine brakeOff_stable.drainTrips 255 ?_
  rw [takeTrip_brake, if_pos both]

/-- With room in the queue, the record of a trip is in it (R157, R158, R163). -/
theorem handTrip_holds (i : TripIn) {s : State} (h : s.heldTrips = []) (room : s.trip.queue.length < 32) :
    { capture i (decide (s.mode ≠ .tripped)) s with number := s.trip.next } ∈ (handTrip i s).trip.queue := by
  rw [handTrip_eq i h]
  refine (recordHeld_stable _).drainTrips 255 ?_
  rw [takeTrip_queue, if_pos room]
  exact List.mem_append_right _ (List.mem_singleton_self _)

theorem handTrip_recorded {i : TripIn} (both : i.action = .both) {s : State} (h : s.heldTrips = [])
    (room : s.trip.queue.length < 32) : TripRecorded s i.cause i.frame (handTrip i s) :=
  ⟨_, handTrip_holds i h room, rfl, both, rfl, rfl, rfl, rfl, rfl⟩

end Sys2Proof.Machine
end

section
/-!
Rules of the wear and level records: what storing a record leaves, and what a gain leaves (R171, R173).
-/

namespace Sys2Proof.Machine

variable (i : Fin 13) (r : AttrRun) (n : Nat) (s : State)

theorem setNorm_eq : setNorm i r n s =
    if n = (s.attrs.recs[i]).norm then putAttr i (normed r n) s
    else feed (56 + i.val) n true none (putAttr i (normed r n) s) := rfl

theorem setNorm_kept : TripKept (putAttr i (normed r n) s) (setNorm i r n s) := by
  rw [setNorm_eq]
  split
  · exact .refl _
  · exact feed_kept ..

theorem setNorm_attrs : (setNorm i r n s).attrs = { s.attrs with recs := s.attrs.recs.set i (normed r n) } :=
  (setNorm_kept i r n s).attrs

theorem setNorm_same : (setNorm i r n s).attrs.recs[i] = normed r n := by
  rw [setNorm_attrs]
  exact Vector.getElem_set_self ..

theorem setNorm_other {j : Fin 13} (h : j ≠ i) : (setNorm i r n s).attrs.recs[j] = s.attrs.recs[j] := by
  rw [setNorm_attrs]
  exact Vector.getElem_set_ne i.isLt j.isLt fun e => h (Fin.ext e.symm)

/-- A changed normalised value is handed (R173). -/
theorem setNorm_source (h : n ≠ (s.attrs.recs[i]).norm) :
    (setNorm i r n s).source (56 + i.val) = { value := n, valid := true } := by
  have hi := i.isLt
  rw [setNorm_eq, if_neg h, feed_source_same (by omega) (by omega) (by omega) (by omega) (by omega)]
  rfl

/-- With no point on its source, a stored record changes only the records and the value of that source. -/
theorem setNorm_unwatched (h : s.pointsOn (56 + i.val) = []) :
    setNorm i r n s = { s with attrs := (setNorm i r n s).attrs
                               alarm := { s.alarm with sources := (setNorm i r n s).alarm.sources } } := by
  rw [setNorm_eq]
  split
  · rfl
  · rw [feed_unwatched _ _ _ (by exact h)]
    rfl

/-- A record with its raw value gained, saturating (R171). -/
def gained (n : Nat) (r : AttrRun) : AttrRun := { r with raw := min 281474976710655 (r.raw + n) }

theorem gain_eq : gain i n s = setNorm i (gained n s.attrs.recs[i]) (s.workedNorm i (gained n s.attrs.recs[i])) s := rfl

theorem gain_kept : TripKept (putAttr i (normed (gained n s.attrs.recs[i]) (s.workedNorm i (gained n s.attrs.recs[i]))) s)
    (gain i n s) := setNorm_kept ..

theorem gain_raw : ((gain i n s).attrs.recs[i]).raw = min 281474976710655 ((s.attrs.recs[i]).raw + n) := by
  rw [gain_eq, setNorm_same]
  rfl

theorem gain_other {j : Fin 13} (h : j ≠ i) : (gain i n s).attrs.recs[j] = s.attrs.recs[j] := setNorm_other _ _ _ _ h

theorem gain_attrs : (gain i n s).attrs = { s.attrs with recs := (gain i n s).attrs.recs } := by
  rw [gain_eq, setNorm_attrs]

theorem gain_unwatched (h : s.pointsOn (56 + i.val) = []) :
    gain i n s = { s with attrs := (gain i n s).attrs, alarm := { s.alarm with sources := (gain i n s).alarm.sources } } :=
  setNorm_unwatched _ _ _ _ h

/-- The normalised value a WEAR record is worked out to (R173). -/
theorem workedNorm_wear {s : State} {i : Fin 13} (wear : levelChan i = none) (r : AttrRun) :
    s.workedNorm i r = min r.norm (max 1 (min 100 (100 - quotient (99 * r.raw) (s.act.attrs[i]).life))) := by
  unfold State.workedNorm
  rw [wear]
  rfl

theorem gain_norm (wear : levelChan i = none) : ((gain i n s).attrs.recs[i]).norm = min (s.attrs.recs[i]).norm
    (max 1 (min 100 (100 - quotient (99 * ((gain i n s).attrs.recs[i]).raw) (s.act.attrs[i]).life))) := by
  rw [gain_raw, gain_eq, setNorm_same, workedNorm_wear wear]
  rfl

/-- A gain that changes the normalised value hands it (R173). -/
theorem gain_source (h : ((gain i n s).attrs.recs[i]).norm ≠ (s.attrs.recs[i]).norm) :
    (gain i n s).source (56 + i.val) = { value := ((gain i n s).attrs.recs[i]).norm, valid := true } := by
  have norm : ((gain i n s).attrs.recs[i]).norm = s.workedNorm i (gained n s.attrs.recs[i]) := by
    rw [gain_eq, setNorm_same]
    rfl
  rw [norm] at h ⊢
  exact setNorm_source _ _ _ _ h

end Sys2Proof.Machine
end

section
/-!
Lemmas for the obligation of chapter 6 on the walk limits: the arrival's steps and its four tests (R105 to R112).
-/

namespace Sys2Proof.Machine

theorem cam_cases {x : Axis} (h : isCam x = true) : x = .walkLeft ∨ x = .walkRight := by
  cases x <;> simp [isCam] at h ⊢

/-- Writing one cam of a pair (R106). -/
theorem pair_set_cam {α : Type} {x : Axis} (h : isCam x = true) (p : Pair α) (v : α) :
    (p.set x v).get x = v ∧ (p.set x v).get (otherCam x) = p.get (otherCam x) ∧ p.set x (p.get x) = p := by
  rcases cam_cases h with rfl | rfl <;> exact ⟨rfl, rfl, rfl⟩

/-! The progress of the cams and what is worked out from it (R106, R107). -/

theorem putProgress_eq (x : Axis) (s : State) : putProgress x s = { s with walk := (putProgress x s).walk } := rfl

theorem putProgress_walk (x : Axis) (s : State) : (putProgress x s).walk =
    { s.walk with left := (putProgress x s).walk.left, right := (putProgress x s).walk.right } := rfl

theorem putProgress_cams {x : Axis} (h : isCam x = true) (s : State) :
    (putProgress x s).walk.progress x = some ((s.feedback.get x).turns * 3600 + (s.feedback.get x).position)
      ∧ (putProgress x s).walk.progress (otherCam x) = s.walk.progress (otherCam x) := by
  rcases cam_cases h with rfl | rfl <;> exact ⟨rfl, rfl⟩

/-- The cam that lags (R107). -/
def laggingCam (l r : Nat) : Axis := if l ≤ r then .walkLeft else .walkRight

theorem workWalk_both {s : State} {l r : Nat} (hl : s.walk.left = some l) (hr : s.walk.right = some r) :
    workWalk s = { s with walk := { s.walk with
      lagging := some (laggingCam l r), skew := some (l - r + (r - l))
      phase := s.phaseOf (s.feedback.get (laggingCam l r)).position
      tubRaised := raisedIn (s.phaseOf (s.feedback.get (laggingCam l r)).position) } } := by
  unfold workWalk
  rw [hl, hr]
  rfl

theorem workWalk_missing {s : State} (h : s.walk.left = none ∨ s.walk.right = none) : workWalk s = s := by
  unfold workWalk
  rcases h with h | h
  · rw [h]
  · rw [h]
    cases s.walk.left <;> rfl

/-- The walk record after the work: the progresses stand. -/
theorem workWalk_walk (s : State) : (workWalk s).walk =
    { s.walk with lagging := (workWalk s).walk.lagging, skew := (workWalk s).walk.skew
                  phase := (workWalk s).walk.phase, tubRaised := (workWalk s).walk.tubRaised } := by
  unfold workWalk
  split <;> rfl

theorem raisedIn_iff (p : Option Phase) :
    raisedIn p = true ↔ p = some .lift ∨ p = some .stride ∨ p = some .setdown := by
  rcases p with _ | p
  · simp [raisedIn]
  · cases p <;> simp [raisedIn]

theorem leading_of {s : State} {l r : Nat} (h : s.walk.lagging = some (laggingCam l r)) :
    (s.leading .walkRight = true ↔ l ≤ r) ∧ (s.leading .walkLeft = true ↔ r < l) := by
  unfold State.leading laggingCam at *
  rw [h]
  by_cases k : l ≤ r
  · rw [if_pos k]
    exact ⟨⟨fun _ => k, fun _ => rfl⟩, ⟨fun e => by simp at e, fun e => absurd k (by omega)⟩⟩
  · rw [if_neg k]
    exact ⟨⟨fun e => by simp at e, fun e => absurd e k⟩, ⟨fun _ => by omega, fun _ => rfl⟩⟩

/-- What the first two steps of an arrival leave (R107). -/
theorem worked_progress {x : Axis} {s u : State} (cam : isCam x = true) (hu : u = workWalk (putProgress x s)) :
    u = { s with walk := u.walk }
      ∧ u.walk.progress x = some ((s.feedback.get x).turns * 3600 + (s.feedback.get x).position)
      ∧ u.walk.progress (otherCam x) = s.walk.progress (otherCam x)
      ∧ u.walk = { s.walk with left := u.walk.left, right := u.walk.right, lagging := u.walk.lagging,
                               skew := u.walk.skew, phase := u.walk.phase, tubRaised := u.walk.tubRaised } := by
  obtain ⟨own, other⟩ := putProgress_cams cam s
  have rest := workWalk_alike (putProgress x s)
  have walk := workWalk_walk (putProgress x s)
  rw [← hu] at rest walk
  have left := congrArg Walk.left walk
  have right := congrArg Walk.right walk
  refine ⟨rest, ?_, ?_, walk.trans ?_⟩
  · rw [walk]; exact own
  · rw [walk]; exact other
  · rw [left, right]
    rfl

theorem worked_skew {x : Axis} {s u : State} (hu : u = workWalk (putProgress x s)) {l r : Nat} (hl : u.walk.left = some l)
    (hr : u.walk.right = some r) :
    u.walk.skew = some (max l r - min l r)
      ∧ (∀ lag, lag = (if l ≤ r then Axis.walkLeft else Axis.walkRight) →
          u.walk.lagging = some lag
          ∧ u.walk.phase = (s.sectorOf (s.feedback.get lag).position).map fun c => c.phase)
      ∧ (u.leading .walkRight = true ↔ l ≤ r) ∧ (u.leading .walkLeft = true ↔ r < l)
      ∧ (u.walk.tubRaised = true ↔
          u.walk.phase = some .lift ∨ u.walk.phase = some .stride ∨ u.walk.phase = some .setdown) := by
  have walk := workWalk_walk (putProgress x s)
  rw [← hu] at walk
  rw [walk] at hl hr
  rw [workWalk_both hl hr] at hu
  have lagging : u.walk.lagging = some (laggingCam l r) := by rw [hu]
  have phase : u.walk.phase = s.phaseOf (s.feedback.get (laggingCam l r)).position := by rw [hu]; rfl
  have raised : u.walk.tubRaised = raisedIn u.walk.phase := by rw [hu]
  have skew : u.walk.skew = some (l - r + (r - l)) := by rw [hu]
  obtain ⟨right, left⟩ := leading_of lagging
  refine ⟨?_, ?_, right, left, ?_⟩
  · rw [skew]
    congr 1
    omega
  · intro lag hlag
    rw [hlag]
    exact ⟨lagging, phase⟩
  · rw [raised]
    exact raisedIn_iff _

theorem worked_missing {x : Axis} {s u : State} (hu : u = workWalk (putProgress x s))
    (h : u.walk.left = none ∨ u.walk.right = none) :
    u.walk.lagging = s.walk.lagging ∧ u.walk.skew = s.walk.skew ∧ u.walk.phase = s.walk.phase
      ∧ u.walk.tubRaised = s.walk.tubRaised := by
  have walk := workWalk_walk (putProgress x s)
  rw [← hu] at walk
  rw [walk] at h
  rw [workWalk_missing h] at hu
  rw [hu]
  exact ⟨rfl, rfl, rfl, rfl⟩

/-! The reversal marks (R109). -/

section
variable {x : Axis} {s t : State} {old : Option Nat} {new : Nat}

/-- The state with the arriving cam's reversal mark written. -/
def marked (x : Axis) (mark : Bool) (s : State) : State :=
  { s with walk := { s.walk with reversal := s.walk.reversal.set x mark } }

/-- The mark that an arrival leaves (R109). -/
def State.arrivedMark (s : State) (x : Axis) (old : Option Nat) (new : Nat) : Bool :=
  reversalMark (s.walk.reversal.get x) old new s.act.walk.reversal

theorem reversalTest_eq (progress : s.walk.progress x = some new) (unwatched : s.pointsOn 77 = []) :
    reversalTest x old s =
      if (marked x (s.arrivedMark x old new) s).walk.camReversal = s.walk.camReversal then
        marked x (s.arrivedMark x old new) s
      else
        (marked x (s.arrivedMark x old new) s).setSource 77
          (if (marked x (s.arrivedMark x old new) s).walk.camReversal then 1 else 0) true := by
  have fed : ∀ v, feed 77 v true none (marked x (s.arrivedMark x old new) s)
      = (marked x (s.arrivedMark x old new) s).setSource 77 v true := fun v =>
    feed_unwatched _ _ _ (by exact unwatched)
  rw [← fed]
  unfold reversalTest
  rw [progress]
  rfl

theorem reversalTest_frame (progress : s.walk.progress x = some new) (unwatched : s.pointsOn 77 = [])
    (ht : t = reversalTest x old s) :
    t = { s with walk := { s.walk with reversal := t.walk.reversal }
                 alarm := { s.alarm with sources := t.alarm.sources } }
      ∧ t.walk.reversal = s.walk.reversal.set x (s.arrivedMark x old new)
      ∧ (t.walk.camReversal ≠ s.walk.camReversal →
          t.source 77 = { value := if t.walk.camReversal then 1 else 0, valid := true })
      ∧ (t.walk.camReversal = s.walk.camReversal → t.alarm = s.alarm) := by
  rw [reversalTest_eq progress unwatched] at ht
  split at ht
  · subst ht
    rename_i same
    exact ⟨rfl, rfl, fun h => absurd same h, fun _ => rfl⟩
  · subst ht
    rename_i differs
    refine ⟨rfl, rfl, fun _ => ?_, fun h => absurd h differs⟩
    exact setSource_source_same (by decide) (by decide) ..

theorem reversalTest_marks (cam : isCam x = true) (progress : s.walk.progress x = some new)
    (unwatched : s.pointsOn 77 = []) (ht : t = reversalTest x old s) :
    t.walk.reversal.get (otherCam x) = s.walk.reversal.get (otherCam x)
      ∧ (∀ p, old = some p → s.act.walk.reversal < p - new → t.walk.reversal.get x = true)
      ∧ (∀ p, old = some p → p < new → t.walk.reversal.get x = false)
      ∧ (∀ p, old = some p → p - new ≤ s.act.walk.reversal → new ≤ p →
          t.walk.reversal.get x = s.walk.reversal.get x)
      ∧ (old = none → t.walk.reversal = s.walk.reversal) := by
  obtain ⟨-, reversal, -⟩ := reversalTest_frame progress unwatched ht
  obtain ⟨own, other, -⟩ := pair_set_cam cam s.walk.reversal (s.arrivedMark x old new)
  have same := (pair_set_cam cam s.walk.reversal true).2.2
  rw [reversal, own, other]
  unfold State.arrivedMark reversalMark
  refine ⟨rfl, ?_, ?_, ?_, ?_⟩
  · rintro p rfl k
    exact if_pos (by omega)
  · rintro p rfl k
    exact (if_neg (by omega)).trans (if_pos k)
  · rintro p rfl k k'
    exact (if_neg (by omega)).trans (if_neg (by omega))
  · rintro rfl
    exact same

end

/-! The step test (R111). -/

/-- The walk record after a step counted (R111). -/
def stepped (n m stride : Nat) (w : Walk) : Walk :=
  { w with steps := min 65535 (w.steps + (n - m)), distance := min 4294967295 (w.distance + (n - m) * stride)
           stepMark := some n }

theorem lagTurn_of {s : State} {lag : Axis} {p : Nat} (hl : s.walk.lagging = some lag)
    (hp : s.walk.progress lag = some p) : s.lagTurn = some (p / 3600) := by
  unfold State.lagTurn
  rw [hl]
  show (s.walk.progress lag).map _ = _
  rw [hp]
  rfl

theorem stepTest_stays {s : State} {n m : Nat} (turn : s.lagTurn = some n) (mark : s.walk.stepMark = some m)
    (h : n ≤ m) : stepTest s = s := by
  unfold stepTest
  rw [turn, mark]
  exact if_neg (by omega)

/-- A step counted: the walk record, the WALK_CAM record and a status notice (R111). -/
theorem stepTest_counts {s : State} {n m : Nat} (turn : s.lagTurn = some n) (mark : s.walk.stepMark = some m)
    (h : m < n) (walking : s.mode = .walking) (unwatched : s.pointsOn 62 = []) :
    ∃ u, u.attrs = s.attrs ∧ ∀ g, g = gain walkCam (n - m) u →
      stepTest s = { s with walk := stepped n m s.act.walk.stride s.walk, attrs := g.attrs, statusOwed := true
                            alarm := { s.alarm with sources := g.alarm.sources } } := by
  refine ⟨{ s with walk := { s.walk with
    steps := min 65535 (s.walk.steps + (n - m))
    distance := min 4294967295 (s.walk.distance + (n - m) * s.act.walk.stride) } }, rfl, fun g hg => ?_⟩
  have counted := gain_unwatched walkCam (n - m) { s with walk := { s.walk with
    steps := min 65535 (s.walk.steps + (n - m))
    distance := min 4294967295 (s.walk.distance + (n - m) * s.act.walk.stride) } } (by exact unwatched)
  have mode : g.mode = .walking := by
    rw [hg, counted]
    exact walking
  have test : stepTest s = oweStatus { g with walk := { g.walk with stepMark := if g.mode = .walking then some n else none } } := by
    unfold stepTest
    rw [turn, mark, hg]
    exact if_pos h
  rw [← hg] at counted
  rw [test, if_pos mode]
  generalize g.attrs = a at counted ⊢
  generalize g.alarm.sources = v at counted ⊢
  rw [counted]
  rfl

theorem stepTest_steps {s t : State} (ht : t = stepTest s) (unwatched : s.pointsOn 62 = []) {lag : Axis} {p m : Nat}
    (lagging : s.walk.lagging = some lag) (progress : s.walk.progress lag = some p) (mark : s.walk.stepMark = some m) :
    (p / 3600 ≤ m → t = s)
      ∧ (m < p / 3600 → s.mode = .walking →
          t.walk = stepped (p / 3600) m s.act.walk.stride s.walk
          ∧ (t.attrs.recs[walkCam]).raw = min 281474976710655 ((s.attrs.recs[walkCam]).raw + (p / 3600 - m))
          ∧ t.statusOwed = true
          ∧ t = { s with walk := t.walk, attrs := t.attrs, statusOwed := true
                         alarm := { s.alarm with sources := t.alarm.sources } }) := by
  have turn := lagTurn_of lagging progress
  refine ⟨fun h => ht.trans (stepTest_stays turn mark h), fun h walking => ?_⟩
  obtain ⟨u, attrs, counts⟩ := stepTest_counts turn mark h walking unwatched
  have raw := gain_raw walkCam (p / 3600 - m) u
  rw [counts _ rfl] at ht
  rw [attrs] at raw
  generalize gain walkCam (p / 3600 - m) u = g at raw ht
  subst ht
  exact ⟨rfl, raw, rfl, rfl⟩

/-! The skew trip test, the HOME test and the skew source (R108, R110, R112). -/

theorem skewTest_trips {trig : List Byte} {s t : State} {k : Nat} (ht : t = skewTest trig s) (skew : s.walk.skew = some k) :
    (k ≤ s.act.walk.tripLimit → t = s)
      ∧ (s.act.walk.tripLimit < k → s.mode ≠ .tripped → s.heldTrips = [] →
          t.mode = .tripped ∧ t.trip.field = .deEnergised ∧ t.trip.brake = .deEnergised
            ∧ (s.trip.queue.length < 32 → TripRecorded s .skew (some trig) t)) := by
  unfold skewTest at ht
  rw [skew] at ht
  dsimp only at ht
  refine ⟨fun within => ht.trans (if_neg (by omega)), fun beyond _ none => ?_⟩
  rw [if_pos beyond] at ht
  obtain ⟨mode, field⟩ := handTrip_tripped { cause := .skew, action := .both, frame := some trig } s
  rw [ht]
  exact ⟨mode, field, handTrip_brakeOff rfl none, handTrip_recorded rfl none⟩

theorem homeTest_ends {prior : Option Phase} {s : State} (home : s.walk.phase = some .home) (new : prior ≠ some .home)
    (walking : s.mode = .walking) (waits : s.ctl.slot = some { target := .park, wait := .homePhase }) :
    homeTest prior s = endHomeWait s := by
  unfold homeTest homeReport
  rw [if_pos ⟨home, new⟩, if_pos ⟨walking, waits⟩]

theorem homeTest_stays {prior : Option Phase} {s : State}
    (h : s.walk.phase ≠ some .home ∨ prior = some .home ∨ s.mode ≠ .walking
      ∨ s.ctl.slot ≠ some { target := .park, wait := .homePhase }) : homeTest prior s = s := by
  unfold homeTest homeReport
  split
  · rename_i reported
    refine if_neg fun k => ?_
    rcases h with h | h | h | h
    · exact h reported.1
    · exact reported.2 h
    · exact h k.1
    · exact h k.2
  · rfl

theorem skewValid_iff (s : State) : s.skewValid = true ↔ s.walk.left.isSome = true ∧ s.walk.right.isSome = true
    ∧ s.driveFresh .walkLeft = true ∧ s.driveFresh .walkRight = true := by
  unfold State.skewValid
  simp only [Bool.and_eq_true, and_assoc]

theorem feedSkew_source {trig : Option (List Byte)} {s t : State} {ok : Bool} (ht : t = feedSkew trig s)
    (valid : ok = true ↔ s.walk.left.isSome = true ∧ s.walk.right.isSome = true ∧ s.driveFresh .walkLeft = true
      ∧ s.driveFresh .walkRight = true) :
    t.source 36 = { value := if ok then min 65535 (s.walk.skew.getD 0) else (s.source 36).value, valid := ok } := by
  have same : ok = s.skewValid := Bool.eq_iff_iff.mpr (valid.trans (skewValid_iff s).symm)
  rw [ht, same]
  unfold feedSkew
  rw [feed_source_same (by decide) (by decide) (by decide) (by decide) (by decide)]
  cases s.skewValid <;> simp

end Sys2Proof.Machine
end

section
/-!
The obligation of chapter 6 on the walk limits.
-/

namespace Sys2Proof.Proofs

open Sys2Proof.Machine

/-- Settles O18: the steps of a walk arrival, its four tests in order, and the walk limits. -/
theorem walkLimitsInOrder : Obligations.WalkLimitsInOrder := by
  refine ⟨fun x trig s => rfl, fun f s => ⟨fun m => if_pos m, fun m => if_neg m⟩, sectorOf_iff, ?worked, ?reversal,
    fun trig s t k => skewTest_trips, fun s t ht unwatched lag p m => stepTest_steps ht unwatched,
    fun prior s => ⟨homeTest_ends, homeTest_stays⟩, fun trig s t ok => feedSkew_source, leading_iff, walkLimits_leave⟩
  case worked =>
    intro x s u cam hu
    obtain ⟨rest, own, other, walk⟩ := worked_progress cam hu
    exact ⟨rest, own, other, walk, fun l r => worked_skew hu, worked_missing hu⟩
  case reversal =>
    intro x s t old new cam progress unwatched ht
    obtain ⟨rest, -, source, alarm⟩ := reversalTest_frame progress unwatched ht
    obtain ⟨other, back, on, stays, first⟩ := reversalTest_marks cam progress unwatched ht
    exact ⟨rest, other, back, on, stays, first, source, alarm, Bool.or_eq_true_iff⟩

end Sys2Proof.Proofs
end

section
/-!
What the receivers of an arrival keep: beyond the modes, the channels, the trips, the alarms and the tester, only the wear
and level records change (R13).
-/

namespace Sys2Proof.Machine

/-- All that a trip event keeps is kept, the wear and level records aside. -/
def ArrivalKept (s t : State) : Prop := TripKept s { t with attrs := s.attrs }

namespace ArrivalKept

variable {s t a b c : State}

theorem of_trip (h : TripKept s t) : ArrivalKept s t :=
  ⟨h.now, h.freeIdx, h.pins, h.stations, h.feedback, h.sensors, h.analog, rfl, h.tables, h.store, h.pending, h.ring⟩

theorem refl (s : State) : ArrivalKept s s := of_trip (.refl s)

theorem unfolded (h : ArrivalKept s t) : TripKept s { t with attrs := s.attrs } := h

theorem trans (h : ArrivalKept a b) (k : ArrivalKept b c) : ArrivalKept a c :=
  ⟨k.unfolded.now.trans h.unfolded.now, k.unfolded.freeIdx.trans h.unfolded.freeIdx,
    k.unfolded.pins.trans h.unfolded.pins, k.unfolded.stations.trans h.unfolded.stations,
    k.unfolded.feedback.trans h.unfolded.feedback, k.unfolded.sensors.trans h.unfolded.sensors,
    k.unfolded.analog.trans h.unfolded.analog, rfl, k.unfolded.tables.trans h.unfolded.tables,
    k.unfolded.store.trans h.unfolded.store, k.unfolded.pending.trans h.unfolded.pending,
    k.unfolded.ring.trans h.unfolded.ring⟩

theorem feedback (h : ArrivalKept s t) : t.feedback = s.feedback := h.unfolded.feedback
theorem sensors (h : ArrivalKept s t) : t.sensors = s.sensors := h.unfolded.sensors
theorem tables (h : ArrivalKept s t) : t.tables = s.tables := h.unfolded.tables
theorem fwd (h : ArrivalKept s t) : t.ring.fwd = s.ring.fwd := h.unfolded.fwd

end ArrivalKept

theorem gain_arrival (i : Fin 13) (n : Nat) (s : State) : ArrivalKept s (gain i n s) := by
  have stored : ArrivalKept s (putAttr i (normed (gained n s.attrs.recs[i]) (s.workedNorm i (gained n s.attrs.recs[i]))) s) :=
    TripKept.refl s
  exact stored.trans (.of_trip (gain_kept i n s))

theorem parkingTest_kept (s : State) : TripKept s (parkingTest s) := by
  unfold parkingTest
  split
  · exact changeMode_kept ..
  · exact .refl s

/-! The brake channel (R53 to R60). -/

theorem setProveFailed_kept (c : Chan) (v : Bool) (s : State) : TripKept s (setProveFailed c v s) := by
  unfold setProveFailed
  dsimp only
  split
  · exact .refl s
  · exact (setChan_kept ..).trans (feed_kept ..)

theorem setReleaseTimeout_kept (c : Chan) (v : Bool) (s : State) : TripKept s (setReleaseTimeout c v s) := by
  unfold setReleaseTimeout
  dsimp only
  split
  · exact .refl s
  · exact (setChan_kept ..).trans (feed_kept ..)

theorem enterReleased_kept (c : Chan) (s : State) : TripKept s (enterReleased c s) := by
  have flags := ((setChan_kept c { (s.brakes.get c).stopTimers with
      state := .released, releasedTime := some s.now, armed := (s.brakes.get c).standing == .releaseAutoset } s).trans
    (setProveFailed_kept c false _)).trans (setReleaseTimeout_kept c false _)
  unfold enterReleased
  dsimp only
  split
  · exact flags.trans (beginToSet_kept ..)
  · exact flags

theorem completeRelease_kept (c : Chan) (s : State) : TripKept s (completeRelease c s) := (completeRelease_only c s).kept

theorem reachSet_arrival (c : Chan) (b : Bool) (s : State) : ArrivalKept s (reachSet c b s) := by
  have tested : ∀ u : State, ArrivalKept u (initTest (parkingTest u)) := fun u =>
    .of_trip ((parkingTest_kept u).trans (initTest_kept _))
  unfold reachSet
  dsimp only
  refine ArrivalKept.trans ?_ (tested _)
  split
  · exact (ArrivalKept.of_trip (setChan_kept ..)).trans (gain_arrival ..)
  · exact .of_trip (setChan_kept ..)

theorem enterFault_kept (c : Chan) (trig : Option (List Byte)) (s : State) : TripKept s (enterFault c trig s) :=
  (setChan_kept ..).trans (handTrip_kept ..)

theorem confirmMark_arrival (c : Chan) (x : Axis) (v : Bool) {g : State → State} (hg : ∀ s, ArrivalKept s (g s))
    (s : State) : ArrivalKept s (confirmMark c x v g s) := by
  unfold confirmMark
  dsimp only
  split
  · exact (ArrivalKept.of_trip (setChan_kept ..)).trans (hg _)
  · exact .of_trip (setChan_kept ..)

theorem setByDrive_arrival (c : Chan) (x : Axis) (s : State) : ArrivalKept s (setByDrive c x s) := by
  unfold setByDrive
  dsimp only
  split
  · exact (ArrivalKept.of_trip (enterSetting_kept ..)).trans (reachSet_arrival ..)
  · exact .of_trip (enterSetting_kept ..)

theorem provingArrival_kept (c : Chan) (n : Int) (s : State) : TripKept s (provingArrival c n s) := by
  unfold provingArrival
  dsimp only
  repeat' split
  all_goals first
    | exact .refl s
    | exact (setChan_kept ..).trans (completeRelease_kept ..)
    | exact setChan_kept ..

theorem channelArrival_kept (x : Axis) (trig : List Byte) (s : State) : ArrivalKept s (channelArrival x trig s) := by
  have quiet : ∀ u : State, ArrivalKept u (quietTest (chanOf x) u) := fun u => .of_trip (quietTest_only ..).kept
  unfold channelArrival
  dsimp only
  refine ArrivalKept.trans ?_ (quiet _)
  repeat' split
  all_goals first
    | exact .refl s
    | exact .of_trip (enterFault_kept ..)
    | exact .of_trip (provingArrival_kept ..)
    | exact setByDrive_arrival ..
    | exact confirmMark_arrival _ _ _ (fun u => .of_trip (enterReleased_kept _ u)) _
    | exact confirmMark_arrival _ _ _ (reachSet_arrival _ _) _

/-! The walk sequencer and walk preparation (R107). -/

theorem parkWith_kept (v : Hold) (s : State) : TripKept s (parkWith v s) := by
  have placed : TripKept s { (setSlot (some { target := .park, wait := .brakes }) s) with
      ctl := { (setSlot (some { target := .park, wait := .brakes }) s).ctl with hold := v } } := by
    constructor <;> rfl
  exact (placed.trans (parkingSetAll_kept _)).trans (parkingTest_kept _)

theorem homeTest_kept (ph : Option Phase) (s : State) : TripKept s (homeTest ph s) := by
  unfold homeTest homeReport
  repeat' split
  · exact parkWith_kept ..
  · exact .refl s
  · exact .refl s

theorem walk_kept (w : Walk) (s : State) : TripKept s { s with walk := w } := by constructor <;> rfl

theorem stepTest_arrival (s : State) : ArrivalKept s (stepTest s) := by
  have counted : ∀ n w, ArrivalKept s (gain walkCam n { s with walk := w }) := fun n w =>
    (ArrivalKept.of_trip (walk_kept w s)).trans (gain_arrival ..)
  unfold stepTest
  split
  · rename_i n m _ _
    dsimp only
    split
    · have gained := counted (n - m) { s.walk with
        steps := min 65535 (s.walk.steps + (n - m))
        distance := min 4294967295 (s.walk.distance + (n - m) * s.act.walk.stride) }
      exact gained.trans (.of_trip ((walk_kept _ _).trans (oweStatus_kept _)))
    · exact .refl s
  · exact .refl s

theorem reversalTest_kept (x : Axis) (prior : Option Nat) (s : State) : TripKept s (reversalTest x prior s) := by
  unfold reversalTest
  dsimp only
  split
  · constructor <;> rfl
  · refine TripKept.trans ?_ (feed_kept ..)
    constructor <;> rfl

theorem skewTest_kept (trig : List Byte) (s : State) : TripKept s (skewTest trig s) := by
  unfold skewTest
  repeat' split
  · exact handTrip_kept ..
  · exact .refl s
  · exact .refl s

theorem inWalking_arrival {f : State → State} (h : ∀ s, ArrivalKept s (f s)) (s : State) : ArrivalKept s (inWalking f s) := by
  unfold inWalking
  split
  · exact h s
  · exact .refl s

theorem worked_kept (x : Axis) (s : State) : TripKept s (workWalk (putProgress x s)) := by
  rw [workWalk_alike]
  constructor <;> rfl

theorem walkTests_arrival (x : Axis) (prior : Option Nat) (ph : Option Phase) (trig : List Byte) (s : State) :
    ArrivalKept s (walkTests x prior ph trig s) :=
  (((inWalking_arrival (fun u => .of_trip (reversalTest_kept x prior u)) s).trans
    (inWalking_arrival (fun u => .of_trip (skewTest_kept trig u)) _)).trans (inWalking_arrival stepTest_arrival _)).trans
    (inWalking_arrival (fun u => .of_trip (homeTest_kept ph u)) _)

theorem walkArrival_kept (x : Axis) (trig : List Byte) (s : State) : ArrivalKept s (walkArrival x trig s) :=
  ((ArrivalKept.of_trip (worked_kept x s)).trans (walkTests_arrival ..)).trans
    (.of_trip ((prepRetest_kept _).trans (feed_kept ..)))

theorem walkReceiver_kept (x : Axis) (trig : List Byte) (s : State) : ArrivalKept s (walkReceiver x trig s) := by
  unfold walkReceiver
  split
  · exact walkArrival_kept ..
  · exact .of_trip (prepRetest_kept s)

/-! The tightline check, the brake tester, rope wear and the sources (R86, R125, R174, R184). -/

theorem tightTest_kept (s : State) : TripKept s (tightTest s) := by
  unfold tightTest
  repeat' split
  all_goals constructor <;> rfl

theorem handSeconds_arrival (s : State) : ArrivalKept s (handSeconds s) := by
  unfold handSeconds
  dsimp only
  split
  · have counted : ∀ w, ArrivalKept s { s with tight := w } := fun w => .of_trip (by constructor <;> rfl)
    exact (counted _).trans (gain_arrival ..)
  · exact .refl s

theorem tightReceiver_kept (x : Axis) (s : State) : ArrivalKept s (tightReceiver x s) := by
  unfold tightReceiver
  split
  · exact (ArrivalKept.of_trip ((tightTest_kept s).trans (feed_kept ..))).trans (handSeconds_arrival _)
  · exact .refl s

theorem testArrival_kept (x : Axis) (s : State) : TripKept s (testArrival x s) := by
  unfold testArrival
  dsimp only
  repeat' split
  all_goals constructor <;> rfl

theorem ropeArrival_kept (x : Axis) (s : State) : ArrivalKept s (ropeArrival x s) := by
  unfold ropeArrival
  dsimp only
  repeat' split
  all_goals first | exact .refl s | exact gain_arrival ..

theorem axisSources_kept (x : Axis) (trig : List Byte) (s : State) : TripKept s (axisSources x trig s) :=
  ((feed_kept ..).trans (feed_kept ..)).trans (feed_kept ..)

/-- What the receivers of an arrival keep of the state in which its record is updated (R13). -/
theorem driveArrival_kept (d : DriveStat) (trig : List Byte) (s : State) :
    ArrivalKept (putFeedback d s) (driveArrival d trig s) := by
  have handed := ((((channelArrival_kept d.axis trig (putFeedback d s)).trans (walkReceiver_kept d.axis trig _)).trans
    (tightReceiver_kept d.axis _)).trans (.of_trip (testArrival_kept d.axis _))).trans (ropeArrival_kept d.axis _)
  exact handed.trans (.of_trip (axisSources_kept ..))

end Sys2Proof.Machine
end

section
/-!
Lemmas for the obligation on a Drive Status: its dispatch, the rope records and the sources of the axis (R13, R125, R174).
-/

namespace Sys2Proof.Machine

@[simp] theorem forward_feedback (f : Frame) (taken : List Byte) (s : State) : (forward f taken s).feedback = s.feedback := by
  rw [forward_rest]

/-- A frame that is not a request and not for the M4 passes on (R10). -/
theorem dispatch_passing {f : Frame} {s : State} (kind : f.kind ≠ 5#4) (away : s.addressed f = false) :
    dispatch f s = passing f s := by
  unfold State.addressed at away
  unfold dispatch
  rw [away, takesGeneralCall_of_kind kind]
  rfl

theorem dispatch_status {f : Frame} {d : DriveStat} {s : State} (kind : f.kind = 2#4) (reads : parseStatus f.payload = some d)
    (away : s.addressed f = false) : dispatch f s = takeStatus f d s := by
  rw [dispatch_passing (by rw [kind]; decide) away]
  unfold passing
  rw [kind, reads]
  rfl

theorem exec_status {h : Header} {w : StatusWire} {d : DriveStat} {s : State}
    (reads : parseStatus (statusFrame h w).payload = some d) (passes : s.passes (statusFrame h w) = true)
    (away : (received (statusFrame h w) s).addressed (statusFrame h w) = false) :
    exec (.driveStatus h w) s = .next (finish (takeStatus (statusFrame h w) d (received (statusFrame h w) s))) := by
  rw [exec_row (i := .driveStatus h w) rfl, takeFrame_passes passes, dispatch_status rfl reads away]

theorem takeStatus_drive {f : Frame} {d : DriveStat} {s : State} (h : s.isDriveOf f.src d.axis = true) :
    takeStatus f d s = forward f f.payload (driveArrival d (bodyBytes f) s) := by
  unfold takeStatus
  rw [if_pos h]

theorem takeStatus_other {f : Frame} {d : DriveStat} {s : State} (h : s.isDriveOf f.src d.axis = false) :
    takeStatus f d s = forward f f.payload s := by
  unfold takeStatus
  rw [h]
  rfl

theorem takeStatus_fwd {f : Frame} {d : DriveStat} {s : State} (room : s.ring.fwd.length < 8) :
    (takeStatus f d s).ring.fwd = s.ring.fwd ++ [{ frame := { f with life := f.life - 1#4 }, taken := f.payload }] := by
  cases h : s.isDriveOf f.src d.axis
  · rw [takeStatus_other h, forward_fwd room]
  · have queue : (driveArrival d (bodyBytes f) s).ring.fwd = s.ring.fwd := (driveArrival_kept d _ s).fwd
    rw [takeStatus_drive h, forward_fwd (by rw [queue]; exact room), queue]

/-! The rope records (R171, R173, R174). -/

theorem ropeGain_of {g : Feedback} {n : Nat} (never : g.previous = none → n = 0)
    (travel : ∀ p, g.previous = some p →
      n = ((g.position : Int) - p).natAbs * (if g.current.natAbs / 25 = 0 then 1 else g.current.natAbs / 25)) :
    ropeGain g = n := by
  unfold ropeGain
  split
  · rename_i p previous
    rw [travel p previous]
    have distance : g.position - p + (p - g.position) = ((g.position : Int) - p).natAbs := by omega
    have load : max 1 (g.current.natAbs / 25) = if g.current.natAbs / 25 = 0 then 1 else g.current.natAbs / 25 := by
      split <;> omega
    rw [distance, load]
  · rename_i previous
    exact (never previous).symm

theorem ropeArrival_eq {x : Axis} {i : Fin 13} (rope : (x = .hoist ∧ i = 0) ∨ (x = .drag ∧ i = 1)) (s : State) :
    ropeArrival x s = if ropeGain (s.feedback.get x) = 0 then s else gain i (ropeGain (s.feedback.get x)) s := by
  rcases rope with ⟨rfl, rfl⟩ | ⟨rfl, rfl⟩ <;> rfl

theorem ropeArrival_gains {x : Axis} {i : Fin 13} {s t : State} {g : Feedback} {n : Nat}
    (rope : (x = .hoist ∧ i = 0) ∨ (x = .drag ∧ i = 1)) (ht : t = ropeArrival x s) (hg : g = s.feedback.get x)
    (never : g.previous = none → n = 0)
    (travel : ∀ p, g.previous = some p →
      n = ((g.position : Int) - p).natAbs * (if g.current.natAbs / 25 = 0 then 1 else g.current.natAbs / 25)) :
    (n = 0 → t = s)
      ∧ (n ≠ 0 →
          (t.attrs.recs[i]).raw = min 281474976710655 ((s.attrs.recs[i]).raw + n)
            ∧ (t.attrs.recs[i]).norm = min (s.attrs.recs[i]).norm
                (max 1 (min 100 (100 - quotient (99 * (t.attrs.recs[i]).raw) (s.act.attrs[i]).life)))
            ∧ (∀ j : Fin 13, j ≠ i → t.attrs.recs[j] = s.attrs.recs[j]) ∧ t.feedback = s.feedback
            ∧ ((t.attrs.recs[i]).norm ≠ (s.attrs.recs[i]).norm →
                t.source (56 + i.val) = { value := (t.attrs.recs[i]).norm, valid := true })
            ∧ (s.pointsOn (56 + i.val) = [] →
                t = { s with attrs := t.attrs, alarm := { s.alarm with sources := t.alarm.sources } })) := by
  have wear : levelChan i = none := by rcases rope with ⟨-, rfl⟩ | ⟨-, rfl⟩ <;> rfl
  rw [ropeArrival_eq rope, ← hg, ropeGain_of never travel] at ht
  refine ⟨fun h => ht.trans (if_pos h), fun h => ?_⟩
  rw [if_neg h] at ht
  rw [ht]
  exact ⟨gain_raw i n s, gain_norm i n s wear, fun j => gain_other i n s, (gain_arrival i n s).feedback, gain_source i n s,
    gain_unwatched i n s⟩

/-! The sources of an axis (R124, R125). -/

theorem axisSources_eq (x : Axis) (trig : List Byte) (s : State) :
    axisSources x trig s = feed (axisSource x + 2) (s.feedback.get x).current true (some trig)
      (feed (axisSource x + 1) (s.feedback.get x).position true (some trig)
        (feed (axisSource x) (s.feedback.get x).speed true (some trig) s)) := rfl

theorem axisSource_of {x : Axis} {n : Nat} (h : (x = .hoist ∧ n = 1) ∨ (x = .drag ∧ n = 4) ∨ (x = .swing ∧ n = 7)
    ∨ (x = .walkLeft ∧ n = 10) ∨ (x = .walkRight ∧ n = 13)) : axisSource x = n ∧ 1 ≤ n ∧ n ≤ 13 := by
  rcases h with ⟨rfl, rfl⟩ | ⟨rfl, rfl⟩ | ⟨rfl, rfl⟩ | ⟨rfl, rfl⟩ | ⟨rfl, rfl⟩ <;> exact ⟨rfl, by decide, by decide⟩

theorem three_fed {n : Nat} (range : 1 ≤ n ∧ n ≤ 13) (a b c : Int) (trig : Option (List Byte)) (s : State) {t : State}
    (ht : t = feed (n + 2) c true trig (feed (n + 1) b true trig (feed n a true trig s))) :
    t.source n = { value := a, valid := true } ∧ t.source (n + 1) = { value := b, valid := true }
      ∧ t.source (n + 2) = { value := c, valid := true }
      ∧ (s.pointsOn n = [] → s.pointsOn (n + 1) = [] → s.pointsOn (n + 2) = [] →
          t = { s with alarm := { s.alarm with sources := t.alarm.sources } }) := by
  have same : ∀ k v (u : State), 1 ≤ k → k ≤ 15 → (feed k v true trig u).source k = { value := v, valid := true } :=
    fun k v u low high => by
      rw [feed_source_same low (by omega) (by omega) (by omega) (by omega)]
      rfl
  have other : ∀ k m v (u : State), 1 ≤ k → m ≠ k → m ≤ 15 → (feed k v true trig u).source m = u.source m :=
    fun k m v u low differs high => feed_source_ne low differs (by omega) (by omega) (by omega) v true trig u
  refine ⟨?_, ?_, ?_, fun h0 h1 h2 => ?_⟩
  · rw [ht, other _ _ _ _ (by omega) (by omega) (by omega), other _ _ _ _ (by omega) (by omega) (by omega),
      same _ _ _ (by omega) (by omega)]
  · rw [ht, other _ _ _ _ (by omega) (by omega) (by omega), same _ _ _ (by omega) (by omega)]
  · rw [ht, same _ _ _ (by omega) (by omega)]
  · rw [feed_unwatched _ _ _ h0, feed_unwatched (code := n + 1) _ _ _ (by exact h1),
      feed_unwatched (code := n + 2) _ _ _ (by exact h2)] at ht
    rw [ht]
    rfl

theorem axisSources_fed {x : Axis} {trig : List Byte} {s t : State} {g : Feedback} {n : Nat}
    (ht : t = axisSources x trig s) (hg : g = s.feedback.get x)
    (hn : (x = .hoist ∧ n = 1) ∨ (x = .drag ∧ n = 4) ∨ (x = .swing ∧ n = 7) ∨ (x = .walkLeft ∧ n = 10)
      ∨ (x = .walkRight ∧ n = 13)) :
    t = feed (n + 2) g.current true (some trig) (feed (n + 1) g.position true (some trig)
          (feed n g.speed true (some trig) s))
      ∧ t.source n = { value := g.speed, valid := true }
      ∧ t.source (n + 1) = { value := g.position, valid := true }
      ∧ t.source (n + 2) = { value := g.current, valid := true }
      ∧ (s.pointsOn n = [] → s.pointsOn (n + 1) = [] → s.pointsOn (n + 2) = [] →
          t = { s with alarm := { s.alarm with sources := t.alarm.sources } }) := by
  obtain ⟨code, range⟩ := axisSource_of hn
  rw [axisSources_eq, code, ← hg] at ht
  exact ⟨ht, three_fed range _ _ _ _ s ht⟩

/-! The receivers of an axis (R13). -/

theorem receivers_of (x : Axis) (trig : List Byte) :
    (isCam x = true → walkReceiver x trig = walkArrival x trig) ∧ (isCam x = false → walkReceiver x trig = prepRetest)
      ∧ ((x = .hoist ∨ x = .drag) → tightReceiver x = tightArrival)
      ∧ (x ≠ .hoist → x ≠ .drag → ∀ u, tightReceiver x u = u ∧ ropeArrival x u = u) := by
  refine ⟨fun h => funext fun s => if_pos h, fun h => funext fun s => if_neg (by rw [h]; decide),
    fun h => funext fun s => if_pos h, fun h k u => ⟨if_neg fun e => e.elim h k, ?_⟩⟩
  cases x
  · exact absurd rfl h
  · exact absurd rfl k
  · rfl
  · rfl
  · rfl

/-- What the Drive Status of an axis's drive leaves (R13). -/
theorem status_arrives {f : Frame} {d : DriveStat} {s : State} (h : s.isDriveOf f.src d.axis = true) {t : State}
    (ht : t = finish (takeStatus f d s)) :
    t.feedback.get d.axis =
        { brake := d.brake, ready := d.ready, speed := d.speed, position := d.position,
          previous := if (s.feedback.get d.axis).updated then some (s.feedback.get d.axis).position else none,
          turns := d.turns, current := d.current, updated := true }
      ∧ (∀ y, y ≠ d.axis → t.feedback.get y = s.feedback.get y)
      ∧ t = finish (forward f f.payload (driveArrival d (bodyBytes f) s)) := by
  rw [takeStatus_drive h] at ht
  have feedback : t.feedback = s.feedback.set d.axis (feedbackOf (s.feedback.get d.axis) d) := by
    rw [ht, finish_feedback, forward_feedback, (driveArrival_kept d _ s).feedback]
    rfl
  refine ⟨?_, fun y hy => ?_, ht⟩
  · rw [feedback, PerAxis.get_set_same]
    rfl
  · rw [feedback, PerAxis.get_set_ne _ _ hy.symm]

end Sys2Proof.Machine
end

section
/-!
The obligation of chapter 3 on a Drive Status.
-/

namespace Sys2Proof.Proofs

open Sys2Proof.Machine

/-- Settles O20: what a Drive Status changes, its receivers in order, the rope records and the sources of its axis. -/
theorem driveStatusUpdatesFeedback : Obligations.DriveStatusUpdatesFeedback := by
  refine ⟨?arrives, parseStatus_iff, fun h w d => parseStatus_fields w d, isDriveOf_iff, fun n d h => if_neg h,
    fun x i s t g n => ropeArrival_gains, fun x trig s t g n => axisSources_fed⟩
  case arrives =>
    intro h w s f d hf reads passes away
    subst hf
    refine ⟨_, exec_status reads passes away, fun room => ?_, fun drive => ?_, fun other => ?_⟩
    · rw [finish_fwd, takeStatus_fwd (by rw [received_fwd]; exact room), received_fwd]
    · obtain ⟨own, others, eq⟩ := status_arrives drive rfl
      rw [received_feedback] at own others
      refine ⟨own, others, ?_⟩
      rintro x trig rfl rfl
      exact ⟨eq, receivers_of ..⟩
    · rw [takeStatus_other other]
      exact finish_forward_onlyRing ..

end Sys2Proof.Proofs
end

section
/-!
Lemmas for the obligation on a Sensor Report: the values written, the sources handed, and the re-test of walk preparation
(R14, R117).
-/

namespace Sys2Proof.Machine

/-! What a change of mode leaves of the sources that the sensors and drives feed (R124). -/

/-- The sources of the axes, the analog channels, the sensors and the skew stand. -/
structure MeasuredKept (s t : State) : Prop where
  kept : ∀ c, c < 37 → t.source c = s.source c

namespace MeasuredKept

theorem refl (s : State) : MeasuredKept s s := ⟨fun _ _ => rfl⟩

theorem trans {a b c : State} (h : MeasuredKept a b) (k : MeasuredKept b c) : MeasuredKept a c :=
  ⟨fun n hn => (k.kept n hn).trans (h.kept n hn)⟩

theorem of_sources {s t : State} (h : SourcesKept s t) : MeasuredKept s t :=
  ⟨fun c hc => h.kept c (by omega) (by omega) (by omega)⟩

theorem of_eq {s t : State} (h : t.alarm.sources = s.alarm.sources) : MeasuredKept s t := of_sources (.of_eq h)

end MeasuredKept

theorem feedHeld_measured {code : Nat} (h : 37 ≤ code) (v : Int) (ok : Bool) (trig : Option (List Byte)) (s : State) :
    MeasuredKept s (feedHeld code v ok trig s) := by
  unfold feedHeld
  split
  · exact .of_eq rfl
  · have set : MeasuredKept s (s.setSource code v ok) :=
      ⟨fun c hc => setSource_source_ne (by omega) (by omega) v ok s⟩
    exact set.trans (.of_sources (SourcesKept.foldl (fun s p => evalPoint_sources trig p s) _ _))

theorem enterWalking_measured (s : State) : MeasuredKept s (enterWalking s) := by
  have walk : ∀ w, MeasuredKept s { s with walk := w } := fun w => .of_eq rfl
  have held : ∀ (u : State) t, MeasuredKept u { u with heldTrips := t } := fun u t => .of_eq rfl
  have fed : ∀ w, MeasuredKept s (feedHeld 77 0 true none { s with walk := w }) := fun w =>
    (walk w).trans (feedHeld_measured (by decide) ..)
  unfold enterWalking
  dsimp only
  repeat' split
  all_goals first
    | exact walk _
    | exact (walk _).trans (held _ _)
    | exact fed _
    | exact (fed _).trans (held _ _)

/-- The walk record alone is written before the entry to WALKING (R31, R120). -/
theorem walkModeChange_enters (old : Mode) (s : State) :
    ∃ w, walkModeChange old .walking s = enterWalking { s with walk := w } := by
  cases old <;> exact ⟨_, rfl⟩

theorem walkModeChange_measured (old new : Mode) (s : State) : MeasuredKept s (walkModeChange old new s) := by
  by_cases h : new = .walking
  · obtain ⟨w, entered⟩ := walkModeChange_enters old s
    have left : MeasuredKept s { s with walk := w } := .of_eq rfl
    rw [h, entered]
    exact left.trans (enterWalking_measured _)
  · exact .of_sources (walkModeChange_sources old h s)

theorem modeSteps_measured (new : Mode) (s : State) : MeasuredKept s (modeSteps new s) := by
  have begun : MeasuredKept s (entered new s) := by
    unfold entered
    dsimp only
    split <;> exact .of_eq rfl
  have worked : MeasuredKept s (reworked new s) :=
    ((begun.trans (.of_sources (rearmPoints_sources _))).trans (walkModeChange_measured ..)).trans
      (.of_sources (tightModeChange_sources ..))
  rw [modeSteps_eq]
  refine MeasuredKept.trans ?_ (.of_sources (oweStatus_sources _))
  split
  · exact worked.trans (.of_eq rfl)
  · exact worked

theorem changeMode_measured (new : Mode) (s : State) : MeasuredKept s (changeMode new s) :=
  (modeSteps_measured new s).trans (.of_sources (drainTrips_sources 256 _))

theorem prepRetest_measured (s : State) : MeasuredKept s (prepRetest s) := by
  have confirmed : MeasuredKept s (prepConfirmed s) := by
    unfold prepConfirmed
    split
    · exact (changeMode_measured ..).trans (.of_eq rfl)
    · exact changeMode_measured ..
  unfold prepRetest
  repeat' split
  all_goals first | exact .refl s | exact confirmed | exact .of_eq rfl

/-! The values written and their sources (R14). -/

/-- A sensor value as a report's entry writes it (R14). -/
def written (e : Fin 16) (v : Int) : Sensor := { value := v, writer := some e, valid := true }

theorem putSensor_same (e ch : Fin 16) (v : Int) (s : State) : (putSensor e (ch, v) s).sensors[ch] = written e v :=
  Vector.getElem_set_self ..

theorem putSensor_other {e ch : Fin 16} {p : Fin 16 × Int} (h : p.1 ≠ ch) (s : State) :
    (putSensor e p s).sensors[ch] = s.sensors[ch] :=
  Vector.getElem_set_ne p.1.isLt ch.isLt fun k => h (Fin.ext k)

/-- The state with the pairs of a report applied in order (R14). -/
def putSensors (e : Fin 16) (l : List (Fin 16 × Int)) (s : State) : State := l.foldl (fun s p => putSensor e p s) s

theorem putSensors_snoc (e : Fin 16) (l : List (Fin 16 × Int)) (p : Fin 16 × Int) (s : State) :
    putSensors e (l ++ [p]) s = putSensor e p (putSensors e l s) := List.foldl_append ..

theorem putSensors_last {e ch : Fin 16} (l : List (Fin 16 × Int)) (s : State) :
    (∀ v, (l.reverse.find? fun p => p.1 == ch) = some (ch, v) → (putSensors e l s).sensors[ch] = written e v)
      ∧ ((l.reverse.find? fun p => p.1 == ch) = none → (putSensors e l s).sensors[ch] = s.sensors[ch]) := by
  induction l using List.reverseRecOn with
  | nil => exact ⟨nofun, fun _ => rfl⟩
  | append_singleton l p ih =>
    obtain ⟨c, v⟩ := p
    rw [List.reverse_append, List.reverse_singleton, List.singleton_append, List.find?_cons, putSensors_snoc]
    by_cases same : c = ch
    · subst same
      simp only [beq_self_eq_true]
      refine ⟨fun w hw => ?_, nofun⟩
      cases hw
      exact putSensor_same ..
    · rw [beq_false_of_ne same, putSensor_other (by exact same)]
      exact ih

theorem putSensors_absent {e ch : Fin 16} {l : List (Fin 16 × Int)} (h : (l.find? fun p => p.1 == ch) = none) (s : State) :
    (putSensors e l s).sensors[ch] = s.sensors[ch] := by
  refine (putSensors_last l s).2 ?_
  rw [List.find?_eq_none] at h ⊢
  exact fun p hp => h p (List.mem_reverse.mp hp)

theorem putSensors_rest (e : Fin 16) (l : List (Fin 16 × Int)) : ∀ s : State,
    putSensors e l s = { s with sensors := (putSensors e l s).sensors } := by
  induction l with
  | nil => exact fun _ => rfl
  | cons p l ih => exact fun s => ih (putSensor e p s)

theorem channelsOf_nodup (l : List (Fin 16 × Int)) : (channelsOf l).Nodup :=
  List.nodup_reverse.mpr (List.nodup_dedup _)

theorem mem_channelsOf (l : List (Fin 16 × Int)) (ch : Fin 16) : ch ∈ channelsOf l ↔ ∃ n, (ch, n) ∈ l := by
  unfold channelsOf
  rw [List.mem_reverse, List.mem_dedup, List.mem_reverse, List.mem_map]
  exact ⟨fun ⟨p, hp, e⟩ => ⟨p.2, e ▸ hp⟩, fun ⟨n, hn⟩ => ⟨_, hn, rfl⟩⟩

theorem putSensors_named {e ch : Fin 16} {l : List (Fin 16 × Int)} (h : ch ∈ channelsOf l) (s : State) :
    ∃ v, (putSensors e l s).sensors[ch] = written e v := by
  obtain ⟨n, hn⟩ := (mem_channelsOf l ch).mp h
  cases found : l.reverse.find? fun p => p.1 == ch with
  | none =>
    have differs := List.find?_eq_none.mp found (ch, n) (List.mem_reverse.mpr hn)
    exact absurd (beq_self_eq_true ch) differs
  | some p =>
    have same : p.1 = ch := by simpa using List.find?_some found
    exact ⟨p.2, (putSensors_last l s).1 p.2 (by rw [found, ← same])⟩

/-- The sources of the channels handed in order (R14). -/
def feedSensors (cs : List (Fin 16)) (s : State) : State := cs.foldl (fun s ch => feedSensor ch s) s

theorem feedSensors_kept (cs : List (Fin 16)) (s : State) : TripKept s (feedSensors cs s) :=
  TripKept.foldl (fun _ _ => feed_kept ..) cs s

theorem feedSensor_source (ch : Fin 16) (s : State) : (feedSensor ch s).source (20 + ch.val) =
    { value := if (s.sensors[ch]).valid then (s.sensors[ch]).value else (s.source (20 + ch.val)).value
      valid := (s.sensors[ch]).valid } := by
  have range := ch.isLt
  unfold feedSensor sensorSource
  rw [feed_source_same (by omega) (by omega) (by omega) (by omega) (by omega)]

/-- Each channel's source takes its value, where the value is valid (R14, R123). -/
theorem feedSensors_source {cs : List (Fin 16)} (once : cs.Nodup) {ch : Fin 16} (named : ch ∈ cs) {s : State} {r : Sensor}
    (hr : s.sensors[ch] = r) (valid : r.valid = true) :
    (feedSensors cs s).source (20 + ch.val) = { value := r.value, valid := true } := by
  refine foldl_feed_source (P := fun u => u.sensors[ch] = r) (value := fun _ => { value := r.value, valid := true })
    (fun u b h => ?_) (fun u h => ?_) (fun u b differs => ?_) once named s hr
  · unfold feedSensor
    rw [(feed_kept ..).sensors]
    exact h
  · rw [feedSensor_source, h, valid]
    rfl
  · have range := ch.isLt
    have apart : ch.val ≠ b.val := fun k => differs (Fin.ext k.symm)
    unfold feedSensor sensorSource
    exact feed_source_ne (by omega) (by omega) (by omega) (by omega) (by omega) ..

/-! The report taken (R12, R14). -/

theorem reportArrival_eq (e : Fin 16) (l : List (Fin 16 × Int)) (s : State) :
    reportArrival e l s = prepRetest (feedSensors (channelsOf l) (putSensors e l s)) := rfl

theorem reportArrival_kept (e : Fin 16) (l : List (Fin 16 × Int)) (s : State) :
    TripKept (putSensors e l s) (reportArrival e l s) := (feedSensors_kept ..).trans (prepRetest_kept _)

theorem dispatch_report {f : Frame} {l : List (Fin 16 × Int)} {s : State} (kind : f.kind = 3#4)
    (reads : parseReport f.payload = some l) (away : s.addressed f = false) : dispatch f s = takeReport f l s := by
  rw [dispatch_passing (by rw [kind]; decide) away]
  unfold passing
  rw [kind, reads]
  rfl

theorem exec_report {h : Header} {ps : List (Byte × Half)} {l : List (Fin 16 × Int)} {s : State}
    (reads : parseReport (sensorFrame h ps).payload = some l) (passes : s.passes (sensorFrame h ps) = true)
    (away : (received (sensorFrame h ps) s).addressed (sensorFrame h ps) = false) :
    exec (.sensorReport h ps) s = .next (finish (takeReport (sensorFrame h ps) l (received (sensorFrame h ps) s))) := by
  rw [exec_row (i := .sensorReport h ps) rfl, takeFrame_passes passes, dispatch_report rfl reads away]

theorem takeReport_sensor {f : Frame} {l : List (Fin 16 × Int)} {s : State} {e : Fin 16} (entry : s.entryOf f.src = some e)
    (role : (s.act.stations[e]).role = .sensor) : takeReport f l s = forward f f.payload (reportArrival e l s) := by
  unfold takeReport
  rw [entry]
  dsimp only
  rw [if_pos role]

theorem takeReport_other {f : Frame} {l : List (Fin 16 × Int)} {s : State} (h : s.hasRole f.src .sensor = false) :
    takeReport f l s = forward f f.payload s := by
  unfold State.hasRole at h
  unfold takeReport
  cases entry : s.entryOf f.src with
  | none => rfl
  | some e =>
    rw [entry] at h
    dsimp only at h ⊢
    rw [if_neg (by simpa using h)]

theorem takeReport_fwd {f : Frame} {l : List (Fin 16 × Int)} {s : State} (room : s.ring.fwd.length < 8) :
    (takeReport f l s).ring.fwd = s.ring.fwd ++ [{ frame := { f with life := f.life - 1#4 }, taken := f.payload }] := by
  have stays : ∀ u : State, u.ring.fwd = s.ring.fwd → (forward f f.payload u).ring.fwd
      = s.ring.fwd ++ [{ frame := { f with life := f.life - 1#4 }, taken := f.payload }] := fun u same => by
    rw [forward_fwd (by rw [same]; exact room), same]
  unfold takeReport
  refine stays _ ?_
  repeat' split
  · rw [(reportArrival_kept ..).fwd, putSensors_rest]
  · rfl
  · rfl

@[simp] theorem forward_sensors (f : Frame) (taken : List Byte) (s : State) : (forward f taken s).sensors = s.sensors := by
  rw [forward_rest]

theorem forward_source (f : Frame) (taken : List Byte) (s : State) (c : Nat) : (forward f taken s).source c = s.source c := by
  rw [forward_rest]
  rfl

/-- What a report from a SENSOR station leaves (R14). -/
theorem report_arrives {f : Frame} {l : List (Fin 16 × Int)} {s : State} {e : Fin 16} (entry : s.entryOf f.src = some e)
    (role : (s.act.stations[e]).role = .sensor) {t : State} (ht : t = finish (takeReport f l s)) :
    t.sensors = (putSensors e l s).sensors
      ∧ t = finish (forward f f.payload (prepRetest (feedSensors (channelsOf l) (putSensors e l s))))
      ∧ ∀ ch ∈ channelsOf l, t.source (20 + ch.val) = { value := (t.sensors[ch]).value, valid := true } := by
  rw [takeReport_sensor entry role] at ht
  have sensors : t.sensors = (putSensors e l s).sensors := by
    rw [ht, finish_sensors, forward_sensors, (reportArrival_kept ..).sensors]
  refine ⟨sensors, ht, fun ch named => ?_⟩
  have range := ch.isLt
  obtain ⟨v, hv⟩ := putSensors_named (e := e) named s
  have value : t.sensors[ch] = written e v := by rw [sensors, hv]
  have fed := feedSensors_source (channelsOf_nodup l) named hv rfl
  rw [value, ht, finish_source, forward_source, reportArrival_eq, (prepRetest_measured _).kept _ (by omega), fed]

end Sys2Proof.Machine
end

section
/-!
The obligation of chapter 3 on a Sensor Report.
-/

namespace Sys2Proof.Proofs

open Sys2Proof.Machine

/-- Settles O21: the values a Sensor Report writes, the sources it hands, and the re-test of walk preparation. -/
theorem sensorReportSetsValues : Obligations.SensorReportSetsValues := by
  refine ⟨parseReport_iff, fun h ps l => parseReport_fields ps l, entryOf_iff, ?_⟩
  intro h ps s f l hf reads passes away
  subst hf
  refine ⟨_, exec_report reads passes away, ?written, fun room => ?queued, ?handed, fun other => ?unread⟩
  case written =>
    intro e entry role ch
    obtain ⟨sensors, -⟩ := report_arrives (l := l) entry role rfl
    rw [sensors]
    exact ⟨(putSensors_last l _).1, fun absent => putSensors_absent absent _⟩
  case queued =>
    rw [finish_fwd, takeReport_fwd (by rw [received_fwd]; exact room), received_fwd]
  case handed =>
    intro e entry role v cs hv hcs
    subst hv hcs
    obtain ⟨-, eq, sources⟩ := report_arrives (l := l) entry role rfl
    exact ⟨channelsOf_nodup l, mem_channelsOf l, eq, sources⟩
  case unread =>
    rw [takeReport_other other]
    exact finish_forward_onlyRing ..

end Sys2Proof.Proofs
end

section
/-!
What a change of mode leaves, written out (R31): the mode record, the walk sequencer's timers, the tightline record, the
points, and the trip lines; nothing else.
-/

namespace Sys2Proof.Machine

/-- The mode record after a change of mode (R31, R44). -/
def enteredCtl (new : Mode) (s : State) : ModeCtl :=
  { s.ctl with
    mode := new, entryTime := s.now, slot := none, hold := .none
    reason := if s.mode = .init then .none else s.ctl.reason
    parkTimer := if new = .dig then (parkLength s.act.mode.parkCode).map fun n => s.now + n
      else if s.mode = .dig then none else s.ctl.parkTimer }

theorem entered_eq (new : Mode) (s : State) : entered new s = { s with ctl := enteredCtl new s } := by
  unfold entered enteredCtl
  dsimp only
  by_cases h : new = .dig
  · rw [if_pos h, if_pos h]
    rfl
  · rw [if_neg h, if_neg h]

/-- The walk record after a change of mode to another than WALKING (R118, R120). -/
def movedWalk (old new : Mode) (s : State) : Walk :=
  { s.walk with
    tConfirm := if old = .walkPrep then none else s.walk.tConfirm
    tTimeout := if new = .walkPrep then some (s.now + s.act.walk.prepTimeout)
      else if old = .walkPrep then none else s.walk.tTimeout
    stepMark := if old = .walking then none else s.walk.stepMark }

theorem walkModeChange_eq (old : Mode) {new : Mode} (h : new ≠ .walking) (s : State) :
    walkModeChange old new s = { s with walk := movedWalk old new s } := by
  unfold walkModeChange movedWalk
  cases new
  case walking => exact absurd rfl h
  all_goals cases old <;> rfl

theorem tightModeChange_still {old : Mode} {s : State} (h : old = .dig → s.tight.start = none) :
    tightModeChange old s = s := by
  unfold tightModeChange
  refine if_neg fun k => ?_
  rw [Bool.and_eq_true, decide_eq_true_iff] at k
  rw [h k.1] at k
  cases k.2

theorem tightModeChange_unwatched (old : Mode) {s : State} (h : s.pointsOn 37 = []) :
    tightModeChange old s = { s with tight := (tightModeChange old s).tight
                                     alarm := { s.alarm with sources := (tightModeChange old s).alarm.sources }
                                     updates := (tightModeChange old s).updates } := by
  unfold tightModeChange
  split
  · have quiet : (clearEpisode s).pointsOn 37 = [] := h
    unfold feedHeld
    rw [quiet]
    split <;> rfl
  · rfl

/-- No point watches what the exit from DIG hands (R89). -/
def EpisodeUnwatched (s : State) : Prop := s.mode = .dig → s.tight.start = none ∨ s.pointsOn 37 = []

theorem tightModeChange_quiet {old : Mode} {s : State} (h : old = .dig → s.tight.start = none ∨ s.pointsOn 37 = []) :
    tightModeChange old s = { s with tight := (tightModeChange old s).tight
                                     alarm := { s.alarm with sources := (tightModeChange old s).alarm.sources }
                                     updates := (tightModeChange old s).updates } := by
  by_cases dig : old = .dig
  · rcases h dig with k | k
    · rw [tightModeChange_still fun _ => k]
    · exact tightModeChange_unwatched old k
  · rw [tightModeChange_still fun k => absurd k dig]

/-- The state once the points are re-armed and the walk sequencer is told (R31, R135). -/
def rearmedWalk (new : Mode) (s : State) : State :=
  { rearmPoints (entered new s) with walk := movedWalk s.mode new s }

theorem rearmedWalk_eq {new : Mode} (h : new ≠ .walking) (s : State) :
    walkModeChange s.mode new (rearmPoints (entered new s)) = rearmedWalk new s := by
  have rest := rearmPoints_rest (entered new s)
  have walk : movedWalk s.mode new (rearmPoints (entered new s)) = movedWalk s.mode new s := by
    rw [rest, entered_eq]
    rfl
  rw [walkModeChange_eq _ h, walk]
  rfl

/-- Re-arming leaves all but the points, the active list and the notices' marks (R129, R135). -/
theorem rearmedWalk_rest (new : Mode) (s : State) :
    rearmedWalk new s = { s with
      ctl := enteredCtl new s, walk := movedWalk s.mode new s
      alarm := { s.alarm with points := (rearmedWalk new s).alarm.points, list := (rearmedWalk new s).alarm.list }
      owed := (rearmedWalk new s).owed, statusOwed := (rearmedWalk new s).statusOwed } := by
  have points := (rearmPoints_armed (entered new s)).points
  unfold Points at points
  unfold rearmedWalk
  dsimp only
  generalize rearmPoints (entered new s) = a at points ⊢
  generalize a.alarm.points = ps at points ⊢
  generalize a.alarm.list = l at points ⊢
  generalize a.owed = o at points ⊢
  generalize a.statusOwed = b at points ⊢
  rw [points, entered_eq]

/-- The trip unit after a change of mode (R33, R160). -/
def movedTrip (new : Mode) (s : State) : Trip :=
  if s.mode = .init ∧ new = .parked then { s.trip with field := .energised, brake := .energised } else s.trip

/-- A change of mode to another than WALKING, where no point watches the end of a tightline episode (R31). -/
theorem modeSteps_quiet {new : Mode} (h : new ≠ .walking) {s : State} (q : EpisodeUnwatched s) :
    modeSteps new s = { s with
      ctl := enteredCtl new s, walk := movedWalk s.mode new s, trip := movedTrip new s
      tight := (modeSteps new s).tight
      alarm := { points := (modeSteps new s).alarm.points, list := (modeSteps new s).alarm.list
                 sources := (modeSteps new s).alarm.sources }
      owed := (modeSteps new s).owed, statusOwed := true, updates := (modeSteps new s).updates } := by
  have rest := rearmedWalk_rest new s
  have quiet : tightModeChange s.mode (rearmedWalk new s) = { rearmedWalk new s with
      tight := (tightModeChange s.mode (rearmedWalk new s)).tight
      alarm := { (rearmedWalk new s).alarm with
        sources := (tightModeChange s.mode (rearmedWalk new s)).alarm.sources }
      updates := (tightModeChange s.mode (rearmedWalk new s)).updates } := by
    refine tightModeChange_quiet fun dig => ?_
    have watched := q dig
    unfold State.pointsOn State.act at watched ⊢
    rw [rest]
    exact watched
  have steps : modeSteps new s = oweStatus { (tightModeChange s.mode (rearmedWalk new s)) with trip := movedTrip new s } := by
    have trip : (tightModeChange s.mode (rearmedWalk new s)).trip = s.trip := by rw [quiet, rest]
    rw [modeSteps_eq]
    unfold reworked movedTrip
    rw [rearmedWalk_eq h]
    split
    · rw [trip]
    · rw [← trip]
  rw [steps]
  generalize tightModeChange s.mode (rearmedWalk new s) = c at quiet
  generalize rearmedWalk new s = b at rest quiet
  unfold oweStatus
  dsimp only
  generalize c.tight = ct at quiet ⊢
  generalize c.updates = cu at quiet ⊢
  generalize c.alarm.sources = cs at quiet
  generalize b.owed = bo at rest
  generalize b.statusOwed = bs at rest
  generalize b.alarm.points = bp at rest
  generalize b.alarm.list = bl at rest
  rw [rest] at quiet
  rw [quiet]

/-- A change of mode with no tightline episode under way in DIG hands nothing (R31, R89). -/
theorem modeSteps_still {new : Mode} (h : new ≠ .walking) {s : State} (q : s.mode = .dig → s.tight.start = none) :
    modeSteps new s = { s with
      ctl := enteredCtl new s, walk := movedWalk s.mode new s, trip := movedTrip new s
      alarm := { s.alarm with points := (modeSteps new s).alarm.points, list := (modeSteps new s).alarm.list }
      owed := (modeSteps new s).owed, statusOwed := true } := by
  have rest := rearmedWalk_rest new s
  have tight : (rearmedWalk new s).tight = s.tight := by rw [rest]
  have still := tightModeChange_still (old := s.mode) (s := rearmedWalk new s) fun dig => by rw [tight, q dig]
  have trip : (rearmedWalk new s).trip = s.trip := by rw [rest]
  have steps : modeSteps new s = oweStatus { rearmedWalk new s with trip := movedTrip new s } := by
    rw [modeSteps_eq]
    unfold reworked movedTrip
    rw [rearmedWalk_eq h, still]
    split
    · rw [trip]
    · rw [← trip]
  rw [steps]
  generalize rearmedWalk new s = b at rest
  unfold oweStatus
  dsimp only
  generalize b.owed = bo at rest ⊢
  generalize b.statusOwed = bs at rest
  generalize b.alarm.points = bp at rest
  generalize b.alarm.list = bl at rest
  rw [rest]

theorem modeSteps_armed {new : Mode} (h : new ≠ .walking) {s : State} (q : EpisodeUnwatched s) :
    Rearmed s (modeSteps new s) := (modeSteps_rearmed q fun k => absurd k h).2.1

/-- With no trip held before or by its steps, a change of mode is its steps (R31). -/
theorem changeMode_steps {new : Mode} (h : new ≠ .walking) {s : State} (q : EpisodeUnwatched s) (none : s.heldTrips = []) :
    changeMode new s = modeSteps new s := by
  refine drain_none ?_
  rw [modeSteps_quiet h q]
  exact none

end Sys2Proof.Machine
end

section
/-!
Rules for the Operator Actions, and for what the end of a command leaves (R11, R18).
-/

namespace Sys2Proof.Machine

/-- An action that is taken acts, and the command ends (R11, log 6). -/
theorem exec_action {i : Instr} {f : Frame} {a : Action} {s : State} (row : rowFrame i = some f) (kind : f.kind = 4#4)
    (reads : parseAction f.payload = some a) (acts : s.acts f = true) :
    exec i s = .next (finish (act a (actedOn f s))) := by
  rw [exec_row row, takeFrame_acts kind reads acts]

theorem finish_rest (s : State) :
    finish s = { s with ring := (finish s).ring, statusOwed := (finish s).statusOwed, owed := (finish s).owed } :=
  (finish_kept s).rest

@[simp] theorem finish_mode (s : State) : (finish s).mode = s.mode := congrArg ModeCtl.mode (finish_ctl s)

/-- What changed in the mode record alone, and the ring, before the end of the command (R18). -/
theorem finish_ctlOnly {u w : State} (h : w = { u with ctl := w.ctl, ring := w.ring, owed := w.owed, statusOwed := w.statusOwed })
    {t : State} (ht : t = finish w) :
    t = { u with ctl := t.ctl, ring := t.ring, owed := t.owed, statusOwed := t.statusOwed } := by
  have rest := finish_rest w
  rw [← ht] at rest
  generalize t.ring = r at rest ⊢
  generalize t.owed = o at rest ⊢
  generalize t.statusOwed = b at rest ⊢
  rw [rest]
  generalize w.ctl = c at h ⊢
  generalize w.ring = wr at h
  generalize w.owed = wo at h
  generalize w.statusOwed = wb at h
  rw [h]

theorem finish_rearmed {u w : State} (h : Rearmed u w) : Rearmed u (finish w) :=
  rearmed_congr h (finish_mode w) (by rw [finish_alarm]) (by rw [finish_alarm])

theorem latchedActive_iff (s : State) : s.latchedActive = true ↔ LatchedPointStands s := by
  unfold State.latchedActive LatchedPointStands
  simp only [List.any_eq_true, List.mem_finRange, true_and, Bool.and_eq_true, active_iff]

theorem prefailCrossed_iff (s : State) : s.prefailCrossed = true ↔ PrefailStands s := by
  unfold State.prefailCrossed PrefailStands State.crossed
  simp only [List.any_eq_true, List.mem_finRange, true_and, Bool.and_eq_true, beq_iff_eq, decide_eq_true_eq]

end Sys2Proof.Machine
end

section
/-!
Lemmas for the obligations of chapter 2 on mode requests: the entry to a target mode, and the refusals (R34, R35, R117).
-/

namespace Sys2Proof.Machine

theorem modeRequest_reads (h : Header) (g : Target) :
    parseAction (actionFrame h 0#8 [targetByte g]).payload = some (.modeRequest g) := by
  cases g <;> rfl

theorem act_modeRequest (g : Target) (u : State) : act (.modeRequest g) u = modeRequest g u := by
  unfold act
  rfl

theorem exec_modeRequest {h : Header} {g : Target} {s u : State} (hu : u = actedOn (actionFrame h 0#8 [targetByte g]) s)
    (acts : s.acts (actionFrame h 0#8 [targetByte g]) = true) :
    exec (.modeRequest h (targetByte g)) s = .next (finish (modeRequest g u)) := by
  rw [exec_action (i := .modeRequest h (targetByte g)) rfl rfl (modeRequest_reads h g) acts, act_modeRequest, hu]

/-! The entry to WALK_PREP and on to WALKING (R42, R117, R118). -/

/-- The conditions of walk preparation are read from these parts alone (R116). -/
theorem PrepReady.of_kept {s t : State} (k : TripKept s t) (b : t.brakes = s.brakes) : PrepReady t ↔ PrepReady s := by
  have fresh : ∀ x, t.driveFresh x = s.driveFresh x := fun x => by
    unfold State.driveFresh State.driveEntry State.entryFresh State.act
    rw [k.stations, k.tables]
  have act : t.act = s.act := by unfold State.act; rw [k.tables]
  unfold PrepReady
  simp only [fresh, act, k.feedback, k.sensors, b]

theorem prepRetest_waits {s : State} (mode : s.mode = .walkPrep) (h : s.act.walk.prepConfirm ≠ 0 ∨ s.prepHolds = false) :
    ∃ v, prepRetest s = { s with walk := { s.walk with tConfirm := v } }
      ∧ (s.walk.tConfirm = none → s.prepHolds = true → v = some (s.now + s.act.walk.prepConfirm))
      ∧ (s.walk.tConfirm = none → s.prepHolds = false → v = none) := by
  have same : ∀ v, s.walk.tConfirm = v → { s with walk := { s.walk with tConfirm := v } } = s := fun v hv => by
    rw [← hv]
  unfold prepRetest
  rw [if_pos mode]
  cases timer : s.walk.tConfirm with
  | none =>
    dsimp only
    cases holds : s.prepHolds
    · exact ⟨none, (same none timer).symm, nofun, fun _ _ => rfl⟩
    · refine ⟨some (s.now + s.act.walk.prepConfirm), ?_, fun _ _ => rfl, nofun⟩
      exact if_neg (h.resolve_right (by rw [holds]; decide))
  | some d =>
    dsimp only
    cases holds : s.prepHolds
    · exact ⟨none, rfl, nofun, nofun⟩
    · exact ⟨some d, (same (some d) timer).symm, nofun, nofun⟩

theorem prepRetest_confirms {s : State} (mode : s.mode = .walkPrep) (confirm : s.act.walk.prepConfirm = 0)
    (holds : s.prepHolds = true) (timer : s.walk.tConfirm = none) : prepRetest s = prepConfirmed s := by
  unfold prepRetest
  rw [if_pos mode, timer]
  dsimp only
  rw [if_pos holds, if_pos confirm]

/-- A session begun from WALK_PREP, told of the state before the preparation (R120). -/
theorem WalkBegun.of_eq {s v t : State} (h : WalkBegun v t) (turn : v.lagTurn = s.lagTurn) (brakes : v.brakes = s.brakes)
    (trip : v.trip = s.trip) : WalkBegun s t := by
  unfold WalkBegun at h ⊢
  rw [turn, brakes, trip] at h
  exact h

/-- The entry to WALK_PREP from PARKED (R31, R118). -/
theorem prep_entered {u v : State} (hv : v = changeMode .walkPrep u) (parked : u.mode = .parked) (none : u.heldTrips = []) :
    v.mode = .walkPrep ∧ v.ctl = enteredCtl .walkPrep u ∧ v.walk = movedWalk .parked .walkPrep u ∧ v.trip = u.trip
      ∧ v.brakes = u.brakes ∧ v.attrs = u.attrs ∧ v.heldTrips = [] ∧ TripKept u v ∧ Rearmed u v := by
  have still : EpisodeUnwatched u := fun dig => by rw [parked] at dig; cases dig
  have quiet : u.mode = .dig → u.tight.start = Option.none := fun dig => by rw [parked] at dig; cases dig
  have armed := modeSteps_armed (new := .walkPrep) (by decide) still
  have kept := modeSteps_kept .walkPrep u
  have rest := modeSteps_still (new := .walkPrep) (by decide) quiet
  rw [changeMode_steps (by decide) still none] at hv
  rw [← hv] at armed kept rest
  have trip : movedTrip .walkPrep u = u.trip := if_neg fun k => nomatch k.2
  rw [trip, parked] at rest
  refine ⟨?_, ?_, ?_, ?_, ?_, kept.attrs, ?_, kept, armed⟩
  all_goals rw [rest]
  · rfl
  · exact none

theorem enterWalkPrep_waits {u t : State} (ht : t = enterWalkPrep u) (parked : u.mode = .parked) (none : u.heldTrips = [])
    (h : u.act.walk.prepConfirm ≠ 0 ∨ ¬PrepReady u) :
    t.mode = .walkPrep ∧ t.ctl.slot = Option.none ∧ t.walk.tTimeout = some (u.now + u.act.walk.prepTimeout)
      ∧ t.trip = u.trip ∧ t.brakes = u.brakes ∧ Rearmed u t
      ∧ (u.walk.tConfirm = Option.none → PrepReady u → t.walk.tConfirm = some (u.now + u.act.walk.prepConfirm))
      ∧ (u.walk.tConfirm = Option.none → ¬PrepReady u → t.walk.tConfirm = Option.none) := by
  obtain ⟨mode, ctl, walk, trip, brakes, attrs, -, kept, armed⟩ := prep_entered rfl parked none
  unfold enterWalkPrep at ht
  generalize changeMode .walkPrep u = v at *
  have act : v.act = u.act := by unfold State.act; rw [kept.tables]
  have ready : v.prepHolds = true ↔ PrepReady u := (prepHolds_iff v).trans (PrepReady.of_kept kept brakes)
  have unready : v.prepHolds = false ↔ ¬PrepReady u := by rw [← ready]; simp
  have timer : v.walk.tConfirm = u.walk.tConfirm := by rw [walk]; rfl
  obtain ⟨d, eq, starts, stays⟩ := prepRetest_waits mode (h.imp (fun k => by rw [act]; exact k) unready.mpr)
  rw [timer, act, kept.now] at starts
  rw [timer] at stays
  rw [eq] at ht
  rw [ht]
  refine ⟨mode, congrArg ModeCtl.slot ctl, ?_, trip, brakes, rearmed_congr armed rfl rfl rfl,
    fun k r => starts k (ready.mpr r), fun k r => stays k (unready.mpr r)⟩
  exact congrArg Walk.tTimeout walk

theorem enterWalkPrep_begins {u t : State} (ht : t = enterWalkPrep u) (parked : u.mode = .parked) (none : u.heldTrips = [])
    (uncrossed : u.prefailCrossed = false) (confirm : u.act.walk.prepConfirm = 0) (ready : PrepReady u)
    (timer : u.walk.tConfirm = Option.none) (clear : WalkClear u) : WalkBegun u t := by
  obtain ⟨mode, ctl, walk, trip, brakes, attrs, held, kept, armed⟩ := prep_entered rfl parked none
  unfold enterWalkPrep at ht
  generalize changeMode .walkPrep u = v at *
  have act : v.act = u.act := by unfold State.act; rw [kept.tables]
  have holds : v.prepHolds = true := (prepHolds_iff v).mpr ((PrepReady.of_kept kept brakes).mpr ready)
  have stopped : v.walk.tConfirm = Option.none := by rw [walk]; exact timer
  have uncrossed' : v.prefailCrossed = false := by
    unfold State.prefailCrossed State.crossed at uncrossed ⊢
    rw [act, attrs]
    exact uncrossed
  have confirmed : prepConfirmed v = changeMode .walking v := if_neg (by rw [uncrossed']; decide)
  rw [prepRetest_confirms mode (by rw [act]; exact confirm) holds stopped, confirmed] at ht
  have entered := (changeMode_walking ht mode held (.inl (by rw [walk]; exact clear.1))).1 (by
    rw [act, walk]
    exact clear.2)
  exact entered.1.of_eq (by unfold State.lagTurn; rw [walk]; rfl) brakes trip

theorem enterWalkPrep_taken {u t : State} (ht : t = enterWalkPrep u) (parked : u.mode = .parked) (none : u.heldTrips = [])
    (uncrossed : u.prefailCrossed = false) : WalkTaken u t :=
  ⟨enterWalkPrep_waits ht parked none, enterWalkPrep_begins ht parked none uncrossed⟩

theorem WalkTaken.finish {u w : State} (h : WalkTaken u w) : WalkTaken u (finish w) := by
  obtain ⟨waits, begins⟩ := h
  refine ⟨fun k => ?_, fun confirm ready timer clear => ?_⟩
  · obtain ⟨mode, slot, timeout, trip, brakes, armed, starts, stays⟩ := waits k
    exact ⟨by rw [finish_mode]; exact mode, by rw [finish_ctl]; exact slot, by rw [finish_walk]; exact timeout,
      by rw [finish_trip]; exact trip, by rw [finish_brakes]; exact brakes, finish_rearmed armed,
      by rw [finish_walk]; exact starts, by rw [finish_walk]; exact stays⟩
  · have begun := begins confirm ready timer clear
    unfold WalkBegun at begun ⊢
    rw [finish_mode, finish_ctl, finish_walk, finish_brakes, finish_trip]
    exact begun

/-! The entry to DIG (R31, R44). -/

theorem dig_entered {u t : State} (ht : t = finish (changeMode .dig u)) (parked : u.mode = .parked) (none : u.heldTrips = []) :
    t.ctl = enteredCtl .dig u ∧ Rearmed u t
      ∧ t = { u with ctl := t.ctl
                     alarm := { u.alarm with points := t.alarm.points, list := t.alarm.list }
                     ring := t.ring, owed := t.owed, statusOwed := t.statusOwed } := by
  have still : EpisodeUnwatched u := fun dig => by rw [parked] at dig; cases dig
  have quiet : u.mode = .dig → u.tight.start = Option.none := fun dig => by rw [parked] at dig; cases dig
  have armed := modeSteps_armed (new := .dig) (by decide) still
  have rest := modeSteps_still (new := .dig) (by decide) quiet
  have trip : movedTrip .dig u = u.trip := if_neg fun k => nomatch k.2
  have walk : movedWalk .parked .dig u = u.walk := rfl
  rw [changeMode_steps (by decide) still none] at ht
  rw [trip, parked, walk] at rest
  have ended := finish_rest (modeSteps .dig u)
  have armed' := finish_rearmed armed
  have ctl : (modeSteps .dig u).ctl = enteredCtl .dig u := by rw [rest]
  rw [← ht] at ended armed'
  have ctl' : t.ctl = enteredCtl .dig u := by rw [ended]; exact ctl
  refine ⟨ctl', armed', ?_⟩
  rw [ctl']
  have points : t.alarm = (modeSteps .dig u).alarm := by rw [ended]
  rw [points]
  generalize t.ring = r at ended ⊢
  generalize t.owed = o at ended ⊢
  generalize t.statusOwed = b at ended ⊢
  rw [ended]
  generalize modeSteps .dig u = w at rest ⊢
  generalize w.alarm.points = ps at rest ⊢
  generalize w.alarm.list = l at rest ⊢
  generalize w.owed = wo at rest
  rw [rest]

/-! Requests in PARKED (R35, R37). -/

theorem enterTarget_dig (u : State) : enterTarget .dig u = changeMode .dig u := rfl

theorem enterTarget_walk (u : State) : enterTarget .walk u = enterWalkPrep u := rfl

theorem modeRequest_parked {u : State} {g : Target} (parked : u.mode = .parked) (away : g ≠ .park) :
    modeRequest g u = requestStart g u := by
  unfold modeRequest
  rw [parked]
  cases g with
  | park => exact absurd rfl away
  | dig => rfl
  | walk => rfl

theorem requestStart_enters {u : State} {g : Target} (new : u.pendingTarget g = false) (passes : u.requestCheck = none)
    (met : u.dwellMet u.act.mode.parkedDwell = true) : requestStart g u = enterTarget g u := by
  unfold requestStart
  rw [passes]
  dsimp only
  rw [if_neg (by rw [new]; decide), if_pos met]

theorem requestStart_waits {u : State} {g : Target} (new : u.pendingTarget g = false) (passes : u.requestCheck = none)
    (early : u.dwellMet u.act.mode.parkedDwell = false) : requestStart g u = beginDwell g u.act.mode.parkedDwell u := by
  unfold requestStart
  rw [passes]
  dsimp only
  rw [if_neg (by rw [new]; decide), if_neg (by rw [early]; decide)]

theorem requestStart_refuses {u : State} {g : Target} {r : Refused} (refused : u.requestCheck = some r) :
    requestStart g u = refuse r u := by
  unfold requestStart
  rw [refused]

/-- The slot written, where the Status Notice's mark follows a change of it (R37). -/
theorem setSlot_ctlOnly (v : Option Slot) (s : State) :
    (setSlot v s).ctl = { s.ctl with slot := v }
      ∧ setSlot v s = { s with ctl := (setSlot v s).ctl, statusOwed := (setSlot v s).statusOwed } := ⟨rfl, rfl⟩

theorem beginDwell_ctl (g : Target) (d : Nat) (s : State) :
    (beginDwell g d s).ctl
        = { s.ctl with slot := some { target := g, wait := .dwell (s.ctl.entryTime + d) }, hold := .none }
      ∧ beginDwell g d s = { s with ctl := (beginDwell g d s).ctl, ring := (beginDwell g d s).ring
                                    owed := (beginDwell g d s).owed, statusOwed := (beginDwell g d s).statusOwed } :=
  ⟨rfl, rfl⟩

theorem refuse_ctl (r : Refused) (s : State) :
    (refuse r s).ctl = { s.ctl with refusal := r }
      ∧ refuse r s = { s with ctl := (refuse r s).ctl, ring := (refuse r s).ring
                              owed := (refuse r s).owed, statusOwed := (refuse r s).statusOwed } := ⟨rfl, rfl⟩

/-! What refuses a request (R34 to R36). -/

theorem modeRequest_refuses {u : State} {g : Target} {r : Refused}
    (h : (u.mode = .init ∧ r = u.initCause) ∨ (u.mode = .testing ∧ r = .testRunning)
      ∨ (u.mode = .tripped ∧ r = .illegalTransition) ∨ (u.mode = .dig ∧ g = .walk ∧ r = .illegalTransition)
      ∨ ((u.mode = .walkPrep ∨ u.mode = .walking) ∧ g = .dig ∧ r = .illegalTransition)
      ∨ (u.mode = .parked ∧ g ≠ .park ∧ u.requestCheck = some r)) : modeRequest g u = refuse r u := by
  unfold modeRequest
  rcases h with ⟨m, rfl⟩ | ⟨m, rfl⟩ | ⟨m, rfl⟩ | ⟨m, rfl, rfl⟩ | ⟨m | m, rfl, rfl⟩ | ⟨m, away, refused⟩
  all_goals rw [m]
  rw [← requestStart_refuses (g := g) refused]
  cases g with
  | park => exact absurd rfl away
  | dig => rfl
  | walk => rfl

theorem requestCheck_first (u : State) :
    (TripPointStands u → u.requestCheck = some .tripActive)
      ∧ (¬TripPointStands u →
          (LatchedPointStands u → u.requestCheck = some .latchedActive)
          ∧ (¬LatchedPointStands u →
              (PrefailStands u → u.requestCheck = some .attrPrefail)
              ∧ (¬PrefailStands u →
                  (DriveNotFresh u → u.requestCheck = some .stationNotFresh)
                  ∧ (¬DriveNotFresh u →
                      (AnalogSettles u → u.requestCheck = some .analogSettling)
                      ∧ (¬AnalogSettles u →
                          (BrakeNotSet u → u.requestCheck = some .brakesNotSet)
                          ∧ (¬BrakeNotSet u → u.requestCheck = none)))))) := by
  unfold State.requestCheck
  have drives : (!u.drivesFresh) = true ↔ DriveNotFresh u := by
    rw [Bool.not_eq_true', ← Bool.not_eq_true, drivesFresh_iff, not_not]
  have brakes : (!u.allSet) = true ↔ BrakeNotSet u := by
    rw [Bool.not_eq_true', ← Bool.not_eq_true, allSet_iff, not_not]
  refine ⟨fun h => if_pos ((tripPointActive_iff u).mpr h), fun h1 => ?_⟩
  rw [if_neg (mt (tripPointActive_iff u).mp h1)]
  refine ⟨fun h => if_pos ((latchedActive_iff u).mpr h), fun h2 => ?_⟩
  rw [if_neg (mt (latchedActive_iff u).mp h2)]
  refine ⟨fun h => if_pos ((prefailCrossed_iff u).mpr h), fun h3 => ?_⟩
  rw [if_neg (mt (prefailCrossed_iff u).mp h3)]
  refine ⟨fun h => if_pos (drives.mpr h), fun h4 => ?_⟩
  rw [if_neg (mt drives.mp h4)]
  refine ⟨fun h => if_pos ((settling_iff u).mpr h), fun h5 => ?_⟩
  rw [if_neg (mt (settling_iff u).mp h5)]
  exact ⟨fun h => if_pos (brakes.mpr h), fun h => if_neg (mt brakes.mp h)⟩

theorem initCause_reasons (u : State) :
    (u.ctl.reason = .noTables → u.initCause = .noTables)
      ∧ (u.ctl.reason = .holdRecords → u.initCause = .holdRecords)
      ∧ (u.ctl.reason = .waiting →
          (BrakeNotSet u → u.initCause = .brakesNotSet)
          ∧ (¬BrakeNotSet u → DriveNotFresh u → u.initCause = .stationNotFresh)
          ∧ (¬BrakeNotSet u → ¬DriveNotFresh u → u.initCause = .analogSettling))
      ∧ ((u.ctl.reason = .none ∨ u.ctl.reason = .badStation) → u.initCause = .illegalTransition) := by
  have drives : (!u.drivesFresh) = true ↔ DriveNotFresh u := by
    rw [Bool.not_eq_true', ← Bool.not_eq_true, drivesFresh_iff, not_not]
  have brakes : (!u.allSet) = true ↔ BrakeNotSet u := by
    rw [Bool.not_eq_true', ← Bool.not_eq_true, allSet_iff, not_not]
  unfold State.initCause
  refine ⟨fun h => by rw [h], fun h => by rw [h], fun h => ?_, fun h => by rcases h with h | h <;> rw [h]⟩
  rw [h]
  dsimp only
  refine ⟨fun k => if_pos (brakes.mpr k), fun k d => ?_, fun k d => ?_⟩
  · rw [if_neg (mt brakes.mp k), if_pos (drives.mpr d)]
  · rw [if_neg (mt brakes.mp k), if_neg (mt drives.mp d)]

theorem requestCheck_uncrossed {u : State} (h : u.requestCheck = none) : u.prefailCrossed = false := by
  obtain ⟨trips, more⟩ := requestCheck_first u
  by_contra crossed
  have stands := (prefailCrossed_iff u).mp (by simpa using crossed)
  by_cases a : TripPointStands u
  · rw [trips a] at h; cases h
  · obtain ⟨latched, more⟩ := more a
    by_cases b : LatchedPointStands u
    · rw [latched b] at h; cases h
    · rw [(more b).1 stands] at h; cases h

end Sys2Proof.Machine
end

section
/-!
The obligations of chapter 2 on the requests for DIG and WALK, and on the requests that are refused.
-/

namespace Sys2Proof.Proofs

open Sys2Proof.Machine

/-- Settles O22: the change of mode re-arms the points, and a DIG or WALK request that passes its checks. -/
theorem digAndWalkRequests : Obligations.DigAndWalkRequests := by
  refine ⟨?steps, ?request⟩
  case steps =>
    intro m s t ht episode reversal
    obtain ⟨mode, armed, owed⟩ := modeSteps_rearmed episode reversal
    subst ht
    exact ⟨mode, armed, owed, fun _ held => drain_none held⟩
  case request =>
    intro h g s u hu acts parked none away new passes
    refine ⟨_, exec_modeRequest hu acts, ?_⟩
    rw [modeRequest_parked parked away]
    refine ⟨fun dig met => ?_, fun walk met => ?_, fun early => ?_⟩
    · subst dig
      rw [requestStart_enters new passes met]
      rw [enterTarget_dig]
      generalize ht : finish (changeMode .dig u) = t
      obtain ⟨ctl, armed, rest⟩ := dig_entered ht.symm parked none
      exact ⟨congrArg ModeCtl.mode ctl, congrArg ModeCtl.slot ctl, congrArg ModeCtl.hold ctl, congrArg ModeCtl.entryTime ctl,
        congrArg ModeCtl.parkTimer ctl, armed, rest⟩
    · subst walk
      rw [requestStart_enters new passes met, enterTarget_walk]
      exact (enterWalkPrep_taken rfl parked none (requestCheck_uncrossed passes)).finish
    · rw [requestStart_waits new passes early]
      obtain ⟨ctl, rest⟩ := beginDwell_ctl g u.act.mode.parkedDwell u
      exact ⟨by rw [finish_ctl, ctl], finish_ctlOnly rest rfl⟩

/-- Settles O23: a refused mode request records its cause, the first of its conditions in order. -/
theorem modeRequestRefused : Obligations.ModeRequestRefused := by
  refine ⟨?refused, requestCheck_first, initCause_reasons⟩
  intro h g s u r hu acts refused
  refine ⟨_, exec_modeRequest hu acts, ?_⟩
  rw [modeRequest_refuses refused]
  obtain ⟨ctl, rest⟩ := refuse_ctl r u
  exact ⟨by rw [finish_ctl, ctl], finish_ctlOnly rest rfl⟩

end Sys2Proof.Proofs
end

section
/-!
The parking set-all and what parking leaves (R39 to R41, R62).
-/

namespace Sys2Proof.Machine

/-! The set-all, channel by channel (R62). -/

theorem parkChannel_only (c : Chan) (s : State) : OnlyChan c s (parkChannel c s) := by
  unfold parkChannel
  split
  · exact returnToSet_only c s
  · exact beginToSet_only c s
  · exact .refl ..

/-- A channel that a parking set-all leaves alone (R62). -/
def Parked (ch : Channel) : Prop := ch.state ≠ .releasePending ∧ ch.state ≠ .released

theorem parkChannel_parks (c : Chan) (s : State) : Parked ((parkChannel c s).brakes.get c) := by
  have written : ∀ (u : State) ch, Parked ch → Parked ((u.setChan c ch).brakes.get c) := fun u ch h => by
    rw [show (u.setChan c ch).brakes.get c = ch from PerChan.get_set_same ..]
    exact h
  unfold parkChannel
  split
  · exact written _ _ ⟨nofun, nofun⟩
  · unfold beginToSet enterSetting
    dsimp only
    split
    · exact written _ _ ⟨nofun, nofun⟩
    · exact written _ _ ⟨nofun, nofun⟩
  · rename_i pending released
    exact ⟨pending, released⟩

theorem parkChannel_leaves {c : Chan} {s : State} (h : Parked (s.brakes.get c)) (d : Chan) :
    (parkChannel d s).brakes.get c = s.brakes.get c := by
  by_cases same : c = d
  · subst same
    unfold parkChannel
    split
    · rename_i pending; exact absurd pending h.1
    · rename_i released; exact absurd released h.2
    · rfl
  · exact (parkChannel_only d s).others c same

theorem parkChannels_set (c : Chan) (l : List Chan) : ∀ s : State,
    (Parked (s.brakes.get c) → (l.foldl (fun s d => parkChannel d s) s).brakes.get c = s.brakes.get c)
      ∧ (c ∈ l → Parked ((l.foldl (fun s d => parkChannel d s) s).brakes.get c)) := by
  induction l with
  | nil => exact fun s => ⟨fun _ => rfl, nofun⟩
  | cons d l ih =>
    intro s
    obtain ⟨stays, parks⟩ := ih (parkChannel d s)
    have kept : Parked (s.brakes.get c) → Parked ((parkChannel d s).brakes.get c) := fun h => by
      rw [parkChannel_leaves h]
      exact h
    refine ⟨fun h => (stays (kept h)).trans (parkChannel_leaves h d), fun m => ?_⟩
    by_cases same : c = d
    · have parked : Parked ((parkChannel d s).brakes.get c) := by rw [same]; exact parkChannel_parks d s
      rw [List.foldl_cons, stays parked]
      exact parked
    · exact parks ((List.mem_cons.mp m).resolve_left same)

theorem parkingSetAll_sets (c : Chan) (s : State) :
    Parked ((parkingSetAll s).brakes.get c)
      ∧ (Parked (s.brakes.get c) → (parkingSetAll s).brakes.get c = s.brakes.get c) := by
  obtain ⟨stays, parks⟩ := parkChannels_set c allChans s
  exact ⟨parks (by cases c <;> decide), stays⟩

theorem parkingSetAll_rest (s : State) :
    parkingSetAll s = { s with brakes := (parkingSetAll s).brakes, statusOwed := (parkingSetAll s).statusOwed } := by
  unfold parkingSetAll
  generalize allChans = l
  induction l generalizing s with
  | nil => rfl
  | cons c l ih =>
    have one := (parkChannel_only c s).frame
    have more := ih (parkChannel c s)
    rw [List.foldl_cons]
    generalize l.foldl (fun s c => parkChannel c s) (parkChannel c s) = t at more ⊢
    generalize parkChannel c s = u at one more
    rw [more, one]

/-- A state with its mode record and the Status Notice's mark replaced. -/
def withCtl (c : ModeCtl) (b : Bool) (s : State) : State := { s with ctl := c, statusOwed := b }

/-- The set-all does not read the mode record. -/
theorem parkChannel_withCtl (d : Chan) (c : ModeCtl) (b : Bool) (s : State) :
    ∃ b', parkChannel d (withCtl c b s) = withCtl c b' (parkChannel d s) := by
  have same : ((withCtl c b s).brakes.get d).state = (s.brakes.get d).state := rfl
  unfold parkChannel
  rw [same]
  split
  · exact ⟨_, rfl⟩
  · have early : (((withCtl c b s).brakes.get d).releasedTime.getD 0 + ((withCtl c b s).act.brake.get d).minRelease
        ≤ (withCtl c b s).now) = ((s.brakes.get d).releasedTime.getD 0 + (s.act.brake.get d).minRelease ≤ s.now) := rfl
    unfold beginToSet
    dsimp only
    simp only [early]
    split
    · exact ⟨_, rfl⟩
    · exact ⟨_, rfl⟩
  · exact ⟨b, rfl⟩

theorem parkingSetAll_withCtl (c : ModeCtl) (b : Bool) (s : State) :
    ∃ b', parkingSetAll (withCtl c b s) = withCtl c b' (parkingSetAll s) := by
  unfold parkingSetAll
  generalize allChans = l
  induction l generalizing s b with
  | nil => exact ⟨b, rfl⟩
  | cons d l ih =>
    obtain ⟨b', one⟩ := parkChannel_withCtl d c b s
    rw [List.foldl_cons, List.foldl_cons, one]
    exact ih b' (parkChannel d s)

/-! Parking begins (R39, R41). -/

/-- The state in which a parking set-all has been made, with a mode record of its own. -/
def parkSet (c : ModeCtl) (b : Bool) (s : State) : State := { s with brakes := (parkingSetAll s).brakes, ctl := c, statusOwed := b }

/-- The wait for the brakes, under a parking hold (R39, R41). -/
def waitsForBrakes (v : Hold) (c : ModeCtl) : ModeCtl :=
  { c with slot := some { target := .park, wait := .brakes }, hold := v }

theorem parkWith_eq (v : Hold) (c : ModeCtl) (b : Bool) (s : State) :
    ∃ b', parkWith v (withCtl c b s) = parkingTest (parkSet (waitsForBrakes v c) b' s) := by
  have placed : ∃ b', parkWith v (withCtl c b s) = parkingTest (parkingSetAll (withCtl (waitsForBrakes v c) b' s)) :=
    ⟨_, rfl⟩
  obtain ⟨b1, placed⟩ := placed
  obtain ⟨b2, set⟩ := parkingSetAll_withCtl (waitsForBrakes v c) b1 s
  have rest : withCtl (waitsForBrakes v c) b2 (parkingSetAll s) = parkSet (waitsForBrakes v c) b2 s := by
    have frame := parkingSetAll_rest s
    unfold withCtl parkSet
    generalize parkingSetAll s = p at frame ⊢
    generalize p.brakes = bs at frame ⊢
    generalize p.statusOwed = o at frame
    rw [frame]
  exact ⟨b2, by rw [placed, set, rest]⟩

/-- Whether all four channels are SET after a parking set-all does not depend on the mode record. -/
theorem parkSet_allSet (c : ModeCtl) (b : Bool) (s : State) : (parkSet c b s).allSet = (parkingSetAll s).allSet := rfl

theorem parkingTest_stays {c : ModeCtl} {b : Bool} {s : State} (h : (parkingSetAll s).allSet = false) :
    parkingTest (parkSet c b s) = parkSet c b s := by
  unfold parkingTest
  refine if_neg fun k => ?_
  rw [parkSet_allSet, h] at k
  cases k.2.2

theorem parkingTest_parks {v : Hold} {c : ModeCtl} {b : Bool} {s : State} (mode : c.mode = .dig ∨ c.mode = .walking)
    (h : (parkingSetAll s).allSet = true) :
    parkingTest (parkSet (waitsForBrakes v c) b s) = changeMode .parked (parkSet (waitsForBrakes v c) b s) := by
  unfold parkingTest
  exact if_pos ⟨mode, rfl, h⟩

/-- The points re-armed, told of a state with the same points, tables, sources and time (R135). -/
theorem Rearmed.of_eq {s v t : State} (h : Rearmed v t) (alarm : v.alarm = s.alarm) (tables : v.tables = s.tables)
    (now : v.now = s.now) : Rearmed s t := by
  unfold Rearmed State.source ActiveListExact State.act at h ⊢
  rw [alarm, tables, now] at h
  exact h

/-- The change to PARKED once the set-all has left all four channels SET (R40). -/
theorem parked_at_once {v : Hold} {c : ModeCtl} {b : Bool} {s w : State}
    (hw : w = changeMode .parked (parkSet (waitsForBrakes v c) b s))
    (mode : c.mode = s.mode) (refusal : c.refusal = s.ctl.refusal) (started : s.mode ≠ .init) (none : s.heldTrips = [])
    (q : EpisodeUnwatched s) : ParkedAtOnce s w ∧ w.ctl = enteredCtl .parked (parkSet (waitsForBrakes v c) b s) := by
  have same : (parkSet (waitsForBrakes v c) b s).mode = s.mode := mode
  have quiet : EpisodeUnwatched (parkSet (waitsForBrakes v c) b s) := fun dig => q (same.symm.trans dig)
  have armed := modeSteps_armed (new := .parked) (by decide) quiet
  have rest := modeSteps_quiet (new := .parked) (by decide) quiet
  have trip : movedTrip .parked (parkSet (waitsForBrakes v c) b s) = s.trip :=
    if_neg fun k => started (same.symm.trans k.1)
  rw [changeMode_steps (by decide) quiet none] at hw
  rw [← hw] at armed rest
  rw [trip] at rest
  have ctl : w.ctl = enteredCtl .parked (parkSet (waitsForBrakes v c) b s) := by rw [rest]
  refine ⟨⟨congrArg ModeCtl.mode ctl, congrArg ModeCtl.slot ctl, congrArg ModeCtl.hold ctl, congrArg ModeCtl.entryTime ctl,
    (congrArg ModeCtl.refusal ctl).trans refusal, ?_, ?_, armed.of_eq rfl rfl rfl⟩, ctl⟩
  · rw [rest]
    rfl
  · rw [rest]

theorem ParkedAtOnce.finish {s w : State} (h : ParkedAtOnce s w) : ParkedAtOnce s (finish w) := by
  obtain ⟨mode, slot, hold, entry, refusal, brakes, trip, armed⟩ := h
  exact ⟨by rw [finish_mode]; exact mode, by rw [finish_ctl]; exact slot, by rw [finish_ctl]; exact hold,
    by rw [finish_ctl]; exact entry, by rw [finish_ctl]; exact refusal, by rw [finish_brakes]; exact brakes,
    by rw [finish_trip]; exact trip, finish_rearmed armed⟩

end Sys2Proof.Machine
end

section
/-!
A change of mode and a trip leave the refusal as it was recorded (R36).
-/

namespace Sys2Proof.Machine

/-- The mode record is as it was. -/
structure CtlKept (s t : State) : Prop where
  ctl : t.ctl = s.ctl

theorem CtlKept.refl (s : State) : CtlKept s s := ⟨rfl⟩

theorem CtlKept.trans {a b c : State} (h : CtlKept a b) (k : CtlKept b c) : CtlKept a c := ⟨k.ctl.trans h.ctl⟩

theorem CtlKept.foldl {β : Type} {f : State → β → State} (h : ∀ s b, CtlKept s (f s b)) (l : List β) :
    ∀ s, CtlKept s (l.foldl f s) := by
  induction l with
  | nil => exact .refl
  | cons b l ih => exact fun s => (h s b).trans (ih _)

theorem setPoint_ctl (p : Fin 48) (st : PState) (m : Bool) (timer : Option Nat) (s : State) :
    CtlKept s (setPoint p st m timer s) := by
  have points := setPoint_points p st m timer s
  unfold Points at points
  exact ⟨by rw [points]⟩

theorem activatePoint_ctl (trig : Option (List Byte)) (p : Fin 48) (s : State) : CtlKept s (activatePoint trig p s) := by
  unfold activatePoint
  dsimp only
  split
  · exact ⟨(setPoint_ctl ..).ctl⟩
  · exact setPoint_ctl ..

theorem evalPoint_ctl (trig : Option (List Byte)) (p : Fin 48) (s : State) : CtlKept s (evalPoint trig p s) := by
  unfold evalPoint
  dsimp only
  repeat' split
  all_goals first | exact .refl s | exact activatePoint_ctl trig p s | exact setPoint_ctl ..

theorem feedHeld_ctl (code : Nat) (v : Int) (ok : Bool) (trig : Option (List Byte)) (s : State) :
    CtlKept s (feedHeld code v ok trig s) := by
  unfold feedHeld
  split
  · exact ⟨rfl⟩
  · have set : CtlKept s (s.setSource code v ok) := ⟨rfl⟩
    exact set.trans (.foldl (fun s p => evalPoint_ctl trig p s) _ _)

theorem rearmPoints_ctl (s : State) : CtlKept s (rearmPoints s) := ⟨by rw [rearmPoints_rest]⟩

theorem enterWalking_ctl (s : State) : CtlKept s (enterWalking s) := by
  have fed : ∀ w, CtlKept s (feedHeld 77 0 true none { s with walk := w }) := fun w => ⟨(feedHeld_ctl ..).ctl⟩
  unfold enterWalking
  dsimp only
  repeat' split
  all_goals first | exact ⟨rfl⟩ | exact ⟨(fed _).ctl⟩

theorem walkModeChange_ctl (old new : Mode) (s : State) : CtlKept s (walkModeChange old new s) := by
  by_cases h : new = .walking
  · obtain ⟨w, entered⟩ := walkModeChange_enters old s
    rw [h, entered]
    exact ⟨(enterWalking_ctl _).ctl⟩
  · rw [walkModeChange_eq old h]
    exact ⟨rfl⟩

theorem tightModeChange_ctl (old : Mode) (s : State) : CtlKept s (tightModeChange old s) := by
  unfold tightModeChange
  split
  · exact ⟨(feedHeld_ctl ..).ctl⟩
  · exact .refl s

/-- The mode record after a change of mode, whatever it hands (R31). -/
theorem modeSteps_ctl (new : Mode) (s : State) : (modeSteps new s).ctl = enteredCtl new s := by
  have worked : (reworked new s).ctl = enteredCtl new s := by
    unfold reworked
    rw [(tightModeChange_ctl ..).ctl, (walkModeChange_ctl ..).ctl, (rearmPoints_ctl _).ctl, entered_eq]
  rw [modeSteps_eq]
  split <;> exact worked

/-- The refusal is as it was. -/
structure RefusalKept (s t : State) : Prop where
  refusal : t.ctl.refusal = s.ctl.refusal

theorem CtlKept.refusalKept {s t : State} (h : CtlKept s t) : RefusalKept s t := ⟨by rw [h.ctl]⟩

theorem RefusalKept.trans {a b c : State} (h : RefusalKept a b) (k : RefusalKept b c) : RefusalKept a c :=
  ⟨k.refusal.trans h.refusal⟩

theorem modeSteps_refusal (new : Mode) (s : State) : RefusalKept s (modeSteps new s) := ⟨by rw [modeSteps_ctl]; rfl⟩

theorem appendRecord_ctl (r : TripRecord) (s : State) : CtlKept s (appendRecord r s) := by
  unfold appendRecord
  dsimp only
  repeat' split
  all_goals first | exact ⟨(feedHeld_ctl ..).ctl⟩ | exact ⟨rfl⟩

theorem tripSetAll_ctl (s : State) : CtlKept s (tripSetAll s) :=
  .foldl (fun s c => ⟨by rw [(tripChannel_only c s).frame]⟩) _ s

theorem takeTrip_refusal (i : TripIn) (s : State) : RefusalKept s (takeTrip i s) := by
  unfold takeTrip
  split
  · exact ⟨by rw [show (repeatTrip i s).ctl = s.ctl from (appendRecord_ctl ..).ctl]⟩
  · have set : RefusalKept s (tripSetAll (deEnergise i.action (modeSteps .tripped s))) :=
      ⟨(tripSetAll_ctl _).refusalKept.refusal.trans (modeSteps_refusal .tripped s).refusal⟩
    unfold firstTrip
    dsimp only
    refine RefusalKept.trans ?_ (appendRecord_ctl ..).refusalKept
    split
    · exact ⟨set.refusal⟩
    · exact set

theorem drainTrips_refusal (n : Nat) : ∀ s, RefusalKept s (drainTrips n s) := by
  induction n with
  | zero => exact fun s => ⟨rfl⟩
  | succ n ih =>
    intro s
    unfold drainTrips
    split
    · exact ⟨rfl⟩
    · exact ⟨((takeTrip_refusal ..).trans (ih _)).refusal⟩

theorem changeMode_refusal (new : Mode) (s : State) : RefusalKept s (changeMode new s) :=
  (modeSteps_refusal new s).trans (drainTrips_refusal 256 _)

theorem parkingTest_refusal (s : State) : RefusalKept s (parkingTest s) := by
  unfold parkingTest
  split
  · exact changeMode_refusal ..
  · exact ⟨rfl⟩

theorem parkWith_refusal (v : Hold) (c : ModeCtl) (b : Bool) (s : State) :
    (parkWith v (withCtl c b s)).ctl.refusal = c.refusal := by
  obtain ⟨b', eq⟩ := parkWith_eq v c b s
  rw [eq, (parkingTest_refusal _).refusal]
  rfl

end Sys2Proof.Machine
end

section
/-!
Lemmas for the obligation of chapter 2 on parking, and on the other requests that are taken (R34, R38 to R41, R45).
-/

namespace Sys2Proof.Machine

section
variable {v : Hold} {c : ModeCtl} {b : Bool} {s t : State}

/-- Parking that waits for the brakes (R39, R41). -/
theorem parkWith_waits (ht : t = finish (parkWith v (withCtl c b s))) (h : (parkingSetAll s).allSet = false) :
    t.ctl = waitsForBrakes v c ∧ t.brakes = (parkingSetAll s).brakes
      ∧ t = { s with ctl := t.ctl, brakes := t.brakes, ring := t.ring, owed := t.owed, statusOwed := t.statusOwed } := by
  obtain ⟨b', eq⟩ := parkWith_eq v c b s
  rw [eq, parkingTest_stays h] at ht
  have rest := finish_rest (parkSet (waitsForBrakes v c) b' s)
  rw [← ht] at rest
  have ctl : t.ctl = waitsForBrakes v c := by rw [rest]; rfl
  have brakes : t.brakes = (parkingSetAll s).brakes := by rw [rest]; rfl
  refine ⟨ctl, brakes, ?_⟩
  rw [ctl, brakes]
  generalize t.ring = r at rest ⊢
  generalize t.owed = o at rest ⊢
  generalize t.statusOwed = f at rest ⊢
  rw [rest]
  rfl

/-- Parking that finds all four channels SET (R40). -/
theorem parkWith_parks (ht : t = finish (parkWith v (withCtl c b s))) (h : (parkingSetAll s).allSet = true)
    (mode : s.mode = .dig ∨ s.mode = .walking) (same : c.mode = s.mode) (refusal : c.refusal = s.ctl.refusal)
    (none : s.heldTrips = []) (q : EpisodeUnwatched s) :
    ParkedAtOnce s t ∧ t.ctl.parkTimer = if s.mode = .dig then Option.none else c.parkTimer := by
  obtain ⟨b', eq⟩ := parkWith_eq v c b s
  rw [eq, parkingTest_parks (by rw [same]; exact mode) h] at ht
  have started : s.mode ≠ .init := fun k => by rw [k] at mode; cases mode <;> contradiction
  obtain ⟨parked, ctl⟩ := parked_at_once (b := b') rfl same refusal started none q
  rw [ht]
  refine ⟨parked.finish, ?_⟩
  rw [finish_ctl, ctl]
  show (if c.mode = .dig then Option.none else c.parkTimer) = _
  rw [same]

end

theorem modeRequest_park_dig {u : State} (m : u.mode = .dig) : modeRequest .park u = requestPark u := by
  unfold modeRequest; rw [m]

theorem modeRequest_park_walking {u : State} (m : u.mode = .walking) : modeRequest .park u = requestPark u := by
  unfold modeRequest; rw [m]

theorem modeRequest_park_prep {u : State} (m : u.mode = .walkPrep) : modeRequest .park u = changeMode .parked u := by
  unfold modeRequest; rw [m]

theorem modeRequest_current {u : State} {g : Target}
    (h : (u.mode = .parked ∧ g = .park) ∨ (u.mode = .dig ∧ g = .dig)
      ∨ ((u.mode = .walkPrep ∨ u.mode = .walking) ∧ g = .walk)) : modeRequest g u = requestCurrent u := by
  unfold modeRequest
  rcases h with ⟨m, rfl⟩ | ⟨m, rfl⟩ | ⟨m | m, rfl⟩ <;> rw [m]

/-! A PARK taken (R34, R38, R39, R41). -/

theorem requestPark_pending {u : State} (h : u.pendingTarget .park = true) : requestPark u = u := if_pos h

theorem requestPark_dig {u : State} (new : u.pendingTarget .park = false) (m : u.mode = .dig) :
    requestPark u = if u.dwellMet u.act.mode.digDwell then beginParking u else beginDwell .park u.act.mode.digDwell u := by
  unfold requestPark
  rw [if_neg (by rw [new]; decide), if_pos m]

theorem requestPark_walking {u : State} (new : u.pendingTarget .park = false) (m : u.mode = .walking) :
    requestPark u
      = if u.dwellMet u.act.mode.walkingDwell then beginHomeWait u else beginDwell .park u.act.mode.walkingDwell u := by
  unfold requestPark
  rw [if_neg (by rw [new]; decide), if_neg (by rw [m]; decide), if_pos m]

theorem beginParking_eq (u : State) : beginParking u = parkWith .digChannels (withCtl u.ctl u.statusOwed u) := rfl

/-- The mode record with a wait in the slot. -/
def slotted (v : Slot) (c : ModeCtl) : ModeCtl := { c with slot := some v }

theorem beginHomeWait_away {u : State} (h : u.walk.phase ≠ some .home) :
    ∃ b, beginHomeWait u = withCtl (slotted { target := .park, wait := .homePhase } u.ctl) b u := by
  refine ⟨(setSlot (some { target := .park, wait := .homePhase }) u).statusOwed, ?_⟩
  unfold beginHomeWait
  dsimp only
  rw [if_neg (by exact h)]
  rfl

theorem beginHomeWait_home {u : State} (h : u.walk.phase = some .home) :
    ∃ b, beginHomeWait u
      = parkWith .walkChannel (withCtl (slotted { target := .park, wait := .homePhase } u.ctl) b u) := by
  refine ⟨(setSlot (some { target := .park, wait := .homePhase }) u).statusOwed, ?_⟩
  unfold beginHomeWait
  dsimp only
  rw [if_pos (by exact h)]
  rfl

theorem withCtl_finished {u t : State} {c : ModeCtl} {b : Bool} (ht : t = finish (withCtl c b u)) :
    t.ctl = c ∧ t = { u with ctl := t.ctl, ring := t.ring, owed := t.owed, statusOwed := t.statusOwed } :=
  ⟨by rw [ht, finish_ctl]; rfl, finish_ctlOnly rfl ht⟩

theorem walking_unwatched {u : State} (m : u.mode = .walking) : EpisodeUnwatched u := fun k => by rw [m] at k; cases k

/-- The wait for HOME of a PARK in WALKING, or parking at HOME (R41). -/
theorem homeWait_begins {u t : State} (ht : t = finish (beginHomeWait u)) (m : u.mode = .walking) :
    (u.walk.phase ≠ some .home →
        t.ctl = { u.ctl with slot := some { target := .park, wait := .homePhase } }
          ∧ t = { u with ctl := t.ctl, ring := t.ring, owed := t.owed, statusOwed := t.statusOwed })
      ∧ (u.walk.phase = some .home → (parkingSetAll u).allSet = false →
          t.ctl = { u.ctl with slot := some { target := .park, wait := .brakes }, hold := .walkChannel }
            ∧ t.brakes = (parkingSetAll u).brakes
            ∧ t = { u with ctl := t.ctl, brakes := t.brakes, ring := t.ring, owed := t.owed,
                           statusOwed := t.statusOwed })
      ∧ (u.walk.phase = some .home → (parkingSetAll u).allSet = true → u.heldTrips = [] → ParkedAtOnce u t) := by
  refine ⟨fun away => ?_, fun home waits => ?_, fun home set none => ?_⟩
  · obtain ⟨b, eq⟩ := beginHomeWait_away away
    rw [eq] at ht
    exact withCtl_finished ht
  · obtain ⟨b, eq⟩ := beginHomeWait_home home
    rw [eq] at ht
    have waiting := parkWith_waits ht waits
    exact waiting
  · obtain ⟨b, eq⟩ := beginHomeWait_home home
    rw [eq] at ht
    have parked := parkWith_parks ht set (.inr m) rfl rfl none (walking_unwatched m)
    exact parked.1

/-! The other requests that are taken (R34). -/

theorem requestCurrent_eq (u : State) :
    ∃ b, requestCurrent u = withCtl { u.ctl with
      slot := none, hold := .none
      parkTimer := if u.mode = .dig ∧ u.pendingTarget .park = true then
          (parkLength u.act.mode.parkCode).map (fun n => u.now + n)
        else u.ctl.parkTimer } b u := by
  have both : (u.mode == .dig && u.pendingTarget .park) = true ↔ u.mode = .dig ∧ u.pendingTarget .park = true := by
    rw [Bool.and_eq_true, beq_iff_eq]
  unfold requestCurrent
  dsimp only
  by_cases h : u.mode = .dig ∧ u.pendingTarget .park = true
  · rw [if_pos (both.mpr h), if_pos h]
    exact ⟨_, rfl⟩
  · rw [if_neg (mt both.mp h), if_neg h]
    exact ⟨_, rfl⟩

/-- PARK in WALK_PREP (R34, R118). -/
theorem prep_parks {u t : State} (ht : t = finish (changeMode .parked u)) (m : u.mode = .walkPrep) (none : u.heldTrips = []) :
    t.mode = .parked ∧ t.ctl.slot = Option.none ∧ t.ctl.hold = .none ∧ t.ctl.refusal = u.ctl.refusal
      ∧ t.walk.tConfirm = Option.none ∧ t.walk.tTimeout = Option.none ∧ t.brakes = u.brakes ∧ t.trip = u.trip := by
  have quiet : u.mode = .dig → u.tight.start = Option.none := fun dig => by rw [m] at dig; cases dig
  have rest := modeSteps_still (new := .parked) (by decide) quiet
  have trip : movedTrip .parked u = u.trip := if_neg fun k => by rw [m] at k; cases k.1
  have walk : movedWalk u.mode .parked u = { u.walk with tConfirm := Option.none, tTimeout := Option.none } := by
    rw [m]; rfl
  rw [changeMode_steps (by decide) (fun dig => .inl (quiet dig)) none] at ht
  rw [trip, walk] at rest
  have ctl : t.ctl = enteredCtl .parked u := by rw [ht, finish_ctl, rest]
  have walked : t.walk = { u.walk with tConfirm := Option.none, tTimeout := Option.none } := by rw [ht, finish_walk, rest]
  exact ⟨congrArg ModeCtl.mode ctl, congrArg ModeCtl.slot ctl, congrArg ModeCtl.hold ctl, (congrArg ModeCtl.refusal ctl :),
    congrArg Walk.tConfirm walked, congrArg Walk.tTimeout walked, by rw [ht, finish_brakes, rest],
    by rw [ht, finish_trip, rest]⟩

theorem dwellMet_iff (u : State) (d : Nat) : u.dwellMet d = true ↔ u.ctl.entryTime + d ≤ u.now := decide_eq_true_iff

theorem requestPark_dwells {u : State} {d : Nat}
    (mode : (u.mode = .dig ∧ d = u.act.mode.digDwell) ∨ (u.mode = .walking ∧ d = u.act.mode.walkingDwell))
    (new : u.pendingTarget .park = false) (early : u.now < u.ctl.entryTime + d) : requestPark u = beginDwell .park d u := by
  have unmet : ¬u.dwellMet d = true := fun k => absurd ((dwellMet_iff u d).mp k) (by omega)
  rcases mode with ⟨m, rfl⟩ | ⟨m, rfl⟩
  · rw [requestPark_dig new m, if_neg unmet]
  · rw [requestPark_walking new m, if_neg unmet]

theorem requestPark_homes {u : State} (m : u.mode = .walking) (new : u.pendingTarget .park = false)
    (met : u.ctl.entryTime + u.act.mode.walkingDwell ≤ u.now) : requestPark u = beginHomeWait u := by
  rw [requestPark_walking new m, if_pos ((dwellMet_iff ..).mpr met)]

theorem modeRequest_park_serving {u : State} (m : u.mode = .dig ∨ u.mode = .walking) :
    modeRequest .park u = requestPark u := m.elim modeRequest_park_dig modeRequest_park_walking

/-! The park timer (R44, R45). -/

/-- The mode record with the park timer stopped. -/
def timerStopped (c : ModeCtl) : ModeCtl := { c with parkTimer := none }

theorem parkOut_requests {s : State} (m : s.mode = .dig) (h : s.expired s.ctl.parkTimer = true) :
    parkOut s = requestPark (withCtl (timerStopped s.ctl) s.statusOwed s) := by
  unfold parkOut
  rw [if_pos h]
  exact if_pos m

theorem requestPark_refusal {u : State} (m : u.mode = .dig) : (requestPark u).ctl.refusal = u.ctl.refusal := by
  cases new : u.pendingTarget .park
  · rw [requestPark_dig new m]
    split
    · rw [beginParking_eq, parkWith_refusal]
    · rfl
  · rw [requestPark_pending new]

theorem parkOut_pends {s t : State} (ht : t = finish (parkOut s)) (m : s.mode = .dig)
    (h : s.expired s.ctl.parkTimer = true) (pends : s.pendingTarget .park = true) :
    t.ctl = timerStopped s.ctl
      ∧ t = { s with ctl := t.ctl, ring := t.ring, owed := t.owed, statusOwed := t.statusOwed } := by
  rw [parkOut_requests m h, requestPark_pending (by exact pends)] at ht
  exact withCtl_finished ht

theorem parkOut_dwells {s t : State} (ht : t = finish (parkOut s)) (m : s.mode = .dig)
    (h : s.expired s.ctl.parkTimer = true) (new : s.pendingTarget .park = false)
    (early : s.dwellMet s.act.mode.digDwell = false) :
    t.ctl = { timerStopped s.ctl with
      slot := some { target := .park, wait := .dwell (s.ctl.entryTime + s.act.mode.digDwell) }, hold := .none } := by
  rw [parkOut_requests m h, requestPark_dig (by exact new) (by exact m)] at ht
  rw [ht, finish_ctl]
  exact congrArg State.ctl (if_neg (c := s.dwellMet s.act.mode.digDwell = true) (by rw [early]; decide))

theorem parkOut_parks {s : State} (m : s.mode = .dig) (h : s.expired s.ctl.parkTimer = true)
    (new : s.pendingTarget .park = false) (met : s.dwellMet s.act.mode.digDwell = true) :
    parkOut s = parkWith .digChannels (withCtl (timerStopped s.ctl) s.statusOwed s) := by
  rw [parkOut_requests m h, requestPark_dig (by exact new) (by exact m)]
  exact if_pos met

end Sys2Proof.Machine
end

section
/-!
The obligation of chapter 2 on parking.
-/

namespace Sys2Proof.Proofs

open Sys2Proof.Machine

theorem parkRequest_taken (h : Header) (g : Target) (s u : State) (hu : u = actedOn (actionFrame h 0#8 [targetByte g]) s)
    (acts : s.acts (actionFrame h 0#8 [targetByte g]) = true) :
    ∃ t, exec (.modeRequest h (targetByte g)) s = .next t
      ∧ (((u.mode = .parked ∧ g = .park) ∨ (u.mode = .dig ∧ g = .dig)
            ∨ ((u.mode = .walkPrep ∨ u.mode = .walking) ∧ g = .walk)) →
          t = { u with ctl := t.ctl, ring := t.ring, owed := t.owed, statusOwed := t.statusOwed }
            ∧ t.ctl = { u.ctl with
                slot := none, hold := .none
                parkTimer := if u.mode = .dig ∧ u.pendingTarget .park = true then
                    (parkLength u.act.mode.parkCode).map (fun n => u.now + n)
                  else u.ctl.parkTimer })
      ∧ (g = .park → u.mode = .walkPrep → u.heldTrips = [] →
          t.mode = .parked ∧ t.ctl.slot = none ∧ t.ctl.hold = .none ∧ t.ctl.refusal = u.ctl.refusal
            ∧ t.walk.tConfirm = none ∧ t.walk.tTimeout = none ∧ t.brakes = u.brakes ∧ t.trip = u.trip)
      ∧ (g = .park → (u.mode = .dig ∨ u.mode = .walking) → u.pendingTarget .park = true → OnlyRing u t)
      ∧ (g = .park → ∀ dwell, ((u.mode = .dig ∧ dwell = u.act.mode.digDwell)
            ∨ (u.mode = .walking ∧ dwell = u.act.mode.walkingDwell)) →
          u.pendingTarget .park = false → u.now < u.ctl.entryTime + dwell →
          t.ctl = { u.ctl with
              slot := some { target := .park, wait := .dwell (u.ctl.entryTime + dwell) }, hold := .none }
            ∧ t = { u with ctl := t.ctl, ring := t.ring, owed := t.owed, statusOwed := t.statusOwed })
      ∧ (g = .park → u.mode = .walking → u.pendingTarget .park = false →
          u.ctl.entryTime + u.act.mode.walkingDwell ≤ u.now →
          (u.walk.phase ≠ some .home →
            t.ctl = { u.ctl with slot := some { target := .park, wait := .homePhase } }
              ∧ t = { u with ctl := t.ctl, ring := t.ring, owed := t.owed, statusOwed := t.statusOwed })
          ∧ (u.walk.phase = some .home → (parkingSetAll u).allSet = false →
              t.ctl = { u.ctl with slot := some { target := .park, wait := .brakes }, hold := .walkChannel }
                ∧ t.brakes = (parkingSetAll u).brakes
                ∧ t = { u with ctl := t.ctl, brakes := t.brakes, ring := t.ring, owed := t.owed,
                               statusOwed := t.statusOwed })
          ∧ (u.walk.phase = some .home → (parkingSetAll u).allSet = true → u.heldTrips = [] → ParkedAtOnce u t)) := by
  refine ⟨_, exec_modeRequest hu acts, fun current => ?_, fun park m none => ?_, fun park m pends => ?_,
    fun park d mode new early => ?_, fun park m new met => ?_⟩
  · obtain ⟨b, eq⟩ := requestCurrent_eq u
    rw [modeRequest_current current, eq]
    exact (withCtl_finished rfl).symm
  · rw [park, modeRequest_park_prep m]
    exact prep_parks rfl m none
  · rw [park, modeRequest_park_serving m, requestPark_pending pends]
    exact finish_onlyRing u
  · rw [park, modeRequest_park_serving (mode.imp And.left And.left), requestPark_dwells mode new early]
    obtain ⟨ctl, rest⟩ := beginDwell_ctl .park d u
    exact ⟨by rw [finish_ctl, ctl], finish_ctlOnly rest rfl⟩
  · rw [park, modeRequest_park_walking m, requestPark_homes m new met]
    exact homeWait_begins rfl m

/-- Settles O24: parking begins, waits, or is complete at once; the other requests that are taken; the park timer. -/
theorem parkingBegins : Obligations.ParkingBegins := by
  refine ⟨?waits, ?parks, parkRequest_taken, ?timer⟩
  case waits =>
    intro h s u hu acts dig new met unset
    refine ⟨_, exec_modeRequest (g := .park) hu acts, ?_⟩
    rw [modeRequest_park_dig dig, requestPark_dig new dig, if_pos met, beginParking_eq]
    generalize ht : finish (parkWith .digChannels (withCtl u.ctl u.statusOwed u)) = t
    obtain ⟨ctl, brakes, rest⟩ := parkWith_waits ht.symm unset
    refine ⟨(congrArg ModeCtl.mode ctl).trans dig, congrArg ModeCtl.slot ctl, congrArg ModeCtl.hold ctl, fun c => ?_,
      fun c pending released => ?_, rest⟩
    · rw [brakes]
      exact (parkingSetAll_sets c u).1
    · rw [brakes]
      exact (parkingSetAll_sets c u).2 ⟨pending, released⟩
  case parks =>
    intro h s u hu acts dig new met set none q
    refine ⟨_, exec_modeRequest (g := .park) hu acts, ?_⟩
    rw [modeRequest_park_dig dig, requestPark_dig new dig, if_pos met, beginParking_eq]
    exact (parkWith_parks rfl set (.inl dig) rfl rfl none fun _ => q).1
  case timer =>
    intro s dig expired
    refine ⟨finish (parkOut s), rfl, ?_⟩
    generalize ht : finish (parkOut s) = t
    have refusal : t.ctl.refusal = s.ctl.refusal := by
      rw [← ht, finish_ctl, parkOut_requests dig expired, requestPark_refusal (by exact dig)]
      rfl
    refine ⟨refusal, fun pends => parkOut_pends ht.symm dig expired pends, fun new early => ?_, fun new met unset => ?_,
      fun new met set none q => ?_⟩
    · have ctl := parkOut_dwells ht.symm dig expired new early
      exact ⟨congrArg ModeCtl.parkTimer ctl, (congrArg ModeCtl.mode ctl).trans dig, congrArg ModeCtl.slot ctl⟩
    · rw [parkOut_parks dig expired new met] at ht
      obtain ⟨ctl, brakes, -⟩ := parkWith_waits ht.symm unset
      exact ⟨congrArg ModeCtl.parkTimer ctl, (congrArg ModeCtl.mode ctl).trans dig, congrArg ModeCtl.hold ctl,
        congrArg ModeCtl.slot ctl, brakes⟩
    · rw [parkOut_parks dig expired new met] at ht
      obtain ⟨parked, timer⟩ := parkWith_parks ht.symm set (.inl dig) rfl rfl none fun _ => q
      exact ⟨parked, timer.trans (if_pos dig)⟩

end Sys2Proof.Proofs
end

section
/-!
Rules for what the operator does to the points: an action that gives each point it touches a state and a mark, point by
point (R133, R134, R136, R137).
-/

namespace Sys2Proof.Machine

/-- What an action gives a point: a state that the point does not have, off a listed state; read from the point's record,
the tables and the mode alone. -/
structure PointChoice (choice : State → Fin 48 → Option (PState × Bool)) : Prop where
  same : ∀ {s t : State} {p : Fin 48}, Points s t → t.alarm.points[p] = s.alarm.points[p] → choice t p = choice s p
  listed : ∀ {s : State} {p : Fin 48} {st m}, choice s p = some (st, m) →
    (s.alarm.points[p]).state.listed = true ∧ st ≠ (s.alarm.points[p]).state

/-- The action on one point. -/
def chosen (choice : State → Fin 48 → Option (PState × Bool)) (p : Fin 48) (s : State) : State :=
  match choice s p with
  | some (st, m) => setPoint p st m none s
  | none => s

/-- Whether the action takes a point off the active list. -/
def unlists (choice : State → Fin 48 → Option (PState × Bool)) (s : State) (p : Fin 48) : Bool :=
  match choice s p with
  | some (st, _) => !st.listed
  | none => false

section
variable {choice : State → Fin 48 → Option (PState × Bool)} {p q : Fin 48} {s : State}

theorem chosen_points (choice : State → Fin 48 → Option (PState × Bool)) (p : Fin 48) (s : State) :
    Points s (chosen choice p s) := by
  unfold chosen
  split
  · exact setPoint_points ..
  · exact .refl s

theorem chosen_ne (h : q ≠ p) : (chosen choice p s).alarm.points[q] = s.alarm.points[q] := by
  unfold chosen
  split
  · exact (setPoint_ne h ..).1
  · rfl

theorem chosen_none (h : choice s p = none) : chosen choice p s = s := by
  unfold chosen
  rw [h]

theorem chosen_same {st : PState} {m : Bool} (h : choice s p = some (st, m)) :
    ((chosen choice p s).alarm.points[p]).state = st ∧ ((chosen choice p s).alarm.points[p]).mark = m := by
  obtain ⟨-, state, mark, -⟩ := setPoint_takes p st m none s
  unfold chosen
  rw [h]
  exact ⟨state, mark⟩

theorem filter_all {α : Type} {f : α → Bool} {l : List α} (h : ∀ a, f a = true) : l.filter f = l :=
  List.filter_eq_self.mpr fun a _ => h a

theorem chosen_list (K : PointChoice choice) :
    (chosen choice p s).alarm.list = s.alarm.list.filter fun q => !(q == p && unlists choice s p) := by
  unfold chosen unlists
  cases h : choice s p with
  | none => exact (filter_all fun q => by simp).symm
  | some c =>
    obtain ⟨st, m⟩ := c
    obtain ⟨listed, differs⟩ := K.listed h
    obtain ⟨-, -, -, -, -, -, -, stays, leaves⟩ := setPoint_takes p st m none s
    cases on : st.listed
    · refine (leaves on (.inl differs)).trans (List.filter_congr fun q _ => ?_)
      simp [on, bne]
    · refine (stays on listed).trans (filter_all fun q => ?_).symm
      simp [on]

end

/-- What an action over the points of a list leaves of each. -/
structure ChosenOver (choice : State → Fin 48 → Option (PState × Bool)) (l : List (Fin 48)) (s t : State) : Prop where
  points : Points s t
  moved : ∀ p ∈ l, ∀ st m, choice s p = some (st, m) → (t.alarm.points[p]).state = st ∧ (t.alarm.points[p]).mark = m
  kept : ∀ p : Fin 48, (p ∉ l ∨ choice s p = none) → t.alarm.points[p] = s.alarm.points[p]
  list : t.alarm.list = s.alarm.list.filter fun p => !(decide (p ∈ l) && unlists choice s p)

theorem chosenOver {choice : State → Fin 48 → Option (PState × Bool)} (K : PointChoice choice) {l : List (Fin 48)}
    (once : l.Nodup) : ∀ s, ChosenOver choice l s (l.foldl (fun s p => chosen choice p s) s) := by
  induction l with
  | nil => exact fun s => ⟨.refl s, nofun, fun _ _ => rfl, (filter_all fun q => by simp).symm⟩
  | cons p l ih =>
    intro s
    obtain ⟨fresh, once⟩ := List.nodup_cons.mp once
    have first := chosen_points choice p s
    obtain ⟨points, moved, kept, list⟩ := ih once (chosen choice p s)
    have other : ∀ q, q ≠ p → choice (chosen choice p s) q = choice s q := fun q h => K.same first (chosen_ne h)
    rw [List.foldl_cons]
    refine ⟨first.trans points, fun q hq st m h => ?_, fun q hq => ?_, ?_⟩
    · by_cases same : q = p
      · subst same
        rw [kept q (.inl fresh)]
        exact chosen_same h
      · exact moved q ((List.mem_cons.mp hq).resolve_left same) st m ((other q same).trans h)
    · by_cases same : q = p
      · subst same
        rw [kept q (.inl fresh), chosen_none (hq.resolve_left fun k => k List.mem_cons_self)]
      · rw [kept q (hq.imp (fun k m => k (List.mem_cons_of_mem p m)) (other q same).trans), chosen_ne same]
    · rw [list, chosen_list K, List.filter_filter]
      refine List.filter_congr fun q _ => ?_
      by_cases same : q = p
      · subst same
        simp [fresh]
      · have stays : unlists choice (chosen choice p s) q = unlists choice s q := by
          unfold unlists
          rw [other q same]
        rw [stays]
        simp [same]

/-- A change of the points alone, and the end of the command (R18). -/
theorem finish_onlyPoints {u w : State} (h : Points u w) : OnlyPoints u (finish w) := by
  have rest := finish_rest w
  have alarm : (finish w).alarm = w.alarm := finish_alarm w
  unfold Points at h
  unfold OnlyPoints
  rw [alarm]
  generalize finish w = t at rest ⊢
  generalize t.ring = r at rest ⊢
  generalize t.owed = o at rest ⊢
  generalize t.statusOwed = b at rest ⊢
  rw [rest]
  generalize w.alarm.points = ps at h ⊢
  generalize w.alarm.list = l at h ⊢
  generalize w.owed = wo at h
  generalize w.statusOwed = wb at h
  rw [h]

end Sys2Proof.Machine
end

section
/-!
Lemmas for the obligations of chapter 7 on the operator's actions on points (R133, R134, R136, R137).
-/

namespace Sys2Proof.Machine

theorem act_ack (n : Nat) (u : State) : act (.ack n) u = ack n u := by unfold act; rfl
theorem act_shelve (n m : Nat) (u : State) : act (.shelve n m) u = shelve n m u := by unfold act; rfl
theorem act_unshelve (n : Nat) (u : State) : act (.unshelve n) u = unshelve n u := by unfold act; rfl
theorem act_resetLatched (u : State) : act .resetLatched u = resetLatched u := by unfold act; rfl

theorem byte_toNat {n : Nat} (h : n < 256) : (byte n).toNat = n := by
  unfold byte
  rw [BitVec.toNat_ofNat]
  exact Nat.mod_eq_of_lt h

/-- A point is named by its position plus 1 (R132). -/
theorem pointNamed_self (p : Fin 48) : pointNamed (p.val + 1) = some p := by
  unfold pointNamed
  cases found : (List.finRange 48).find? fun q => q.val + 1 == p.val + 1 with
  | none => exact absurd (beq_self_eq_true _) (List.find?_eq_none.mp found p (List.mem_finRange p))
  | some q =>
    have same : q.val + 1 = p.val + 1 := by simpa using List.find?_some found
    exact congrArg some (Fin.ext (by omega))

theorem restState_unlisted (s : State) (p : Fin 48) : (s.restState p).listed = false := by
  unfold State.restState
  split <;> rfl

theorem restState_points {s t : State} (h : Points s t) (p : Fin 48) : t.restState p = s.restState p := by
  unfold Points at h
  have act : t.act = s.act := by rw [h]
  have mode : t.mode = s.mode := by rw [h]
  unfold State.restState State.armed
  rw [act, mode]

/-! ACK (R133). -/

/-- What ACK gives a point. -/
def ackChoice (s : State) (p : Fin 48) : Option (PState × Bool) :=
  match (s.alarm.points[p]).state with
  | .activeUnack => some (.activeAck, (s.alarm.points[p]).mark)
  | .returnedUnack => some (s.restState p, false)
  | _ => none

theorem ackPoint_eq (p : Fin 48) (s : State) : ackPoint p s = chosen ackChoice p s := by
  unfold ackPoint chosen ackChoice
  dsimp only
  cases (s.alarm.points[p]).state <;> rfl

theorem ackChoice_active {s : State} {p : Fin 48} (h : (s.alarm.points[p]).state = .activeUnack) :
    ackChoice s p = some (.activeAck, (s.alarm.points[p]).mark) := by
  unfold ackChoice
  rw [h]

theorem ackChoice_returned {s : State} {p : Fin 48} (h : (s.alarm.points[p]).state = .returnedUnack) :
    ackChoice s p = some (s.restState p, false) := by
  unfold ackChoice
  rw [h]

theorem ackChoice_other {s : State} {p : Fin 48} (h : (s.alarm.points[p]).state ≠ .activeUnack)
    (k : (s.alarm.points[p]).state ≠ .returnedUnack) : ackChoice s p = none := by
  unfold ackChoice
  split
  · rename_i e; exact absurd e h
  · rename_i e; exact absurd e k
  · rfl

theorem unlisted_ne {a b : PState} (h : a.listed = false) (k : b.listed = true) : a ≠ b := fun e => by
  rw [e, k] at h
  cases h

theorem ackChoice_sound : PointChoice ackChoice where
  same {s t p} h k := by
    unfold ackChoice
    rw [k, restState_points h]
  listed {s p st m} h := by
    unfold ackChoice at h
    split at h
    · rename_i e
      cases h
      rw [e]
      exact ⟨rfl, nofun⟩
    · rename_i e
      cases h
      rw [e]
      exact ⟨rfl, unlisted_ne (restState_unlisted s p) rfl⟩
    · cases h

theorem unlists_returned {s : State} {p : Fin 48} (h : (s.alarm.points[p]).state = .returnedUnack) :
    unlists ackChoice s p = true := by
  unfold unlists
  rw [ackChoice_returned h]
  dsimp only
  rw [restState_unlisted]
  rfl

/-- What ACK over a list of points leaves of a point of the list (R133). -/
theorem acked_point {l : List (Fin 48)} {u w : State} (taken : ChosenOver ackChoice l u w) {p : Fin 48} (hp : p ∈ l) :
    ((u.alarm.points[p]).state = .activeUnack →
        (w.alarm.points[p]).state = .activeAck ∧ (w.alarm.points[p]).mark = (u.alarm.points[p]).mark)
      ∧ ((u.alarm.points[p]).state = .returnedUnack →
          (w.alarm.points[p]).state = (if u.armed p then .normal else .disarmed) ∧ p ∉ w.alarm.list)
      ∧ ((u.alarm.points[p]).state ≠ .activeUnack → (u.alarm.points[p]).state ≠ .returnedUnack →
          w.alarm.points[p] = u.alarm.points[p]) := by
  refine ⟨fun h => taken.moved p hp _ _ (ackChoice_active h), fun h => ?_, fun h k => taken.kept p (.inr (ackChoice_other h k))⟩
  refine ⟨(taken.moved p hp _ _ (ackChoice_returned h)).1, ?_⟩
  rw [taken.list]
  intro listed
  have stays := (List.mem_filter.mp listed).2
  rw [decide_eq_true hp, unlists_returned h] at stays
  cases stays

theorem ack_reads (h : Header) {n : Nat} (hn : n ≤ 48) :
    parseAction (actionFrame h 1#8 [byte n]).payload = some (.ack n) := by
  have named : (byte n).toNat = n := byte_toNat (by omega)
  show (if (byte n).toNat ≤ 48 then some (Action.ack (byte n).toNat) else none) = _
  rw [named, if_pos hn]

theorem exec_ack {h : Header} {n : Nat} (hn : n ≤ 48) {s u : State} (hu : u = actedOn (actionFrame h 1#8 [byte n]) s)
    (acts : s.acts (actionFrame h 1#8 [byte n]) = true) : exec (.ack h (byte n)) s = .next (finish (ack n u)) := by
  rw [exec_action (i := .ack h (byte n)) rfl rfl (ack_reads h hn) acts, act_ack, hu]

theorem ack_single (p : Fin 48) (u : State) : ack (p.val + 1) u = chosen ackChoice p u := by
  unfold ack
  rw [if_neg (by omega), pointNamed_self]
  exact ackPoint_eq p u

theorem ack_every (u : State) : ack 0 u = (List.finRange 48).foldl (fun s p => chosen ackChoice p s) u := by
  unfold ack
  rw [if_pos rfl]
  simp only [ackPoint_eq]

/-! RESET_LATCHED (R134). -/

/-- What RESET_LATCHED gives a point. -/
def resetChoice (s : State) (p : Fin 48) : Option (PState × Bool) :=
  if (s.act.points[p]).latching ∧ (s.alarm.points[p]).mark then
    match (s.alarm.points[p]).state with
    | .activeAck => some (s.restState p, false)
    | .activeUnack => some (.returnedUnack, false)
    | _ => none
  else none

theorem resetPointLatch_eq (p : Fin 48) (s : State) : resetPointLatch p s = chosen resetChoice p s := by
  unfold resetPointLatch chosen resetChoice
  dsimp only
  split
  · cases (s.alarm.points[p]).state <;> rfl
  · rfl

theorem resetChoice_sound : PointChoice resetChoice where
  same {s t p} h k := by
    have act : t.act = s.act := by unfold Points at h; rw [h]
    unfold resetChoice
    rw [k, act, restState_points h]
  listed {s p st m} h := by
    unfold resetChoice at h
    split at h
    · split at h
      · rename_i e
        cases h
        rw [e]
        exact ⟨rfl, unlisted_ne (restState_unlisted s p) rfl⟩
      · rename_i e
        cases h
        rw [e]
        exact ⟨rfl, nofun⟩
      · cases h
    · cases h

section
variable {s : State} {p : Fin 48} (latching : (s.act.points[p]).latching = true) (mark : (s.alarm.points[p]).mark = true)
include latching mark

theorem resetChoice_acked (h : (s.alarm.points[p]).state = .activeAck) : resetChoice s p = some (s.restState p, false) := by
  unfold resetChoice
  rw [if_pos ⟨latching, mark⟩, h]

theorem resetChoice_active (h : (s.alarm.points[p]).state = .activeUnack) :
    resetChoice s p = some (.returnedUnack, false) := by
  unfold resetChoice
  rw [if_pos ⟨latching, mark⟩, h]

end

theorem resetChoice_other {s : State} {p : Fin 48}
    (h : (s.act.points[p]).latching = false ∨ (s.alarm.points[p]).mark = false) : resetChoice s p = none := by
  unfold resetChoice
  refine if_neg fun k => ?_
  rcases h with h | h
  · rw [h] at k; cases k.1
  · rw [h] at k; cases k.2

theorem unlists_reset (s : State) (p : Fin 48) : unlists resetChoice s p
    = ((s.act.points[p]).latching && (s.alarm.points[p]).mark && (s.alarm.points[p]).state == .activeAck) := by
  cases latching : (s.act.points[p]).latching
  · unfold unlists
    rw [resetChoice_other (.inl latching)]
    rfl
  · cases mark : (s.alarm.points[p]).mark
    · unfold unlists
      rw [resetChoice_other (.inr mark)]
      rfl
    · unfold unlists resetChoice
      rw [if_pos ⟨latching, mark⟩]
      cases (s.alarm.points[p]).state
      case activeAck => simp [restState_unlisted]
      all_goals rfl

theorem resetLatched_reads (h : Header) : parseAction (actionFrame h 4#8 []).payload = some .resetLatched := rfl

theorem resetLatched_eq (u : State) :
    resetLatched u = (List.finRange 48).foldl (fun s p => chosen resetChoice p s) u := by
  unfold resetLatched
  simp only [resetPointLatch_eq]

theorem reset_point {u w : State} (taken : ChosenOver resetChoice (List.finRange 48) u w) (p : Fin 48) :
    ((u.act.points[p]).latching = true → (u.alarm.points[p]).mark = true →
        ((u.alarm.points[p]).state = .activeAck →
          (w.alarm.points[p]).state = (if u.armed p then .normal else .disarmed) ∧ (w.alarm.points[p]).mark = false)
        ∧ ((u.alarm.points[p]).state = .activeUnack →
            (w.alarm.points[p]).state = .returnedUnack ∧ (w.alarm.points[p]).mark = false))
      ∧ (((u.act.points[p]).latching = false ∨ (u.alarm.points[p]).mark = false) →
          w.alarm.points[p] = u.alarm.points[p]) :=
  ⟨fun latching mark => ⟨fun h => taken.moved p (List.mem_finRange p) _ _ (resetChoice_acked latching mark h),
      fun h => taken.moved p (List.mem_finRange p) _ _ (resetChoice_active latching mark h)⟩,
    fun h => taken.kept p (.inr (resetChoice_other h))⟩

/-! SHELVE and UNSHELVE (R136, R137). -/

theorem half_bytes_reads (m : Half) : halfOf (m.extractLsb' 8 8) (m.extractLsb' 0 8) = m := halfOf_bytes m

theorem shelve_reads (h : Header) (p : Fin 48) {m : Half} (low : 1 ≤ m.toNat) (high : m.toNat ≤ 480) :
    parseAction (actionFrame h 2#8 (byte (p.val + 1) :: Half.bytes m)).payload = some (.shelve (p.val + 1) m.toNat) := by
  have range := p.isLt
  have named : (byte (p.val + 1)).toNat = p.val + 1 := byte_toNat (by omega)
  show (if 1 ≤ (byte (p.val + 1)).toNat ∧ (byte (p.val + 1)).toNat ≤ 48
      ∧ 1 ≤ (halfOf (m.extractLsb' 8 8) (m.extractLsb' 0 8)).toNat ∧ (halfOf (m.extractLsb' 8 8) (m.extractLsb' 0 8)).toNat ≤ 480 then
    some (Action.shelve (byte (p.val + 1)).toNat (halfOf (m.extractLsb' 8 8) (m.extractLsb' 0 8)).toNat) else none) = _
  rw [named, halfOf_bytes, if_pos ⟨by omega, by omega, low, high⟩]

theorem unshelve_reads (h : Header) (p : Fin 48) :
    parseAction (actionFrame h 3#8 [byte (p.val + 1)]).payload = some (.unshelve (p.val + 1)) := by
  have range := p.isLt
  have named : (byte (p.val + 1)).toNat = p.val + 1 := byte_toNat (by omega)
  show (if 1 ≤ (byte (p.val + 1)).toNat ∧ (byte (p.val + 1)).toNat ≤ 48 then
    some (Action.unshelve (byte (p.val + 1)).toNat) else none) = _
  rw [named, if_pos ⟨by omega, by omega⟩]

theorem shelve_eq (p : Fin 48) (m : Nat) (u : State) : shelve (p.val + 1) m u =
    if !(u.act.points[p]).enabled then u
    else if (u.act.points[p]).cls = .trip then refuse .shelveTripClass u
    else shelvePoint p (u.now + m * 60000) u := by
  unfold shelve
  rw [pointNamed_self]
  rfl

/-- What shelving leaves of the point and of the others (R136). -/
theorem shelvePoint_shelves (p : Fin 48) (endsAt : Nat) (u : State) :
    Points u (shelvePoint p endsAt u) ∧ ((shelvePoint p endsAt u).alarm.points[p]).state = .shelved
      ∧ ((shelvePoint p endsAt u).alarm.points[p]).tShelf = some endsAt
      ∧ ((u.alarm.points[p]).state ≠ .shelved →
          ((shelvePoint p endsAt u).alarm.points[p]).mark = false
            ∧ ((shelvePoint p endsAt u).alarm.points[p]).tDelay = none ∧ p ∉ (shelvePoint p endsAt u).alarm.list)
      ∧ ∀ q : Fin 48, q ≠ p → (shelvePoint p endsAt u).alarm.points[q] = u.alarm.points[q] := by
  unfold shelvePoint
  dsimp only
  by_cases on : (u.alarm.points[p]).state = .shelved
  · rw [if_pos on]
    have own : ∀ r : PointRun, (u.alarm.points.set p r)[p] = r := fun r => Vector.getElem_set_self ..
    refine ⟨rfl, ?_, ?_, fun k => absurd on k, fun q hq => ?_⟩
    · rw [own]; exact on
    · rw [own]
    · exact Vector.getElem_set_ne p.isLt q.isLt fun e => hq (Fin.ext e.symm)
  · rw [if_neg on]
    obtain ⟨-, state, mark, others, -, -, -, -, leaves⟩ := setPoint_takes p .shelved false (some endsAt) u
    have moves : ¬(PState.shelved = (u.alarm.points[p]).state ∧ false = (u.alarm.points[p]).mark) := fun k => on k.1.symm
    have timers : ((setPoint p .shelved false (some endsAt) u).alarm.points[p]).tShelf = some endsAt
        ∧ ((setPoint p .shelved false (some endsAt) u).alarm.points[p]).tDelay = none := by
      unfold setPoint
      dsimp only
      rw [if_neg moves]
      simp
    have gone : p ∉ (setPoint p .shelved false (some endsAt) u).alarm.list := by
      rw [leaves rfl (.inl fun e => on e.symm)]
      simp
    exact ⟨setPoint_points .., state, timers.1, fun _ => ⟨mark, timers.2, gone⟩, others⟩

theorem unshelvePoint_off {p : Fin 48} {u : State} (h : (u.alarm.points[p]).state ≠ .shelved) : unshelvePoint p u = u :=
  if_neg h

/-- What leaving the shelf gives a point (R137). -/
theorem unshelvePoint_shelved {p : Fin 48} {u : State} (h : (u.alarm.points[p]).state = .shelved) :
    ((unshelvePoint p u).alarm.points[p]).state = (if u.armed p then .normal else .disarmed)
      ∧ ((unshelvePoint p u).alarm.points[p]).tShelf = none := by
  have differs : u.restState p ≠ .shelved := restState_ne_shelved u p
  have moves : ¬(u.restState p = (u.alarm.points[p]).state ∧ false = (u.alarm.points[p]).mark) := fun k => by
    rw [h] at k
    exact differs k.1
  unfold unshelvePoint
  rw [if_pos h]
  refine ⟨(setPoint_takes ..).2.1, ?_⟩
  unfold setPoint
  dsimp only
  rw [if_neg moves]
  simp [differs]

theorem unshelvePoint_points (p : Fin 48) (u : State) : Points u (unshelvePoint p u) := by
  unfold unshelvePoint
  split
  · exact setPoint_points ..
  · exact .refl u

theorem unshelvePoint_ne {p q : Fin 48} (h : q ≠ p) (u : State) :
    (unshelvePoint p u).alarm.points[q] = u.alarm.points[q] := by
  unfold unshelvePoint
  split
  · exact (setPoint_ne h ..).1
  · rfl

theorem unshelve_eq (p : Fin 48) (u : State) : unshelve (p.val + 1) u = unshelvePoint p u := by
  unfold unshelve
  rw [pointNamed_self]

end Sys2Proof.Machine
end

section
/-!
The obligations of chapter 7 on the operator's actions on points.
-/

namespace Sys2Proof.Proofs

open Sys2Proof.Machine

/-- Settles O25: ACK of one point and of every point, and RESET_LATCHED. -/
theorem ackAndResetPoints : Obligations.AckAndResetPoints := by
  refine ⟨⟨?one, ?every⟩, ?reset⟩
  case one =>
    intro h p s u hu acts
    have range := p.isLt
    refine ⟨_, exec_ack (by omega) hu acts, ?_⟩
    rw [ack_single]
    have taken := chosenOver ackChoice_sound (List.nodup_singleton p) u
    obtain ⟨acked, returned, -⟩ := acked_point taken (List.mem_singleton_self p)
    refine ⟨finish_onlyPoints taken.points, fun q hq => ?_, ?_, ?_, fun a r => ?_⟩
    · rw [finish_alarm]
      exact taken.kept q (.inl (by simpa using hq))
    · rw [finish_alarm]
      exact acked
    · rw [finish_alarm]
      exact returned
    · rw [finish_alarm, chosen_none (ackChoice_other a r)]
  case every =>
    intro h s u hu acts
    refine ⟨_, exec_ack (n := 0) (by decide) hu acts, ?_⟩
    rw [ack_every]
    have taken := chosenOver ackChoice_sound (List.nodup_finRange 48) u
    refine ⟨finish_onlyPoints taken.points, fun p => ?_⟩
    rw [finish_alarm]
    exact acked_point taken (List.mem_finRange p)
  case reset =>
    intro h s u hu acts
    refine ⟨finish (resetLatched u), ?_, ?_⟩
    · rw [exec_action (i := .resetLatched h) rfl rfl (resetLatched_reads h) acts, act_resetLatched, hu]
    · rw [resetLatched_eq]
      have taken := chosenOver resetChoice_sound (List.nodup_finRange 48) u
      refine ⟨finish_onlyPoints taken.points, ?_, fun p => ?_⟩
      · rw [finish_alarm, taken.list]
        refine List.filter_congr fun p _ => ?_
        rw [unlists_reset, decide_eq_true (List.mem_finRange p), Bool.true_and]
      · rw [finish_alarm]
        exact reset_point taken p

/-- Settles O26: SHELVE, UNSHELVE and the expiry of a shelf timer. -/
theorem shelveAndUnshelve : Obligations.ShelveAndUnshelve := by
  refine ⟨?shelve, ?unshelve, ?expiry⟩
  case shelve =>
    intro h p m s u low high hu acts
    refine ⟨finish (shelve (p.val + 1) m.toNat u), ?_, ?_⟩
    · rw [exec_action (i := .shelve h (byte (p.val + 1)) m) rfl rfl (shelve_reads h p low high) acts, act_shelve, hu]
    · rw [shelve_eq]
      refine ⟨fun off => ?_, fun on trip => ?_, fun on other => ?_⟩
      · rw [off]
        exact finish_onlyRing u
      · rw [on, if_neg (by decide), if_pos trip]
        obtain ⟨ctl, rest⟩ := refuse_ctl .shelveTripClass u
        exact ⟨by rw [finish_ctl, ctl], finish_ctlOnly rest rfl⟩
      · rw [on, if_neg (by decide), if_neg other]
        obtain ⟨points, state, timer, fresh, others⟩ := shelvePoint_shelves p (u.now + m.toNat * 60000) u
        refine ⟨finish_onlyPoints points, ?_⟩
        rw [finish_alarm]
        exact ⟨state, timer, fresh, others⟩
  case unshelve =>
    intro h p s u hu acts
    refine ⟨finish (unshelve (p.val + 1) u), ?_, ?_⟩
    · rw [exec_action (i := .unshelve h (byte (p.val + 1))) rfl rfl (unshelve_reads h p) acts, act_unshelve, hu]
    · rw [unshelve_eq]
      refine ⟨finish_onlyPoints (unshelvePoint_points p u), fun on => ?_, fun off => ?_, fun q hq => ?_⟩
      · rw [finish_alarm]
        exact unshelvePoint_shelved on
      · rw [unshelvePoint_off off]
        exact finish_onlyRing u
      · rw [finish_alarm]
        exact unshelvePoint_ne hq u
  case expiry =>
    intro p s
    refine ⟨finish (shelfOut p s), rfl, ?_⟩
    unfold shelfOut
    cases run : s.expired (s.alarm.points[p]).tShelf
    · exact ⟨finish_onlyPoints (.refl s), nofun, fun _ => finish_onlyRing s⟩
    · refine ⟨finish_onlyPoints (unshelvePoint_points p s), fun on _ => ?_, fun h => ?_⟩
      · rw [if_pos rfl, finish_alarm]
        exact (unshelvePoint_shelved on).1
      · rw [if_pos rfl, unshelvePoint_off (h.resolve_right nofun)]
        exact finish_onlyRing s

end Sys2Proof.Proofs
end

section
/-!
Lemmas for the obligation of chapter 9 on RESET_TRIP (R154, R160, R168, R169).
-/

namespace Sys2Proof.Machine

theorem act_resetTrip (u : State) : act .resetTrip u = resetTrip u := by unfold act; rfl

theorem exec_resetTrip {h : Header} {s u : State} (hu : u = actedOn (actionFrame h 5#8 []) s)
    (acts : s.acts (actionFrame h 5#8 []) = true) : exec (.resetTrip h) s = .next (finish (resetTrip u)) := by
  rw [exec_action (i := .resetTrip h) (a := .resetTrip) rfl rfl rfl acts, act_resetTrip, hu]

theorem resetCheck_none {u : State} (trips : u.tripPointActive = false) (direct : u.directHold = false)
    (set : u.allSet = true) (records : u.tripHold = false ∨ u.trip.queue = []) : u.resetCheck = none := by
  have held : ¬(u.tripHold && !u.trip.queue.isEmpty) = true := by
    rcases records with k | k <;> rw [k] <;> simp
  unfold State.resetCheck
  rw [if_neg (by rw [trips]; decide), if_neg (by rw [direct]; decide), if_neg (by rw [set]; decide), if_neg held]

theorem resetCheck_first {u : State} {r : Refused}
    (h : (u.tripPointActive = true ∧ r = .tripActive)
      ∨ (u.tripPointActive = false ∧ u.directHold = true ∧ r = .directLimit)
      ∨ (u.tripPointActive = false ∧ u.directHold = false ∧ u.allSet = false ∧ r = .brakesNotSet)
      ∨ (u.tripPointActive = false ∧ u.directHold = false ∧ u.allSet = true ∧ u.tripHold = true
          ∧ u.trip.queue ≠ [] ∧ r = .holdRecords)) : u.resetCheck = some r := by
  unfold State.resetCheck
  rcases h with ⟨a, rfl⟩ | ⟨a, b, rfl⟩ | ⟨a, b, c, rfl⟩ | ⟨a, b, c, d, e, rfl⟩
  · rw [if_pos a]
  · rw [if_neg (by rw [a]; decide), if_pos b]
  · rw [if_neg (by rw [a]; decide), if_neg (by rw [b]; decide), if_pos (by rw [c]; rfl)]
  · have held : (u.tripHold && !u.trip.queue.isEmpty) = true := by
      rw [d]
      simpa using e
    rw [if_neg (by rw [a]; decide), if_neg (by rw [b]; decide), if_neg (by rw [c]; decide), if_pos held]

theorem resetTrip_refuses {u : State} {r : Refused} (m : u.mode = .tripped) (h : u.resetCheck = some r) :
    resetTrip u = refuse r u := by
  unfold resetTrip
  rw [if_pos m, h]

theorem resetTrip_elsewhere {u : State} (m : u.mode ≠ .tripped) : resetTrip u = refuse .illegalTransition u := if_neg m

/-- A reset that is taken: PARKED, with both lines energised (R168). -/
theorem resetTrip_resets {u t : State} (ht : t = finish (resetTrip u)) (m : u.mode = .tripped) (none : u.heldTrips = [])
    (h : u.resetCheck = Option.none) :
    t.mode = .parked ∧ t.trip = { u.trip with field := .energised, brake := .energised }
      ∧ t.brakes = u.brakes ∧ t.tester = u.tester ∧ t.attrs = u.attrs ∧ Rearmed u t := by
  have quiet : u.mode = .dig → u.tight.start = Option.none := fun dig => by rw [m] at dig; cases dig
  have armed := modeSteps_armed (new := .parked) (by decide) fun dig => .inl (quiet dig)
  have rest := modeSteps_still (new := .parked) (by decide) quiet
  have trip : movedTrip .parked u = u.trip := if_neg fun k => by rw [m] at k; cases k.1
  have reset : resetTrip u = energise (modeSteps .parked u) := by
    unfold resetTrip
    rw [if_pos m, h]
    refine drain_none ?_
    rw [show (energise (modeSteps .parked u)).heldTrips = (modeSteps .parked u).heldTrips from rfl, rest]
    exact none
  rw [trip] at rest
  rw [reset] at ht
  have lines : (energise (modeSteps .parked u)).trip = { u.trip with field := .energised, brake := .energised } := by
    rw [show (energise (modeSteps .parked u)).trip
      = { (modeSteps .parked u).trip with field := .energised, brake := .energised } from rfl, rest]
  rw [ht, finish_mode, finish_trip, finish_brakes, finish_tester, finish_attrs]
  refine ⟨modeSteps_new .parked u, lines, ?_, ?_, ?_, finish_rearmed (rearmed_congr armed rfl rfl rfl)⟩
  · rw [show (energise (modeSteps .parked u)).brakes = (modeSteps .parked u).brakes from rfl, rest]
  · rw [show (energise (modeSteps .parked u)).tester = (modeSteps .parked u).tester from rfl, rest]
  · rw [show (energise (modeSteps .parked u)).attrs = (modeSteps .parked u).attrs from rfl, rest]

end Sys2Proof.Machine
end

section
/-!
The obligation of chapter 9 on RESET_TRIP.
-/

namespace Sys2Proof.Proofs

open Sys2Proof.Machine

/-- Settles O27: what stands against a reset, the reset that is taken, and those refused. -/
theorem resetTrip : Obligations.ResetTrip := by
  refine ⟨fun u => ⟨tripPointActive_iff u, directHold_iff u, allSet_iff u, tripHold_iff u⟩, ?_⟩
  intro h s u hu acts
  refine ⟨_, exec_resetTrip hu acts, fun m none trips direct set records => ?_, fun m r first => ?_, fun away => ?_⟩
  · exact resetTrip_resets rfl m none (resetCheck_none trips direct set records)
  · rw [resetTrip_refuses m (resetCheck_first first)]
    obtain ⟨ctl, rest⟩ := refuse_ctl r u
    exact ⟨by rw [finish_ctl, ctl], finish_ctlOnly rest rfl⟩
  · rw [resetTrip_elsewhere away]
    obtain ⟨ctl, rest⟩ := refuse_ctl .illegalTransition u
    exact ⟨by rw [finish_ctl, ctl], finish_ctlOnly rest rfl⟩

end Sys2Proof.Proofs
end

section
/-!
O28 fails: the walk turn of the tester may name an axis that is no walk axis, and the first test Reference of a WALK
segment goes to that axis.
-/

namespace Sys2Proof.Machine

/-- Whether a payload waits in the insert queue or is being sent. -/
def State.carries (s : State) (payload : List Byte) : Bool :=
  (s.ring.ins.any fun e => e.payload == payload)
    || match s.ring.sending with
      | some (.inserted _ f) => f.payload == payload
      | _ => false

theorem TestRefOut.carries {x : Axis} {v : Int} {q : Nat} {t : State} (h : TestRefOut x v q t) :
    t.carries (testPayload x v q) = true := by
  obtain ⟨_, _, ⟨e, mem, _, _, _, _, p⟩ | ⟨f, sent, _, _, _, p⟩⟩ := h
  · refine (Bool.or_eq_true ..).mpr (.inl (List.any_eq_true.mpr ⟨e, mem, ?_⟩))
    rw [p]
    exact beq_self_eq_true _
  · refine (Bool.or_eq_true ..).mpr (.inr ?_)
    rw [sent]
    dsimp only
    rw [p]
    exact beq_self_eq_true _

/-- A console and the drives of the walk axes, and WALK the only segment of the test. -/
def walkTest : TableSet :=
  { emptyTables with
    stations := ((emptyTables.stations.set 0 { number := 1, role := .console, axis := none, timeout := 500 }).set 1
      { number := 13, role := .drive, axis := some .walkLeft, timeout := 500 }).set 2
      { number := 14, role := .drive, axis := some .walkRight, timeout := 500 }
    test := { emptyTables.test with segments := [.walk], torque := 50 } }

/-- The machine PARKED with these tables, every station FRESH, and HOIST for the walk turn. -/
def strayTurn : State :=
  { State.reset with
    ctl := { State.reset.ctl with mode := .parked }
    stations := walkTest.stations.map fun c => if c.number = 0 then none else some
      { fresh := .fresh, expiries := 0, timer := some 1400, lastSeq := some 8#8, gaps := 0, lastArrival := some 0 }
    tables := { active := walkTest, staging := walkTest, valid := true, committed := true }
    tester := { State.reset.tester with walkTurn := .hoist } }

/-- A TEST_START from the console. -/
def strayStart : Header := { dst := 7#8, src := 1#8, life := 3#4, seq := 9#8 }

/-- The machine after a TEST_START in it. -/
def strayStarted : State := finish (testStart (actedOn (actionFrame strayStart 6#8 []) strayTurn))

theorem strayTurn_starts :
    (let u := actedOn (actionFrame strayStart 6#8 []) strayTurn
     strayTurn.acts (actionFrame strayStart 6#8 []) && u.mode == .parked && u.heldTrips.isEmpty && u.act.test.segments[0]? == some .walk
      && u.chanFresh .walk && !u.testQueued && u.tester.secondFinal == none) = true := by decide +kernel

theorem strayStarted_carries_none :
    (!strayStarted.carries (testPayload .walkLeft 50 (actedOn (actionFrame strayStart 6#8 []) strayTurn).act.test.torque)
      && !strayStarted.carries
        (testPayload .walkRight 50 (actedOn (actionFrame strayStart 6#8 []) strayTurn).act.test.torque)) = true := by
  decide +kernel

/-- No test Reference goes to a drive of the WALK channel. -/
theorem strayStarted_sends_none {x : Axis} (walk : chanOf x = .walk) {v : Int} (creep : v = if isCam x then 50 else -50) :
    ¬TestRefOut x v (actedOn (actionFrame strayStart 6#8 []) strayTurn).act.test.torque strayStarted := by
  intro out
  have silent := strayStarted_carries_none
  rw [Bool.and_eq_true, Bool.not_eq_true', Bool.not_eq_true'] at silent
  have sent := out.carries
  rw [creep] at sent
  cases x
  case walkLeft => exact Bool.false_ne_true (silent.1.symm.trans sent)
  case walkRight => exact Bool.false_ne_true (silent.2.symm.trans sent)
  all_goals cases walk

theorem exec_strayStart (acts : strayTurn.acts (actionFrame strayStart 6#8 []) = true) :
    exec (.testStart strayStart) strayTurn = .next strayStarted :=
  exec_action (a := .testStart) rfl rfl rfl acts

end Sys2Proof.Machine
end

section
/-! The refutation of O28. -/

namespace Sys2Proof.Proofs

open Sys2Proof.Machine

/-- Refutes O28: with HOIST for the walk turn, the test Reference of a first segment WALK goes to the hoist drive. -/
theorem not_brakeTestStarts : ¬ Obligations.BrakeTestStarts := by
  unfold Obligations.BrakeTestStarts
  intro ⟨starts, _⟩
  have premises := strayTurn_starts
  simp only [Bool.and_eq_true, beq_iff_eq, Bool.not_eq_true', List.isEmpty_iff] at premises
  obtain ⟨⟨⟨⟨⟨⟨acts, parked⟩, held⟩, first⟩, fresh⟩, queued⟩, final⟩ := premises
  obtain ⟨t, run, started, _⟩ := starts strayStart strayTurn _ .walk rfl acts
  obtain ⟨_, _, _, _, _, _, _, _, _, _, _, _, ⟨x, walk, out⟩, _⟩ := started parked held first fresh queued final
  rw [exec_strayStart acts] at run
  rw [← Host.Outcome.next.inj run] at out
  exact strayStarted_sends_none walk rfl out

end Sys2Proof.Proofs
end

section
/-!
Lemmas for the obligations on requests and on the abort of a brake test: a request carried out, and what keeps the insert
queue free of test References (R17, R191).
-/

namespace Sys2Proof.Machine

/-- A request that is carried out is answered from the state it is admitted in (R8 to R11, R191). -/
theorem exec_request {i : Instr} {f : Frame} {r : Request} {s u : State} (row : rowFrame i = some f) (kind : f.kind = 5#4)
    (reads : requestOf f = some r) (hu : u = admitted f s) (taken : s.requests f = true) :
    exec i s = .next (finish (carryOut (s.asker f) r u)) := by
  rw [exec_row row, takeFrame_requests kind taken, reads, hu]

/-- What an answered request leaves besides its effect: the ring and the notices owed. -/
theorem answered_onlyRing {rq : Requester} {st : Status} {results : List Byte} {b : Bool} {w t : State}
    (ht : t = finish (answer rq st results b w)) : Answered rq st results t ∧ OnlyRing w t := by
  rw [ht]
  exact ⟨finish_answer rq st results b w, finish_answer_onlyRing rq st results b w⟩

/-! No test Reference queued (R17). -/

theorem testQueued_iff (s : State) : s.testQueued = true ↔ ∃ e ∈ s.ring.ins, e.cls = .testRef := by
  unfold State.testQueued
  rw [List.any_eq_true]
  exact exists_congr fun e => and_congr_right fun _ => beq_iff_eq

theorem testQueued_false {s : State} : s.testQueued = false ↔ ∀ e ∈ s.ring.ins, e.cls ≠ .testRef := by
  rw [← Bool.not_eq_true, testQueued_iff]
  push Not
  rfl

theorem choose_ins (s : State) {e : InsEntry} (h : e ∈ (choose s).ring.ins) : e ∈ s.ring.ins := by
  unfold choose at h
  dsimp only at h
  split at h
  · rename_i x xs queue
    split at h
    · exact queue ▸ List.mem_cons_of_mem x h
    · exact h
  all_goals exact h

theorem chooseIfIdle_ins (s : State) {e : InsEntry} (h : e ∈ (chooseIfIdle s).ring.ins) : e ∈ s.ring.ins := by
  unfold chooseIfIdle at h
  split at h
  · exact choose_ins s h
  · exact h

theorem joinInsert_ins {e x : InsEntry} {s : State} (h : x ∈ (joinInsert e s).ring.ins) : x = e ∨ x ∈ s.ring.ins :=
  List.mem_cons.mp ((insertEntry_perm e _).mem_iff.mp (chooseIfIdle_ins _ h))

/-- Another entry than a test Reference joins the queue. -/
theorem joinInsert_testQueued {e : InsEntry} {s : State} (other : e.cls ≠ .testRef) (h : s.testQueued = false) :
    (joinInsert e s).testQueued = false := by
  rw [testQueued_false] at h ⊢
  intro x mem
  rcases joinInsert_ins mem with rfl | mem
  · exact other
  · exact h x mem

theorem buildOne_testQueued {s : State} (h : s.testQueued = false) : (buildOne s).testQueued = false := by
  unfold buildOne
  split
  · split
    · exact joinInsert_testQueued InsClass.noConfusion h
    · split
      · exact joinInsert_testQueued InsClass.noConfusion h
      · exact h
  · exact h

theorem buildNotices_testQueued (n : Nat) : ∀ {s}, s.testQueued = false → (buildNotices n s).testQueued = false := by
  induction n with
  | zero => exact id
  | succ n ih => exact fun h => ih (buildOne_testQueued h)

theorem finish_testQueued {s : State} (h : s.testQueued = false) : (finish s).testQueued = false :=
  buildNotices_testQueued 16 h

theorem answer_testQueued (rq : Requester) (st : Status) (results : List Byte) (b : Bool) {s : State}
    (h : s.testQueued = false) : (answer rq st results b s).testQueued = false :=
  joinInsert_testQueued InsClass.noConfusion h

theorem withdrawTest_testQueued (s : State) : (withdrawTest s).testQueued = false := by
  rw [testQueued_false]
  intro e mem test
  have kept : (!e.isTest) = true := (List.mem_filter.mp mem).2
  unfold InsEntry.isTest at kept
  rw [test] at kept
  cases kept

/-! The abort (R189). -/

theorem abortTest_aborts {u : State} (m : u.mode = .testing) (k : u.heldTrips = []) : testAborted u (abortTest u) := by
  obtain ⟨⟨rs, results, ended⟩, rest⟩ :=
    endTest_ended .abortedOperator Option.none (s := withdrawTest u) (by exact m) (by exact k) (by exact rfl)
  have queue : (abortTest u).ring = (withdrawTest u).ring := (congrArg State.ring rest :)
  refine ⟨⟨rs, results, ended⟩, ?_, (congrArg State.attrs rest :), (congrArg State.trip rest :),
    (congrArg State.brakes rest :)⟩
  unfold State.testQueued
  rw [queue]
  exact withdrawTest_testQueued u

/-- What leaves the rest of the machine alone and queues no test Reference keeps the abort. -/
theorem testAborted.onlyRing {u w t : State} (h : testAborted u w) (rest : OnlyRing w t) (none : t.testQueued = false) :
    testAborted u t := by
  obtain ⟨⟨rs, results, mode, stopped⟩, _, attrs, trip, brakes⟩ := h
  have tester : t.tester = w.tester := (congrArg State.tester rest :)
  refine ⟨⟨rs, results, (congrArg State.mode rest :).trans mode, ?_⟩, none, (congrArg State.attrs rest :).trans attrs,
    (congrArg State.trip rest :).trans trip, (congrArg State.brakes rest :).trans brakes⟩
  unfold TestStopped
  rw [tester]
  exact stopped

theorem testAborted.finish {u w : State} (h : testAborted u w) : testAborted u (finish w) :=
  have none := finish_testQueued h.2.1
  testAborted.onlyRing h (finish_rest w) none

theorem exec_testAbort {h : Header} {s u : State} (hu : u = actedOn (actionFrame h 7#8 []) s)
    (acts : s.acts (actionFrame h 7#8 []) = true) : exec (.testAbort h) s = .next (finish (testAbort u)) := by
  rw [exec_action (a := .testAbort) rfl rfl rfl acts, hu]
  unfold act
  rfl

theorem exec_abortBrakeTest {h : Header} {tag : Half} {s u : State} (hu : u = admitted (requestFrame h 15#8 tag []) s)
    (taken : s.requests (requestFrame h 15#8 tag []) = true) :
    exec (.abortBrakeTest h tag) s
      = .next (finish (abortBrakeTest (s.asker (requestFrame h 15#8 tag [])) u)) := by
  rw [exec_request (r := .abortBrakeTest) rfl rfl rfl hu taken]
  unfold carryOut
  rfl

end Sys2Proof.Machine
end

section
/-! The abort of a brake test. -/

namespace Sys2Proof.Proofs

open Sys2Proof.Machine

/-- Settles O29: an abort ends a running test and has no effect with none running. -/
theorem brakeTestAborts : Obligations.BrakeTestAborts := by
  unfold Obligations.BrakeTestAborts
  refine ⟨fun h s u hu acts => ⟨_, exec_testAbort hu acts, fun runs m k => ?_, fun idle => ?_⟩,
    fun h tag s u hu taken => ⟨_, exec_abortBrakeTest hu taken, fun runs m k => ?_, fun idle => ?_⟩⟩
  · unfold testAbort
    rw [if_pos runs]
    exact testAborted.finish (abortTest_aborts m k)
  · unfold testAbort
    rw [idle, if_neg Bool.false_ne_true]
    exact finish_rest u
  · unfold abortBrakeTest
    rw [if_pos runs]
    have aborted := abortTest_aborts m k
    obtain ⟨answered, rest⟩ := answered_onlyRing (rq := s.asker (requestFrame h 15#8 tag [])) (st := .ok)
      (results := []) (b := false) (w := abortTest u) rfl
    exact ⟨testAborted.onlyRing aborted rest (finish_testQueued (answer_testQueued _ _ _ _ aborted.2.1)), answered⟩
  · unfold abortBrakeTest
    rw [idle, if_neg Bool.false_ne_true]
    exact answered_onlyRing rfl

end Sys2Proof.Proofs
end

section
/-!
Lemmas for the obligation on READ_COUNTERS: the snapshot, and the clear that hands source 79 (R192, R25).
-/

namespace Sys2Proof.Machine

/-- What an answer and the notices behind it leave of the ring: all but the insert queue, the sending and OUT's turn. -/
theorem finish_answer_kept (rq : Requester) (st : Status) (results : List Byte) (b : Bool) (w : State) :
    NoticeKept { w with ring := { w.ring with reserved := w.ring.reserved - 1 } } (finish (answer rq st results b w)) :=
  (joinInsert_kept _ _).trans (finish_kept _)

theorem countersRead_second (clear : Bool) (s : State) : countersRead 2 clear s = s := rfl

/-- The snapshot of part 1 (R192). -/
def snapped (clear : Bool) (s : State) : State :=
  { s with ring := { s.ring with
    snapshot := s.ring.counters, counters := if clear then Vector.replicate 16 0#32 else s.ring.counters } }

theorem countersRead_clear (s : State) : countersRead 1 true s = feed 79 0 true none (snapped true s) := rfl

theorem countersRead_keep (s : State) : countersRead 1 false s = snapped false s := rfl

/-- Part 1 leaves everything but the snapshot and the counters, and what the source of refused References changes. -/
theorem countersRead_first (clear : Bool) (s : State) : TripKept (snapped clear s) (countersRead 1 clear s) := by
  cases clear
  · exact .refl _
  · exact feed_kept ..

theorem countersRead_source (s : State) : (countersRead 1 true s).source 79 = { value := 0, valid := true } := by
  rw [countersRead_clear, feed_source_same (by decide) (by decide) (by decide) (by decide) (by decide)]
  rfl

theorem TripKept.snapshot {s t : State} (h : TripKept s t) : t.ring.snapshot = s.ring.snapshot :=
  (congrArg Ring.snapshot h.ring :)

theorem requestOf_readCounters (h : Header) (tag : Half) (clear : Bool) :
    requestOf (requestFrame h 17#8 tag [1#8, flagByte clear]) = some (.readCounters 1 clear) := by
  cases clear <;> rfl

theorem exec_readCounters {h : Header} {tag : Half} {clear : Bool} {s u : State} {f : Frame}
    (hf : f = requestFrame h 17#8 tag [1#8, flagByte clear]) (taken : s.requests f = true) (hu : u = admitted f s) :
    exec (.readCounters h tag 1#8 (flagByte clear)) s
      = .next (finish (answer (s.asker f) .ok ((countersRead 1 clear u).countersPart 1) false (countersRead 1 clear u))) := by
  subst hf
  rw [exec_request (r := .readCounters 1 clear) rfl rfl (requestOf_readCounters h tag clear) hu taken]
  unfold carryOut
  rfl

theorem exec_readCounters_second {h : Header} {tag : Half} {s u : State} {f : Frame}
    (hf : f = requestFrame h 17#8 tag [2#8, 0#8]) (taken : s.requests f = true) (hu : u = admitted f s) :
    exec (.readCounters h tag 2#8 0#8) s = .next (finish (answer (s.asker f) .ok (u.countersPart 2) false u)) := by
  subst hf
  rw [exec_request (r := .readCounters 2 false) rfl rfl rfl hu taken]
  unfold carryOut
  rfl

theorem admitted_fwd (f : Frame) (s : State) : (admitted f s).ring.fwd = s.ring.fwd :=
  received_fwd f s

end Sys2Proof.Machine
end

section
/-! READ_COUNTERS. -/

namespace Sys2Proof.Proofs

open Sys2Proof.Machine

/-- Settles O31: part 1 takes the snapshot and clears with its flag; part 2 answers from the latest snapshot. -/
theorem readCountersSnapshot : Obligations.ReadCountersSnapshot := by
  unfold Obligations.ReadCountersSnapshot
  refine fun h tag s => ⟨fun clear f u hf taken hu => ⟨_, exec_readCounters hf taken hu, ?_⟩,
    fun f u hf taken hu => ⟨_, exec_readCounters_second hf taken hu, ?_⟩⟩
  · have fwd : u.ring.fwd = s.ring.fwd := by rw [hu, admitted_fwd]
    have read := countersRead_first clear u
    have source (k : clear = true) : (countersRead 1 clear u).source 79 = { value := 0, valid := true } := by
      rw [k, countersRead_source]
    have still (k : clear = false) : countersRead 1 clear u = snapped false u := by rw [k, countersRead_keep]
    generalize countersRead 1 clear u = w at read source still ⊢
    obtain ⟨answered, rest⟩ := answered_onlyRing (rq := s.asker f) (st := .ok) (results := w.countersPart 1) (b := false)
      (w := w) rfl
    have kept := finish_answer_kept (s.asker f) .ok (w.countersPart 1) false w
    generalize finish (answer (s.asker f) .ok (w.countersPart 1) false w) = t at answered rest kept ⊢
    have part : w.countersPart 1 = (u.ring.counters.toList.take 10).flatMap fun w => encNat 4 w.toNat := by
      unfold State.countersPart
      rw [read.snapshot]
      rfl
    rw [part] at answered
    refine ⟨answered, kept.snapshot.trans read.snapshot, fun k => ⟨fun c => ?_, ?_⟩, fun k => ⟨?_, ?_⟩,
      (kept.fwd.trans read.fwd).trans fwd, (congrArg State.tables rest :).trans read.tables,
      (congrArg State.attrs rest :).trans read.attrs, (congrArg State.feedback rest :).trans read.feedback⟩
    · have zero : t.ring.counters = Vector.replicate 16 0#32 := by
        rw [kept.counters]
        refine read.counters.trans ?_
        rw [k]
        rfl
      unfold State.counter
      rw [zero]
      exact Vector.getElem_replicate ..
    · exact (source_congr (congrArg (fun x => x.alarm.sources) rest :) 79).trans (source k)
    · refine (kept.counters.trans read.counters).trans ?_
      rw [k]
      rfl
    · rw [still k] at rest
      exact rest
  · obtain ⟨answered, rest⟩ := answered_onlyRing (rq := s.asker f) (st := .ok) (results := u.countersPart 2) (b := false)
      (w := u) rfl
    exact ⟨answered, (finish_answer_kept ..).snapshot, rest⟩

end Sys2Proof.Proofs
end

section
/-!
Lemmas for the obligation on RENEW_ATTRIBUTE (R177).
-/

namespace Sys2Proof.Machine

/-- The record a request's id names (R173). -/
def attrNamed (id : Nat) : Option (Fin 13) := (List.finRange 13).find? fun i => i.val + 1 == id

theorem attrNamed_none {id : Nat} (h : id = 0 ∨ 13 < id) : attrNamed id = none := by
  unfold attrNamed
  refine List.find?_eq_none.mpr fun i _ => ?_
  rw [beq_iff_eq]
  omega

theorem attrNamed_self {id : Nat} {i : Fin 13} (h : i.val + 1 = id) : attrNamed id = some i := by
  subst h
  unfold attrNamed
  revert i
  decide

theorem renew_kept (i : Fin 13) (s : State) :
    TripKept { s with attrs := { s.attrs with recs := s.attrs.recs.set i lostAttr } } (renew i s) := by
  unfold renew
  dsimp only
  split
  · exact .refl _
  · exact feed_kept ..

theorem renew_source (i : Fin 13) (s : State) :
    (renew i s).source (56 + i.val)
      = if (s.attrs.recs[i]).norm = 100 then s.source (56 + i.val) else { value := 100, valid := true } := by
  unfold renew
  dsimp only
  split
  · rfl
  · rw [feed_source_same (by omega) (by omega) (by omega) (by omega) (by omega)]
    rfl

theorem exec_renewAttribute {h : Header} {tag : Half} {id : Byte} {s u : State} {f : Frame}
    (hf : f = requestFrame h 9#8 tag [id]) (taken : s.requests f = true) (hu : u = admitted f s) :
    exec (.renewAttribute h tag id) s = .next (finish (renewAttribute (s.asker f) id.toNat u)) := by
  subst hf
  rw [exec_request (r := .renewAttribute id.toNat) rfl rfl rfl hu taken]
  unfold carryOut
  rfl

theorem renewAttribute_none {id : Nat} (h : attrNamed id = none) (rq : Requester) (s : State) :
    renewAttribute rq id s = answer rq .badIndex [] false s := by
  unfold renewAttribute
  unfold attrNamed at h
  rw [h]

theorem renewAttribute_some {id : Nat} {i : Fin 13} (h : attrNamed id = some i) (rq : Requester) (s : State) :
    renewAttribute rq id s
      = if s.mode = .parked then answer rq .ok [] false (renew i s) else answer rq .wrongMode [] false s := by
  unfold renewAttribute
  unfold attrNamed at h
  rw [h]

end Sys2Proof.Machine
end

section
/-! RENEW_ATTRIBUTE. -/

namespace Sys2Proof.Proofs

open Sys2Proof.Machine

/-- Settles O36: an id that names no record, another mode than PARKED, and the renewal. -/
theorem renewAttribute : Obligations.RenewAttribute := by
  unfold Obligations.RenewAttribute
  refine fun h tag id s u f hf taken hu => ⟨_, exec_renewAttribute hf taken hu, fun bad => ?_,
    fun i named => ⟨fun elsewhere => ?_, fun parked => ?_⟩⟩
  · rw [renewAttribute_none (attrNamed_none bad)]
    exact answered_onlyRing rfl
  · rw [renewAttribute_some (attrNamed_self named), if_neg elsewhere]
    exact answered_onlyRing rfl
  · rw [renewAttribute_some (attrNamed_self named), if_pos parked]
    have source := renew_source i u
    have renewed := renew_kept i u
    generalize renew i u = w at source renewed ⊢
    obtain ⟨answered, rest⟩ := answered_onlyRing (rq := s.asker f) (st := .ok) (results := []) (b := false) (w := w) rfl
    generalize finish (answer (s.asker f) .ok [] false w) = t at answered rest ⊢
    have attrs : t.attrs = { u.attrs with recs := u.attrs.recs.set i lostAttr } :=
      (congrArg State.attrs rest :).trans renewed.attrs
    refine ⟨answered, ?_, (source_congr (congrArg (fun x => x.alarm.sources) rest :) _).trans source, fun j other => ?_, ?_,
      (congrArg State.store rest :).trans renewed.store, (congrArg State.tables rest :).trans renewed.tables⟩
    · rw [attrs]
      exact Vector.getElem_set_self ..
    · rw [attrs]
      exact Vector.getElem_set_ne i.isLt j.isLt fun k => other (Fin.ext k.symm)
    · rw [attrs]

end Sys2Proof.Proofs
end

section
/-!
Lemmas for the obligations on the non-volatile store: COMMIT, the wear saves and their completions (R178, R199, R200).
-/

namespace Sys2Proof.Machine

/-- What changes the store alone, the Status Notice owed, is OnlyStore after the end of the command (R18). -/
structure OnlyStore (u w : State) : Prop where
  rest : w = { u with store := w.store, ring := w.ring, owed := w.owed, statusOwed := w.statusOwed }

theorem OnlyStore.finish {u w : State} (h : OnlyStore u w) : OnlyStore u (finish w) := by
  obtain ⟨h⟩ := h
  have rest := finish_rest w
  refine ⟨?_⟩
  generalize Machine.finish w = t at rest ⊢
  generalize t.ring = r at rest ⊢
  generalize t.owed = o at rest ⊢
  generalize t.statusOwed = b at rest ⊢
  rw [rest]
  generalize w.store = c at h ⊢
  generalize w.ring = wr at h
  generalize w.owed = wo at h
  generalize w.statusOwed = wb at h
  rw [h]

theorem storeBusy_iff (s : State) : s.storeBusy = true ↔ s.store.state ≠ .idle := bne_iff_ne

theorem storeBusy_idle {s : State} (h : s.store.state = .idle) : s.storeBusy = false := by
  unfold State.storeBusy
  rw [h]
  rfl

/-! A write begins (R199, R200). -/

theorem beginCommit_onlyStore (rq : Requester) (s : State) : OnlyStore s (beginCommit rq s) := ⟨rfl⟩

theorem beginSave_onlyStore (rq : Option Requester) (s : State) : OnlyStore s (beginSave rq s) := ⟨rfl⟩

theorem autosave_idle {s : State} (h : s.store.state = .idle) :
    autosave s = beginSave none { s with store := { s.store with held := false } } := by
  unfold autosave
  rw [storeBusy_idle h, if_neg Bool.false_ne_true]

theorem autosave_busy {s : State} (h : s.store.state ≠ .idle) :
    autosave s = { s with store := { s.store with held := true } } := by
  unfold autosave
  rw [(storeBusy_iff s).mpr h, if_pos rfl]

theorem autosave_onlyStore (s : State) : OnlyStore s (autosave s) := by
  by_cases h : s.store.state = .idle
  · rw [autosave_idle h]
    exact ⟨rfl⟩
  · rw [autosave_busy h]
    exact ⟨rfl⟩

theorem autosave_ring (s : State) : (autosave s).ring = s.ring := by
  by_cases h : s.store.state = .idle
  · rw [autosave_idle h]
    rfl
  · rw [autosave_busy h]

/-! A write ends (R199, R200). -/

/-- The store after the end of a write: IDLE, or the held autosave begun (R199, R200). -/
structure StoreFreed (s t : State) : Prop where
  idle : s.store.held = false → t.store.state = .idle
  held : s.store.held = true →
    t.store.state = .saving ∧ t.store.held = false ∧ t.store.image = regionBytes s.saveImage ∧ t.store.answer = none

theorem heldSave_freed {s : State} (h : s.store.state = .idle) : StoreFreed s (heldSave s) := by
  constructor
  · intro free
    unfold heldSave
    rw [free, if_neg Bool.false_ne_true, h]
  · intro held
    unfold heldSave
    rw [held, if_pos rfl, autosave_idle h]
    exact ⟨rfl, rfl, rfl, rfl⟩

/-- What a held autosave leaves of the store. -/
theorem heldSave_kept (s : State) :
    OnlyStore s (heldSave s) ∧ (heldSave s).ring = s.ring ∧ (heldSave s).store.tablesRegion = s.store.tablesRegion
      ∧ (heldSave s).store.attrsRegion = s.store.attrsRegion ∧ (heldSave s).store.last = s.store.last
      ∧ (heldSave s).store.attrsLost = s.store.attrsLost := by
  unfold heldSave
  split
  · refine ⟨autosave_onlyStore s, autosave_ring s, ?_⟩
    by_cases h : s.store.state = .idle
    · rw [autosave_idle h]
      exact ⟨rfl, rfl, rfl, rfl⟩
    · rw [autosave_busy h]
      exact ⟨rfl, rfl, rfl, rfl⟩
  · exact ⟨⟨rfl⟩, rfl, rfl, rfl, rfl, rfl⟩

/-- The state a write's end leaves before a held autosave: the store IDLE with its result, and the answer given. -/
def ended (rq : Option Requester) (ok : Bool) (s : State) : State := storeAnswer rq ok (storeEnd ok s)

theorem ended_rest (rq : Option Requester) (ok : Bool) (s : State) :
    ended rq ok s = { storeEnd ok s with ring := (ended rq ok s).ring } := by
  unfold ended storeAnswer
  split
  · exact answer_rest ..
  · rfl

theorem ended_answered {rq : Requester} {ok : Bool} {s t : State} (h : t.ring = (ended (some rq) ok s).ring) :
    Answered rq (if ok then .ok else .storeFailed) [] (finish t) := by
  have given := joinInsert_self (s := { storeEnd ok s with ring := { s.ring with reserved := s.ring.reserved - 1 } })
    (e := { cls := .response false, dst := rq.dst, src := s.ownByte, kind := 6#4, life := s.insLife
            payload := rq.code :: rq.tagHi :: rq.tagLo :: byte (if ok then Status.ok else .storeFailed).code :: [] }) rfl
  refine answered_of_inserted (b := false) (finish_inserted ?_)
  unfold Inserted State.ownByte at given ⊢
  rw [h]
  exact given

end Sys2Proof.Machine
end

section
/-! The steps of O34 and O35. -/

namespace Sys2Proof.Machine

/-- The end of a write seen from the state before it: `w` is that state with the region and the marks written (R199,
R200). -/
structure WriteEnded (rq : Option Requester) (ok : Bool) (w t : State) : Prop where
  freed : StoreFreed w t
  last : t.store.last = if ok then .ok else .storeFailed
  tablesRegion : t.store.tablesRegion = w.store.tablesRegion
  attrsRegion : t.store.attrsRegion = w.store.attrsRegion
  attrsLost : t.store.attrsLost = w.store.attrsLost
  tables : t.tables = w.tables
  attrs : t.attrs = w.attrs
  answered : ∀ r, rq = some r → Answered r (if ok then .ok else .storeFailed) [] t

theorem writeEnded (rq : Option Requester) (ok : Bool) (w : State) :
    WriteEnded rq ok w (finish (heldSave (ended rq ok w))) := by
  have rest := ended_rest rq ok w
  have answered : ∀ r, rq = some r → (heldSave (ended rq ok w)).ring = (ended (some r) ok w).ring := by
    rintro r rfl
    exact (heldSave_kept _).2.1
  generalize ended rq ok w = e at rest answered ⊢
  have idle : e.store.state = .idle := by rw [rest]; rfl
  have freed := heldSave_freed idle
  have kept := heldSave_kept e
  have image : e.saveImage = w.saveImage := by unfold State.saveImage; rw [rest]; rfl
  have out : ∀ r, rq = some r → Answered r (if ok then .ok else .storeFailed) [] (finish (heldSave e)) :=
    fun r k => ended_answered (answered r k)
  have fin := finish_rest (heldSave e)
  generalize finish (heldSave e) = t at fin out ⊢
  generalize heldSave e = a at fin freed kept
  obtain ⟨⟨only⟩, _, region, saved, last, lost⟩ := kept
  have store : t.store = a.store := (congrArg State.store fin :)
  refine { freed := ⟨fun k => ?_, fun k => ?_⟩, last := ?_, tablesRegion := ?_, attrsRegion := ?_, attrsLost := ?_
           tables := ?_, attrs := ?_, answered := out }
  · rw [store]
    exact freed.idle (by rw [rest]; exact k)
  · rw [store, ← image]
    exact freed.held (by rw [rest]; exact k)
  · rw [store, last, rest]
    rfl
  · rw [store, region, rest]
    rfl
  · rw [store, saved, rest]
    rfl
  · rw [store, lost, rest]
    rfl
  · refine ((congrArg State.tables fin :).trans (congrArg State.tables only :)).trans ?_
    rw [rest]
    rfl
  · refine ((congrArg State.attrs fin :).trans (congrArg State.attrs only :)).trans ?_
    rw [rest]
    rfl

theorem exec_commit {h : Header} {tag : Half} {s u : State} {f : Frame} (hf : f = requestFrame h 6#8 tag [])
    (taken : s.requests f = true) (hu : u = admitted f s) :
    exec (.commit h tag) s = .next (finish (commit (s.asker f) u)) := by
  subst hf
  rw [exec_request (r := .commit) rfl rfl rfl hu taken]
  unfold carryOut
  rfl

theorem exec_saveAttributes {h : Header} {tag : Half} {s u : State} {f : Frame} (hf : f = requestFrame h 7#8 tag [])
    (taken : s.requests f = true) (hu : u = admitted f s) :
    exec (.saveAttributes h tag) s = .next (finish (saveAttributes (s.asker f) u)) := by
  subst hf
  rw [exec_request (r := .saveAttributes) rfl rfl rfl hu taken]
  unfold carryOut
  rfl

theorem exec_commitCompletion (readBack : List Byte) (s : State) :
    exec (.commitCompletion readBack) s = .next (finish (commitDone readBack s)) := rfl

theorem exec_saveCompletion (readBack : List Byte) (s : State) :
    exec (.saveCompletion readBack) s = .next (finish (saveDone readBack s)) := rfl

theorem exec_autosave (s : State) : exec .autosave s = .next (finish (autosave s)) := rfl

theorem exec_minuteTimerExpiry (s : State) : exec .minuteTimerExpiry s = .next (finish (minuteOut s)) := rfl

theorem admitted_reserved (f : Frame) (s : State) : (admitted f s).ring.reserved = s.ring.reserved + 1 := by
  show (received f s).ring.reserved + 1 = _
  rw [received_reserved]

/-- The state in which a COMMIT ends, its region written (R199). -/
def committedState (readBack : List Byte) (s : State) : State :=
  { s with store := { s.store with tablesRegion := .bytes readBack }
           tables := { s.tables with committed := readBack == s.store.image } }

/-- The state in which an wear save ends, its region written (R200). -/
def savedState (readBack : List Byte) (s : State) : State :=
  { s with store := { s.store with attrsRegion := .bytes readBack
                                   attrsLost := s.store.attrsLost && !(readBack == s.store.image) } }

theorem commitDone_committing {readBack : List Byte} {s : State} (h : s.store.state = .committing) :
    commitDone readBack s
      = heldSave (ended s.store.answer (readBack == s.store.image) (committedState readBack s)) := by
  unfold commitDone
  rw [if_pos h]
  rfl

theorem saveDone_saving {readBack : List Byte} {s : State} (h : s.store.state = .saving) :
    saveDone readBack s = heldSave (ended s.store.answer (readBack == s.store.image) (savedState readBack s)) := by
  unfold saveDone
  rw [if_pos h]
  rfl

/-- The minute counted (R178). -/
def minuteCounted (s : State) : State :=
  { s with attrs := { s.attrs with minutes := min 4294967295 (s.attrs.minutes + 1), tMinute := some (s.now + 60000) } }

theorem minuteOut_expired {s : State} (h : s.expired s.attrs.tMinute = true) :
    minuteOut s = if min 4294967295 (s.attrs.minutes + 1) ≠ s.attrs.minutes ∧ min 4294967295 (s.attrs.minutes + 1) % 60 = 0
      then autosave (minuteCounted s) else minuteCounted s := by
  unfold minuteOut
  rw [if_pos h]
  rfl

theorem minuteOut_attrs {s : State} (h : s.expired s.attrs.tMinute = true) :
    (minuteOut s).attrs = (minuteCounted s).attrs := by
  rw [minuteOut_expired h]
  split
  · exact (congrArg State.attrs (autosave_onlyStore _).rest :)
  · rfl

/-- What a request to the store leaves when it does not begin a write. -/
theorem commit_refused {rq : Requester} {u : State} :
    (u.tables.valid = false → commit rq u = answer rq .wrongMode [] false u)
      ∧ (u.tables.valid = true → u.store.state ≠ .idle → commit rq u = answer rq .busy [] false u)
      ∧ (u.tables.valid = true → u.store.state = .idle → commit rq u = beginCommit rq u) := by
  unfold commit
  refine ⟨fun bad => ?_, fun ok busy => ?_, fun ok idle => ?_⟩
  · rw [bad, Bool.not_false, if_pos rfl]
  · rw [ok, (storeBusy_iff u).mpr busy, Bool.not_true, if_neg Bool.false_ne_true, if_pos rfl]
  · rw [ok, storeBusy_idle idle, Bool.not_true, if_neg Bool.false_ne_true, if_neg Bool.false_ne_true]

/-- A completed write with the result worked out from what was read back. -/
theorem beq_ite {α : Type} (a b : List Byte) (x y : α) : (if (a == b) = true then x else y) = if a = b then x else y := by
  simp only [beq_iff_eq]

theorem commit_completes {readBack : List Byte} {s t : State} (h : s.store.state = .committing)
    (ht : t = finish (commitDone readBack s)) :
    WriteEnded s.store.answer (readBack == s.store.image) (committedState readBack s) t := by
  rw [ht, commitDone_committing h]
  exact writeEnded ..

theorem save_completes {readBack : List Byte} {s t : State} (h : s.store.state = .saving)
    (ht : t = finish (saveDone readBack s)) :
    WriteEnded s.store.answer (readBack == s.store.image) (savedState readBack s) t := by
  rw [ht, saveDone_saving h]
  exact writeEnded ..

theorem commit_begins {rq : Requester} {u t : State} (ht : t = finish (beginCommit rq u)) :
    t.store.state = .committing ∧ t.store.image = regionBytes (tablesBytes u.act) ∧ t.store.answer = some rq
      ∧ t.ring.reserved = u.ring.reserved
      ∧ t = { u with store := t.store, ring := t.ring, owed := t.owed, statusOwed := t.statusOwed } := by
  have rest := (beginCommit_onlyStore rq u).finish.rest
  have store : t.store = (beginCommit rq u).store := by rw [ht, finish_store]
  have reserved : t.ring.reserved = (beginCommit rq u).ring.reserved := by rw [ht, finish_reserved]
  rw [← ht] at rest
  exact ⟨congrArg Store.state store, congrArg Store.image store, congrArg Store.answer store, reserved, rest⟩

theorem save_begins {rq : Option Requester} {u t : State} (ht : t = finish (beginSave rq u)) :
    t.store.state = .saving ∧ t.store.image = regionBytes u.saveImage ∧ t.store.answer = rq
      ∧ t = { u with store := t.store, ring := t.ring, owed := t.owed, statusOwed := t.statusOwed } := by
  have rest := (beginSave_onlyStore rq u).finish.rest
  have store : t.store = (beginSave rq u).store := by rw [ht, finish_store]
  rw [← ht] at rest
  exact ⟨congrArg Store.state store, congrArg Store.image store, congrArg Store.answer store, rest⟩

/-- The minute timer's expiry (R178). -/
theorem minute_expires {s t : State} (h : s.expired s.attrs.tMinute = true) (ht : t = finish (minuteOut s)) :
    t.attrs.minutes = min 4294967295 (s.attrs.minutes + 1) ∧ t.attrs.tMinute = some (s.now + 60000)
      ∧ t.attrs.recs = s.attrs.recs
      ∧ (t.attrs.minutes % 60 = 0 → s.attrs.minutes < 4294967295 → s.store.state = .idle → t.store.state = .saving)
      ∧ (t.attrs.minutes % 60 ≠ 0 → t.store = s.store) := by
  have attrs : t.attrs = (minuteCounted s).attrs := by
    rw [ht, ← minuteOut_attrs h]
    exact (congrArg State.attrs (finish_rest _) :)
  rw [attrs]
  refine ⟨rfl, rfl, rfl, fun due below idle => ?_, fun not => ?_⟩
  · rw [ht, finish_store, minuteOut_expired h, if_pos ⟨by omega, due⟩, autosave_idle (by exact idle)]
    rfl
  · rw [ht, finish_store, minuteOut_expired h, if_neg fun k => not k.2]
    rfl

end Sys2Proof.Machine
end

section
/-! COMMIT and the wear saves. -/

namespace Sys2Proof.Proofs

open Sys2Proof.Machine

/-- Settles O34: a COMMIT begins or is refused, and its completion writes the region. -/
theorem commitWritesTables : Obligations.CommitWritesTables := by
  unfold Obligations.CommitWritesTables
  refine ⟨fun h tag s u f hf taken hu => ⟨_, exec_commit hf taken hu, fun bad => ?_, fun ok busy => ?_, fun ok idle => ?_⟩,
    fun readBack s => ⟨_, exec_commitCompletion readBack s, fun other => ?_, fun committing => ?_⟩⟩
  · rw [commit_refused.1 bad]
    exact answered_onlyRing rfl
  · rw [commit_refused.2.1 ok busy]
    exact answered_onlyRing rfl
  · rw [commit_refused.2.2 ok idle]
    have begun := commit_begins (rq := s.asker f) (u := u) rfl
    rw [show u.ring.reserved = s.ring.reserved + 1 by rw [hu, admitted_reserved]] at begun
    exact begun
  · unfold commitDone
    rw [if_neg other]
    exact finish_rest s
  · have done := commit_completes committing (readBack := readBack) rfl
    generalize finish (commitDone readBack s) = t at done
    have last := done.last
    have answered := done.answered
    have committed : t.tables.committed = (readBack == s.store.image) := by rw [done.tables]; rfl
    rw [beq_ite] at last answered
    refine ⟨done.tablesRegion, fun same => ⟨?_, ?_⟩, fun differs => ⟨?_, ?_⟩, done.freed.idle, done.freed.held, answered⟩
    · rw [last, if_pos same]
    · rw [committed, same, beq_self_eq_true]
    · rw [last, if_neg differs]
    · rw [committed, beq_false_of_ne differs]

/-- Settles O35: the saves begin, are held or refused, and their completion writes the region. -/
theorem attributeSaves : Obligations.AttributeSaves := by
  unfold Obligations.AttributeSaves
  refine ⟨fun h tag s u f hf taken hu => ⟨_, exec_saveAttributes hf taken hu, fun busy => ?_, fun idle => ?_⟩,
    fun s => ⟨_, exec_autosave s, fun idle => ?_, fun busy => ?_, (autosave_onlyStore s).finish.rest⟩,
    fun s => ⟨_, exec_minuteTimerExpiry s, fun expired => minute_expires expired rfl, fun running => ?_⟩,
    fun readBack s => ⟨_, exec_saveCompletion readBack s, fun other => ?_, fun saving => ?_⟩⟩
  · unfold saveAttributes
    rw [(storeBusy_iff u).mpr busy, if_pos rfl]
    exact answered_onlyRing rfl
  · unfold saveAttributes
    rw [storeBusy_idle idle, if_neg Bool.false_ne_true]
    exact save_begins rfl
  · rw [finish_store, autosave_idle idle]
    exact ⟨rfl, rfl, rfl⟩
  · rw [finish_store, autosave_busy busy]
  · unfold minuteOut
    rw [running, if_neg Bool.false_ne_true]
    exact finish_rest s
  · unfold saveDone
    rw [if_neg other]
    exact finish_rest s
  · have done := save_completes saving (readBack := readBack) rfl
    generalize finish (saveDone readBack s) = t at done
    have last := done.last
    have answered := done.answered
    have lost : t.store.attrsLost = (s.store.attrsLost && !(readBack == s.store.image)) := by rw [done.attrsLost]; rfl
    rw [beq_ite] at last answered
    refine ⟨done.attrsRegion, done.tables, done.attrs, fun same => ⟨?_, ?_⟩, fun differs => ⟨?_, ?_⟩, done.freed.idle,
      done.freed.held, answered⟩
    · rw [last, if_pos same]
    · rw [lost, same, beq_self_eq_true, Bool.not_true, Bool.and_false]
    · rw [last, if_neg differs]
    · rw [lost, beq_false_of_ne differs, Bool.not_false, Bool.and_true]

end Sys2Proof.Proofs
end

section
/-!
Lemmas for the obligation on the reading requests: each is answered from the state as it stands, and the results field by
field (R190 to R192, R194, R203).
-/

namespace Sys2Proof.Machine

/-- A request in a frame is answered from the state it is admitted in, and nothing changes (R191). -/
def Reads (i : Instr) (f : Frame) (s u : State) (st : Status) (results : List Byte) : Prop :=
  ∃ t, exec i s = .next t ∧ Answered (s.asker f) st results t ∧ OnlyRing u t

/-- A request whose answer is worked out from the state alone changes nothing (R191). -/
theorem reads_of {i : Instr} {f : Frame} {r : Request} {s u : State} {st : Status} {results : List Byte}
    (row : rowFrame i = some f) (taken : s.requests f = true) (hu : u = admitted f s) (kind : f.kind = 5#4)
    (reads : requestOf f = some r) (gives : ∀ rq, carryOut rq r u = answer rq st results false u) :
    Reads i f s u st results := by
  refine ⟨_, exec_request row kind reads hu taken, ?_⟩
  rw [gives]
  exact answered_onlyRing rfl

theorem byte_pos {b : Byte} (h : b ≠ 0#8) : b.toNat ≠ 0 := fun k => h (BitVec.eq_of_toNat_eq k)

theorem within_of {lo hi v : Nat} (h : lo ≤ v) (k : v ≤ hi) : within lo hi v = true := by
  unfold within
  rw [decide_eq_true h, decide_eq_true k, Bool.and_self]

/-! The request a frame's payload spells (R191). -/

section
variable (h : Header) (tag : Half)

theorem requestOf_readStatus {p : Byte} (hp : p = 1#8 ∨ p = 2#8) :
    requestOf (requestFrame h 1#8 tag [p]) = some (.readStatus p.toNat) := by
  rcases hp with rfl | rfl <;> rfl

theorem requestOf_readTable {c : Byte} (t e : Byte) (hc : c = 0#8 ∨ c = 1#8) :
    requestOf (requestFrame h 2#8 tag [c, t, e]) = some (.readTable (c == 1#8) t.toNat e.toNat) := by
  rcases hc with rfl | rfl <;> rfl

theorem requestOf_readAttributes {p : Byte} (lo : 1 ≤ p.toNat) (hi : p.toNat ≤ 5) :
    requestOf (requestFrame h 8#8 tag [p]) = some (.readAttributes p.toNat) := by
  refine Eq.trans (b := if within 1 5 p.toNat then some (Request.readAttributes p.toNat) else none) rfl ?_
  rw [within_of lo hi, if_pos rfl]

theorem requestOf_readActiveList {k : Byte} (hk : k ≠ 0#8) :
    requestOf (requestFrame h 10#8 tag [k]) = some (.readActiveList k.toNat) := by
  refine Eq.trans (b := if k.toNat = 0 then none else some (Request.readActiveList k.toNat)) rfl ?_
  rw [if_neg (byte_pos hk)]

theorem requestOf_readTrip (k : Byte) {p : Byte} (lo : 1 ≤ p.toNat) (hi : p.toNat ≤ 3) :
    requestOf (requestFrame h 11#8 tag [k, p]) = some (.readTrip k.toNat p.toNat) := by
  refine Eq.trans (b := if within 1 3 p.toNat then some (Request.readTrip k.toNat p.toNat) else none) rfl ?_
  rw [within_of lo hi, if_pos rfl]

theorem requestOf_readTestLog {a : Byte} (ha : a ≠ 0#8) :
    requestOf (requestFrame h 13#8 tag [a]) = some (.readTestLog a.toNat) := by
  refine Eq.trans (b := if a.toNat = 0 then none else some (Request.readTestLog a.toNat)) rfl ?_
  rw [if_neg (byte_pos ha)]

theorem requestOf_readStation {e : Byte} (lo : 1 ≤ e.toNat) (hi : e.toNat ≤ 16) :
    requestOf (requestFrame h 16#8 tag [e]) = some (.readStation e.toNat) := by
  refine Eq.trans (b := if within 1 16 e.toNat then some (Request.readStation e.toNat) else none) rfl ?_
  rw [within_of lo hi, if_pos rfl]

end

/-! The answers (R192, R194, R164, R190). -/

section
variable {h : Header} {tag : Half} {s u : State} {f : Frame} (taken : s.requests f = true) (hu : u = admitted f s)
include taken hu

theorem identify_reads (row : rowFrame (.identify h tag) = some f) : Reads (.identify h tag) f s u .ok u.identity := by
  cases row
  exact reads_of rfl taken hu rfl (r := .identify) rfl fun rq => by unfold carryOut; rfl

theorem readStatus_reads {p : Byte} (row : rowFrame (.readStatus h tag p) = some f) (hp : p = 1#8 ∨ p = 2#8) :
    Reads (.readStatus h tag p) f s u .ok (u.statusPart p.toNat) := by
  cases row
  exact reads_of rfl taken hu rfl (requestOf_readStatus h tag hp) fun rq => by unfold carryOut; rfl

theorem readTable_reads {c t e : Byte} {fs : List FieldBytes} (row : rowFrame (.readTable h tag c t e) = some f)
    (hc : c = 0#8 ∨ c = 1#8)
    (entry : entryFields (if c = 1#8 then u.tables.staging else u.act) t.toNat e.toNat = some fs) :
    Reads (.readTable h tag c t e) f s u .ok ((entryBytes fs).take 44) := by
  cases row
  refine reads_of rfl taken hu rfl (requestOf_readTable h tag t e hc) fun rq => ?_
  unfold carryOut readTable
  simp only [beq_iff_eq]
  rw [entry]
  rfl

theorem readTable_absent {c t e : Byte} (row : rowFrame (.readTable h tag c t e) = some f) (hc : c = 0#8 ∨ c = 1#8)
    (entry : entryFields (if c = 1#8 then u.tables.staging else u.act) t.toNat e.toNat = none) :
    Reads (.readTable h tag c t e) f s u .badIndex [] := by
  cases row
  refine reads_of rfl taken hu rfl (requestOf_readTable h tag t e hc) fun rq => ?_
  unfold carryOut readTable
  simp only [beq_iff_eq]
  rw [entry]

theorem readAttributes_reads {p : Byte} (row : rowFrame (.readAttributes h tag p) = some f) (lo : 1 ≤ p.toNat)
    (hi : p.toNat ≤ 5) : Reads (.readAttributes h tag p) f s u .ok (u.attrsPart p.toNat) := by
  cases row
  exact reads_of rfl taken hu rfl (requestOf_readAttributes h tag lo hi) fun rq => by unfold carryOut; rfl

theorem readActiveList_reads {k : Byte} (row : rowFrame (.readActiveList h tag k) = some f) (hk : k ≠ 0#8)
    (stands : k.toNat ≤ u.alarm.list.length ∨ k = 1#8) :
    Reads (.readActiveList h tag k) f s u .ok (u.listPart k.toNat) := by
  cases row
  refine reads_of rfl taken hu rfl (requestOf_readActiveList h tag hk) fun rq => ?_
  unfold carryOut
  dsimp only
  unfold readActiveList
  rw [if_pos (stands.imp_right fun one => by rw [one]; rfl)]

theorem readActiveList_absent {k : Byte} (row : rowFrame (.readActiveList h tag k) = some f) (hk : k ≠ 0#8)
    (second : k ≠ 1#8) (beyond : u.alarm.list.length < k.toNat) :
    Reads (.readActiveList h tag k) f s u .badIndex [byte u.alarm.list.length] := by
  cases row
  refine reads_of rfl taken hu rfl (requestOf_readActiveList h tag hk) fun rq => ?_
  unfold carryOut
  dsimp only
  unfold readActiveList
  rw [if_neg]
  rintro (within | one)
  · omega
  · exact second (BitVec.eq_of_toNat_eq one)

theorem readTrip_reads {k p : Byte} {r : TripRecord} (row : rowFrame (.readTrip h tag k p) = some f) (lo : 1 ≤ p.toNat)
    (hi : p.toNat ≤ 3) (hk : k ≠ 0#8) (record : u.trip.queue[k.toNat - 1]? = some r) :
    Reads (.readTrip h tag k p) f s u .ok (encNat 4 r.number ++ tripPart r p.toNat) := by
  cases row
  refine reads_of rfl taken hu rfl (requestOf_readTrip h tag k lo hi) fun rq => ?_
  unfold carryOut
  dsimp only
  unfold readTrip
  rw [if_neg (byte_pos hk), record]

theorem readTrip_absent {k p : Byte} (row : rowFrame (.readTrip h tag k p) = some f) (lo : 1 ≤ p.toNat) (hi : p.toNat ≤ 3)
    (beyond : k = 0#8 ∨ u.trip.queue.length < k.toNat) :
    Reads (.readTrip h tag k p) f s u .badIndex [byte u.trip.queue.length] := by
  cases row
  refine reads_of rfl taken hu rfl (requestOf_readTrip h tag k lo hi) fun rq => ?_
  have none : (if k.toNat = 0 then Option.none else u.trip.queue[k.toNat - 1]?) = Option.none := by
    split
    · rfl
    · rename_i pos
      rcases beyond with zero | beyond
      · rw [zero] at pos
        exact absurd rfl pos
      · exact List.getElem?_eq_none (by omega)
  unfold carryOut
  dsimp only
  unfold readTrip
  rw [none]

theorem readTestLog_reads {a : Byte} {d : Descriptor} (row : rowFrame (.readTestLog h tag a) = some f) (ha : a ≠ 0#8)
    (aged : u.tester.aged a.toNat = some d) :
    Reads (.readTestLog h tag a) f s u .ok ((descriptorBytes d).take 44) := by
  cases row
  refine reads_of rfl taken hu rfl (requestOf_readTestLog h tag ha) fun rq => ?_
  unfold carryOut
  dsimp only
  unfold readTestLog
  rw [aged]
  rfl

theorem readTestLog_absent {a : Byte} (row : rowFrame (.readTestLog h tag a) = some f) (ha : a ≠ 0#8)
    (aged : u.tester.aged a.toNat = none) : Reads (.readTestLog h tag a) f s u .badIndex [] := by
  cases row
  refine reads_of rfl taken hu rfl (requestOf_readTestLog h tag ha) fun rq => ?_
  unfold carryOut
  dsimp only
  unfold readTestLog
  rw [aged]

theorem readStation_reads {e : Byte} (row : rowFrame (.readStation h tag e) = some f) (lo : 1 ≤ e.toNat)
    (hi : e.toNat ≤ 16) : Reads (.readStation h tag e) f s u .ok (u.stationPart e.toNat) := by
  cases row
  exact reads_of rfl taken hu rfl (requestOf_readStation h tag lo hi) fun rq => by unfold carryOut; rfl

end

/-! The results field by field. -/

theorem toList_flatMap {α : Type} {n : Nat} (v : Vector α n) (g : α → List Byte) :
    v.toList.flatMap g = (List.finRange n).flatMap fun i => g v[i] := by
  have list : v.toList = (List.finRange n).map fun i => v[i] := by
    refine List.ext_getElem (by simp) fun i _ _ => ?_
    simp
  rw [list, List.flatMap_map]

theorem statusPart_second (s : State) : s.statusPart 2 = (List.finRange 4).flatMap fun ch =>
    byte (if (s.analog[ch]).ready then 1 else 0)
      :: ((match (s.analog[ch]).lastRaw with | none => [0#8] | some n => 1#8 :: encNat 2 n)
        ++ (match (s.analog[ch]).lastScaled with | none => [0#8] | some v => 1#8 :: encInt 3 v)
        ++ [byte (s.analog[ch]).beyond]) := by
  unfold State.statusPart
  rw [if_neg (by decide), toList_flatMap]
  refine List.flatMap_congr fun ch _ => ?_
  unfold ainBytes
  cases (s.analog[ch]).lastRaw <;> cases (s.analog[ch]).lastScaled <;> rfl

theorem levelChan_isSome (i : Fin 13) : (levelChan i).isSome = decide (9 ≤ i.val) := by
  revert i
  decide

theorem attrFields_eq (s : State) (i : Fin 13) : s.attrFields i =
    encNat 6 (s.attrs.recs[i]).raw
      ++ [byte (s.attrs.recs[i]).norm, byte (s.attrs.recs[i]).worst, byte (s.act.attrs[i]).threshold,
        byte (s.act.attrs[i]).cls.code,
        if (s.attrs.recs[i]).norm ≤ (s.act.attrs[i]).threshold then 1#8 else 0#8]
      ++ (if 9 ≤ i.val then [flagByte (s.attrs.recs[i]).never] else []) := by
  unfold State.attrFields State.crossed flagByte
  rw [levelChan_isSome]
  simp only [decide_eq_true_eq]

theorem listPart_eq (s : State) (k : Nat) : s.listPart k =
    [byte s.alarm.list.length, byte ((s.alarm.list.drop (k - 1)).take 5).length]
      ++ ((s.alarm.list.drop (k - 1)).take 5).flatMap fun p =>
        [byte (p.val + 1), byte (s.alarm.points[p]).state.code, flagByte (s.alarm.points[p]).mark,
            byte (s.act.points[p]).cls.code] ++ encNat 4 ((s.alarm.points[p]).since.getD 0 % 4294967296) := by
  unfold State.listPart listBytes
  rw [List.length_map]
  rfl

theorem optBytes_map {α : Type} (v : Option α) (g : α → List Byte) :
    optBytes (v.map g) = match v with | none => [0#8] | some x => 1#8 :: g x := by
  cases v <;> rfl

theorem tripPart_first (r : TripRecord) : tripPart r 1 = encNat 4 r.number ++ encNat 4 r.time ++ encNat 4 r.minutes
    ++ [byte r.cause.kind, byte r.cause.index, byte r.action.code, flagByte r.firstOut, byte r.mode.code]
    ++ (match r.phase with | none => [0#8] | some p => [1#8, byte (phaseCode p)])
    ++ (match r.tubRaised with | none => [0#8] | some b => [1#8, flagByte b])
    ++ byte r.coActive.length :: r.coActive.map (fun p => byte (p.val + 1)) := by
  have points : listBytes (r.coActive.map fun p => [byte (p.val + 1)])
      = byte r.coActive.length :: r.coActive.map (fun p => byte (p.val + 1)) := by
    unfold listBytes
    rw [List.length_map, ← List.flatMap_def, List.map_eq_flatMap]
  refine (congrArg (_ ++ ·) points).trans ?_
  cases r.phase <;> cases r.tubRaised <;> rfl

theorem descriptorBytes_eq (d : Descriptor) : descriptorBytes d =
    encNat 2 d.number ++ [byte d.status.code] ++ encNat 4 d.minutes
      ++ (match d.failing with | none => [0#8] | some c => [1#8, byte (chanPos c)])
      ++ byte d.results.length :: d.results.flatMap fun r =>
          byte (chanPos r.chan) :: ((match r.slip with | none => [0#8] | some n => 1#8 :: encNat 4 n)
            ++ [byte r.outcome.code]) := by
  have segments : segBytes = fun r => byte (chanPos r.chan)
      :: ((match r.slip with | none => [0#8] | some n => 1#8 :: encNat 4 n) ++ [byte r.outcome.code]) := by
    funext r
    unfold segBytes
    cases r.slip <;> rfl
  unfold descriptorBytes listBytes
  rw [List.length_map, ← List.flatMap_def, segments, optBytes_map]
  cases d.failing <;> rfl

theorem aged_eq (t : Tester) (age : Nat) : t.aged age =
    if _h : 1 ≤ age ∧ age ≤ 12 then t.log[(t.pointer + 12 - age) % 12]'(Nat.mod_lt _ (by decide)) else none := by
  unfold Tester.aged
  split
  · rw [nth1_succ t.log ⟨_, Nat.mod_lt _ (by decide)⟩, Option.join_some]
    rfl
  · rfl

theorem runBytes_eq (now : Nat) (r : StationRun) : runBytes now r =
    [byte r.fresh.code, byte r.expiries]
      ++ (match r.timer with | none => [0#8] | some d => 1#8 :: encNat 2 (d - now))
      ++ (match r.lastSeq with | none => [0#8] | some q => [1#8, q]) ++ encNat 2 r.gaps
      ++ (match r.lastArrival with | none => [0#8] | some d => 1#8 :: encNat 4 (d % 4294967296)) := by
  unfold runBytes
  cases r.timer <;> cases r.lastSeq <;> cases r.lastArrival <;> rfl

theorem stationPart_eq (s : State) (e : Fin 16) : s.stationPart (e.val + 1) =
    [byte (s.act.stations[e]).number, byte (s.act.stations[e]).role.code]
      ++ (match (s.act.stations[e]).axis with | none => [0#8] | some x => [1#8, byte (axisPos x)])
      ++ encNat 2 (s.act.stations[e]).timeout
      ++ match s.stations[e] with
         | none => []
         | some r => [byte r.fresh.code, byte r.expiries]
            ++ (match r.timer with | none => [0#8] | some d => 1#8 :: encNat 2 (d - s.now))
            ++ (match r.lastSeq with | none => [0#8] | some q => [1#8, q]) ++ encNat 2 r.gaps
            ++ (match r.lastArrival with | none => [0#8] | some d => 1#8 :: encNat 4 (d % 4294967296)) := by
  have fields : entryFields s.act 1 (e.val + 1) = some (s.act.stations[e]).fields := by
    unfold entryFields
    rw [nth1_succ s.act.stations e]
    rfl
  unfold State.stationPart
  rw [fields, nth1_succ s.stations e, Option.join_some, Option.getD_some]
  have entry : entryBytes (s.act.stations[e]).fields =
      [byte (s.act.stations[e]).number, byte (s.act.stations[e]).role.code]
        ++ (match (s.act.stations[e]).axis with | none => [0#8] | some x => [1#8, byte (axisPos x)])
        ++ encNat 2 (s.act.stations[e]).timeout := by
    unfold StationCfg.fields
    cases (s.act.stations[e]).axis <;> simp [entryBytes, numField, nameField, optField, optBytes, encNat]
  refine congrArg₂ (· ++ ·) entry ?_
  cases s.stations[e]
  case none => rfl
  case some r => exact runBytes_eq s.now r

end Sys2Proof.Machine
end

section
/-! The reading requests. -/

namespace Sys2Proof.Proofs

open Sys2Proof.Machine

/-- Settles O30: each reading request is answered from the state as it stands, and the results field by field. -/
theorem readingRequestsChangeNothing : Obligations.ReadingRequestsChangeNothing := by
  unfold Obligations.ReadingRequestsChangeNothing
  refine ⟨fun h tag s i f u st results row taken hu request => ?_, fun s => rfl, fun s => rfl, statusPart_second,
    fun s p => ?_, fun s k l hl => ?_, fun r => ⟨tripPart_first r, rfl, fun none => ?_, fun bs some => ?_⟩, descriptorBytes_eq,
    aged_eq, fun s e c hc => ?_⟩
  · rcases request with ⟨rfl, rfl, rfl⟩ | ⟨p, hp, rfl, rfl, rfl⟩ | ⟨c, t, e, fs, hc, rfl, entry, rfl, rfl⟩
      | ⟨c, t, e, hc, rfl, entry, rfl, rfl⟩ | ⟨p, lo, hi, rfl, rfl, rfl⟩ | ⟨k, hk, stands, rfl, rfl, rfl⟩
      | ⟨k, hk, second, beyond, rfl, rfl, rfl⟩ | ⟨k, p, r, lo, hi, hk, rfl, record, rfl, rfl⟩
      | ⟨k, p, lo, hi, beyond, rfl, rfl, rfl⟩ | ⟨a, d, ha, rfl, aged, rfl, rfl⟩ | ⟨a, ha, rfl, aged, rfl, rfl⟩
      | ⟨e, lo, hi, rfl, rfl, rfl⟩
    · exact identify_reads taken hu row
    · exact readStatus_reads taken hu row hp
    · exact readTable_reads taken hu row hc entry
    · exact readTable_absent taken hu row hc entry
    · exact readAttributes_reads taken hu row lo hi
    · exact readActiveList_reads taken hu row hk stands
    · exact readActiveList_absent taken hu row hk second beyond
    · exact readTrip_reads taken hu row lo hi hk record
    · exact readTrip_absent taken hu row lo hi beyond
    · exact readTestLog_reads taken hu row ha aged
    · exact readTestLog_absent taken hu row ha aged
    · exact readStation_reads taken hu row lo hi
  · unfold State.attrsPart
    exact congrArg (_ ++ ·) (List.flatMap_congr fun i _ => attrFields_eq s i)
  · rw [hl]
    exact listPart_eq s k
  · unfold tripPart
    rw [none]
    rfl
  · unfold tripPart
    rw [some]
    rfl
  · rw [hc]
    exact stationPart_eq s e

end Sys2Proof.Proofs
end

section
/-!
Lemmas for the obligation on the OUT arbiter: the choice of the next frame, and what stands while OUT sends one (R15, R19).
-/

namespace Sys2Proof.Machine

/-! The choice (R19). -/

/-- The state with the first insert entry taken by OUT (R19, R20). -/
def insertTaken (e : InsEntry) (rest : List InsEntry) (s : State) : State :=
  { s with ring := { s.ring with
    ins := rest, consec := 0, insSeq := s.ring.insSeq + 1#8
    sending := some (.inserted e.cls (e.toFrame s.ring.insSeq)) } }

/-- The state with the head of the forward queue taken by OUT (R19). -/
def forwardTaken (s : State) : State :=
  { s with ring := { s.ring with sending := some .forward, consec := min 8 (s.ring.consec + 1) } }

theorem choose_insert {s : State} {e : InsEntry} {rest : List InsEntry} (queue : s.ring.ins = e :: rest)
    (turn : s.ring.fwd = [] ∨ s.ring.consec = 8) : choose s = insertTaken e rest s := by
  unfold choose
  dsimp only
  rw [queue]
  refine if_pos ?_
  rw [Bool.or_eq_true, List.isEmpty_iff, beq_iff_eq]
  exact turn

theorem choose_forward {s : State} (waits : s.ring.fwd ≠ []) (turn : s.ring.ins = [] ∨ s.ring.consec ≠ 8) :
    choose s = forwardTaken s := by
  unfold choose
  dsimp only
  split
  · rename_i e rest queue
    refine if_neg fun k => ?_
    rw [Bool.or_eq_true, List.isEmpty_iff, beq_iff_eq] at k
    rcases turn with none | turn
    · rw [queue] at none
      cases none
    · exact k.elim waits turn
  · rfl
  · rename_i none
    exact absurd none waits

theorem choose_idle {s : State} (none : s.ring.fwd = []) (empty : s.ring.ins = []) :
    choose s = { s with ring := { s.ring with sending := Option.none } } := by
  unfold choose
  dsimp only
  rw [none, empty]

/-! What stands while OUT sends (R19). -/

theorem joinInsert_sending (e : InsEntry) {s : State} (h : s.ring.sending ≠ none) : TripKept s (joinInsert e s) := by
  rw [joinInsert_busy e h]
  constructor <;> rfl

theorem handTest_sending (x : Axis) (v : Int) (q : Nat) {s : State} (h : s.ring.sending ≠ none) :
    TripKept s (handTest x v q s) := by
  unfold handTest handTestRef
  split
  · have joined := joinInsert_sending
      { cls := .testRef, dst := byte (s.act.stations[‹Fin 16›]).number, src := s.ownByte, kind := 1#4, life := s.insLife
        payload := testPayload x v q } (s := { s with ring := { s.ring with ins := s.ring.ins.filter fun x => !x.isTest } }) h
    refine TripKept.trans ?_ joined
    constructor <;> rfl
  · exact .refl s

theorem tester_kept (s : State) (t : Tester) : TripKept s { s with tester := t } := by
  constructor <;> rfl

theorem periodicTest_sending (c : Chan) {s : State} (h : s.ring.sending ≠ none) : TripKept s (periodicTest c s) := by
  unfold periodicTest
  dsimp only
  split
  · exact (tester_kept s _).trans (handTest_sending _ _ _ h)
  · exact handTest_sending _ _ _ h

theorem beginSegment_sending {s : State} (h : s.ring.sending ≠ none) : TripKept s (beginSegment s) := by
  unfold beginSegment
  split
  · exact .refl s
  · split
    · exact (tester_kept s _).trans (periodicTest_sending _ h)
    · exact endTest_kept ..

theorem segmentBegin_sending {s : State} (h : s.ring.sending ≠ none) : TripKept s (segmentBegin s) := by
  unfold segmentBegin
  split
  · exact beginSegment_sending h
  · exact .refl s

theorem secondFinal_sending {s : State} (h : s.ring.sending ≠ none) : TripKept s (secondFinal s) := by
  unfold secondFinal
  split
  · split
    · exact .refl s
    · exact (tester_kept s _).trans (handTest_sending _ _ _ h)
  · exact .refl s

theorem testPoll_sending {s : State} (h : s.ring.sending ≠ none) : TripKept s (testPoll s) := by
  have final := secondFinal_sending h
  exact final.trans (segmentBegin_sending (by rw [final.sending]; exact h))

theorem buildOne_sending {s : State} (h : s.ring.sending ≠ none) : TripKept s (buildOne s) := by
  have marks : ∀ o b, TripKept s { s with owed := o, statusOwed := b } := fun o b => by constructor <;> rfl
  unfold buildOne
  split
  · split
    · exact (marks s.owed false).trans (joinInsert_sending _ h)
    · split
      · exact (marks (s.owed.set _ false) s.statusOwed).trans (joinInsert_sending _ h)
      · exact .refl s
  · exact .refl s

theorem buildNotices_sending (n : Nat) : ∀ {s}, s.ring.sending ≠ none → TripKept s (buildNotices n s) := by
  induction n with
  | zero => exact fun _ => .refl _
  | succ n ih =>
    intro s h
    have one := buildOne_sending h
    exact one.trans (ih (by rw [one.sending]; exact h))

theorem finish_sending {s : State} (h : s.ring.sending ≠ none) : TripKept s (finish s) := buildNotices_sending 16 h

/-! What stands whether or not OUT sends. -/

/-- The forward queue, the counters and the records of frames taken stand. -/
structure QueueKept (s t : State) : Prop where
  fwd : t.ring.fwd = s.ring.fwd
  counters : t.ring.counters = s.ring.counters
  feedback : t.feedback = s.feedback
  stations : t.stations = s.stations
  tables : t.tables = s.tables
  attrs : t.attrs = s.attrs

namespace QueueKept

theorem refl (s : State) : QueueKept s s := ⟨rfl, rfl, rfl, rfl, rfl, rfl⟩

theorem trans {a b c : State} (h : QueueKept a b) (k : QueueKept b c) : QueueKept a c :=
  ⟨k.fwd.trans h.fwd, k.counters.trans h.counters, k.feedback.trans h.feedback, k.stations.trans h.stations,
    k.tables.trans h.tables, k.attrs.trans h.attrs⟩

theorem of_kept {s t : State} (h : TripKept s t) : QueueKept s t :=
  ⟨h.fwd, h.counters, h.feedback, h.stations, h.tables, h.attrs⟩

theorem of_notice {s t : State} (h : NoticeKept s t) : QueueKept s t :=
  ⟨h.fwd, h.counters, (congrArg State.feedback h.rest :), (congrArg State.stations h.rest :),
    (congrArg State.tables h.rest :), (congrArg State.attrs h.rest :)⟩

theorem tester (s : State) (t : Tester) : QueueKept s { s with tester := t } := of_kept (tester_kept s t)

theorem handTest (x : Axis) (v : Int) (q : Nat) (s : State) : QueueKept s (handTest x v q s) := by
  unfold Machine.handTest handTestRef
  split
  · refine trans ?_ (of_notice (joinInsert_kept _ _))
    constructor <;> rfl
  · exact .refl s

theorem periodicTest (c : Chan) (s : State) : QueueKept s (periodicTest c s) := by
  unfold Machine.periodicTest
  dsimp only
  split
  · exact (tester s _).trans (handTest ..)
  · exact handTest ..

theorem beginSegment (s : State) : QueueKept s (beginSegment s) := by
  unfold Machine.beginSegment
  split
  · exact .refl s
  · split
    · exact (tester s _).trans (periodicTest ..)
    · exact of_kept (endTest_kept ..)

theorem testPoll (s : State) : QueueKept s (testPoll s) := by
  have final : QueueKept s (secondFinal s) := by
    unfold secondFinal
    split
    · split
      · exact .refl s
      · exact (tester s _).trans (handTest ..)
    · exact .refl s
  refine final.trans ?_
  show QueueKept _ (segmentBegin (secondFinal s))
  unfold segmentBegin
  split
  · exact beginSegment _
  · exact .refl _

theorem sent (s : State) : QueueKept (countSent s) (finish (Machine.testPoll (choose (countSent s)))) :=
  ((of_notice (choose_kept _)).trans (testPoll _)).trans (of_notice (finish_kept _))

end QueueKept

/-- Behind a frame that OUT has taken, what a poll of the tester and the notices leave of the ring. -/
theorem sent_taken {s : State} (h : (choose (countSent s)).ring.sending ≠ none) :
    TripKept (choose (countSent s)) (finish (testPoll (choose (countSent s)))) := by
  have poll := testPoll_sending h
  exact poll.trans (finish_sending (by rw [poll.sending]; exact h))

theorem exec_sendingComplete {s : State} (sends : s.ring.sending ≠ none) (plain : s.sendsRestart = false) :
    exec .sendingComplete s = .next (finish (testPoll (choose (countSent s)))) := by
  have rule : exec .sendingComplete s = .next (finish (sendingDone [] s)) := rfl
  rw [rule]
  unfold sendingDone
  rw [if_pos (Option.isSome_iff_ne_none.mpr sends), plain, if_neg Bool.false_ne_true]

/-! The counts (R12, R15). -/

theorem countSent_forward {s : State} {e : FwdEntry} {rest : List FwdEntry} (sends : s.ring.sending = some .forward)
    (queue : s.ring.fwd = e :: rest) :
    (countSent s).ring.fwd = rest ∧ (countSent s).counter .forwarded = bumpWord (s.counter .forwarded)
      ∧ (countSent s).counter .rewritten
          = if e.frame.payload = e.taken then s.counter .rewritten else bumpWord (s.counter .rewritten) := by
  unfold countSent
  rw [sends, queue]
  dsimp only
  split
  · exact ⟨rfl, bump_counter_same .., bump_counter_ne _ (by decide)⟩
  · refine ⟨rfl, (bump_counter_ne _ (by decide)).trans (bump_counter_same ..), ?_⟩
    rw [bump_counter_same]
    exact congrArg bumpWord (bump_counter_ne _ (by decide))

theorem countSent_inserted {s : State} {c : InsClass} {f : Frame} (sends : s.ring.sending = some (.inserted c f)) :
    countSent s = bump .inserted s := by
  unfold countSent
  rw [sends]

/-- The counts leave the insert queue and OUT's turn, and take the head of the forward queue when it was sent. -/
structure Counted (s t : State) : Prop where
  rest : t = { s with ring := t.ring }
  ins : t.ring.ins = s.ring.ins
  consec : t.ring.consec = s.ring.consec
  insSeq : t.ring.insSeq = s.ring.insSeq
  fwd : t.ring.fwd = if s.ring.sending = some .forward then s.ring.fwd.tail else s.ring.fwd

theorem countSent_counted (s : State) : Counted s (countSent s) := by
  unfold countSent
  split
  · rename_i idle
    exact ⟨rfl, rfl, rfl, rfl, by rw [idle, if_neg (by simp)]⟩
  · rename_i sends
    split
    · rename_i empty
      exact ⟨rfl, rfl, rfl, rfl, by rw [sends, if_pos rfl, empty]; rfl⟩
    · rename_i queue
      dsimp only
      split <;> exact ⟨rfl, rfl, rfl, rfl, by rw [sends, if_pos rfl, queue]; rfl⟩
  · rename_i sends
    exact ⟨rfl, rfl, rfl, rfl, by rw [sends, if_neg (by simp)]; rfl⟩

/-- OUT's choice at the end of a sending, read in the state the sending ends in (R19). -/
theorem sent_choice {s t : State}
    (ht : t = finish (testPoll (choose (countSent s)))) {q : List FwdEntry}
    (hq : q = if s.ring.sending = some .forward then s.ring.fwd.tail else s.ring.fwd) :
    (∀ e rest, s.ring.ins = e :: rest → (q = [] ∨ s.ring.consec = 8) →
      t.ring.sending = some (.inserted e.cls (e.toFrame s.ring.insSeq)) ∧ t.ring.insSeq = s.ring.insSeq + 1#8
        ∧ t.ring.consec = 0)
      ∧ (q ≠ [] → (s.ring.ins = [] ∨ s.ring.consec ≠ 8) →
          t.ring.sending = some .forward ∧ t.ring.fwd = q ∧ t.ring.insSeq = s.ring.insSeq
            ∧ t.ring.consec = min 8 (s.ring.consec + 1)) := by
  have counted := countSent_counted s
  have taken := sent_taken (s := s)
  rw [← ht] at taken
  generalize countSent s = w at counted taken
  have ins := counted.ins
  have consec := counted.consec
  have seq := counted.insSeq
  have fwd := counted.fwd.trans hq.symm
  constructor
  · intro e rest queue turn
    have chosen := choose_insert (s := w) (ins.trans queue) (by rw [fwd, consec]; exact turn)
    rw [chosen] at taken
    have kept := taken (Option.some_ne_none _)
    have sending : t.ring.sending = some (.inserted e.cls (e.toFrame w.ring.insSeq)) := kept.sending
    have insSeq : t.ring.insSeq = w.ring.insSeq + 1#8 := (congrArg Ring.insSeq kept.ring :)
    have turnOver : t.ring.consec = 0 := (congrArg Ring.consec kept.ring :)
    rw [seq] at sending insSeq
    exact ⟨sending, insSeq, turnOver⟩
  · intro waits turn
    have chosen := choose_forward (s := w) (by rw [fwd]; exact waits) (by rw [ins, consec]; exact turn)
    rw [chosen] at taken
    have kept := taken (Option.some_ne_none _)
    have queue : t.ring.fwd = w.ring.fwd := kept.fwd
    have insSeq : t.ring.insSeq = w.ring.insSeq := (congrArg Ring.insSeq kept.ring :)
    have turnOver : t.ring.consec = min 8 (w.ring.consec + 1) := (congrArg Ring.consec kept.ring :)
    rw [fwd] at queue
    rw [seq] at insSeq
    rw [consec] at turnOver
    exact ⟨kept.sending, queue, insSeq, turnOver⟩

/-- The end of a sending (R15, R19). -/
theorem sending_ends {s t : State} (ht : t = finish (testPoll (choose (countSent s)))) :
    (s.ring.sending = some .forward → ∀ e rest, s.ring.fwd = e :: rest →
      t.ring.fwd = rest ∧ t.counter .forwarded = bumpWord (s.counter .forwarded)
        ∧ t.counter .rewritten =
            (if e.frame.payload = e.taken then s.counter .rewritten else bumpWord (s.counter .rewritten)))
      ∧ (∀ c f, s.ring.sending = some (.inserted c f) →
          t.ring.fwd = s.ring.fwd ∧ t.counter .inserted = bumpWord (s.counter .inserted)) := by
  have kept := QueueKept.sent s
  rw [← ht] at kept
  have counter : ∀ c, t.counter c = (countSent s).counter c := fun c => by
    unfold State.counter
    rw [kept.counters]
  constructor
  · intro sends e rest queue
    rw [kept.fwd, counter, counter]
    exact countSent_forward sends queue
  · intro c f sends
    rw [kept.fwd, counter, countSent_inserted sends]
    exact ⟨rfl, bump_counter_same ..⟩

theorem countSent_records (s : State) : (countSent s).feedback = s.feedback ∧ (countSent s).stations = s.stations
    ∧ (countSent s).tables = s.tables ∧ (countSent s).attrs = s.attrs := by
  have rest := (countSent_counted s).rest
  generalize countSent s = w at rest
  generalize w.ring = r at rest
  subst rest
  exact ⟨rfl, rfl, rfl, rfl⟩

end Sys2Proof.Machine
end

section
/-! The OUT arbiter. -/

namespace Sys2Proof.Proofs

open Sys2Proof.Machine

/-- Settles O39: the choice of the next frame, and the end of a sending. -/
theorem outArbiter : Obligations.OutArbiter := by
  unfold Obligations.OutArbiter
  refine ⟨fun s => ⟨fun e rest => choose_insert, choose_forward, choose_idle⟩, fun s plain => ?_⟩
  by_cases sends : s.ring.sending = none
  · have rule : exec .sendingComplete s = .next (finish s) := by
      refine Eq.trans (b := .next (finish (sendingDone [] s))) rfl ?_
      unfold sendingDone
      rw [sends]
      rfl
    have kept := QueueKept.of_notice (finish_kept s)
    refine ⟨_, rule, fun other => ?_, fun c f other => ?_, fun _ => finish_rest s, fun other => absurd sends other,
      kept.feedback, kept.stations, kept.tables, kept.attrs⟩
    · rw [sends] at other
      cases other
    · rw [sends] at other
      cases other
  · obtain ⟨forwarded, inserted⟩ := sending_ends (s := s) rfl
    have kept := QueueKept.sent s
    obtain ⟨feedback, stations, tables, attrs⟩ := countSent_records s
    exact ⟨_, exec_sendingComplete sends plain, forwarded, inserted, fun none => absurd none sends,
      fun _ q hq => sent_choice rfl hq, kept.feedback.trans feedback, kept.stations.trans stations,
      kept.tables.trans tables, kept.attrs.trans attrs⟩

end Sys2Proof.Proofs
end

section
/-!
Lemmas for the obligation on the notices: their building, and their fields (R18, R142, R204).
-/

namespace Sys2Proof.Machine

/-! A mark cleared stays cleared to the end of the command (R18). -/

theorem joinInsert_marks (e : InsEntry) (s : State) :
    (joinInsert e s).statusOwed = s.statusOwed ∧ (joinInsert e s).owed = s.owed := by
  unfold joinInsert
  rw [chooseIfIdle_rest]
  exact ⟨rfl, rfl⟩

theorem buildStatus_marks (s : State) : (buildStatus s).statusOwed = false ∧ (buildStatus s).owed = s.owed :=
  joinInsert_marks ..

theorem buildAlarm_marks (p : Fin 48) (s : State) :
    (buildAlarm p s).statusOwed = s.statusOwed ∧ (buildAlarm p s).owed = s.owed.set p false := joinInsert_marks ..

theorem cleared_set {v : Vector Bool 48} {p : Fin 48} (h : v[p] = false) (q : Fin 48) : (v.set q false)[p] = false := by
  by_cases same : q.val = p.val
  · exact Fin.ext same ▸ Vector.getElem_set_self ..
  · exact (Vector.getElem_set_ne q.isLt p.isLt same).trans h

theorem owed_congr {v w : Vector Bool 48} (h : v = w) (p : Fin 48) : v[p] = w[p] := by
  rw [h]

theorem buildOne_cleared {s : State} :
    (s.statusOwed = false → (buildOne s).statusOwed = false)
      ∧ ∀ p : Fin 48, s.owed[p] = false → (buildOne s).owed[p] = false := by
  unfold buildOne
  split
  · split
    · obtain ⟨status, alarm⟩ := buildStatus_marks s
      exact ⟨fun _ => status, fun p h => (owed_congr alarm p).trans h⟩
    · split
      · rename_i q _
        obtain ⟨status, alarm⟩ := buildAlarm_marks q s
        exact ⟨fun h => status.trans h, fun p h => (owed_congr alarm p).trans (cleared_set h q)⟩
      · exact ⟨id, fun _ => id⟩
  · exact ⟨id, fun _ => id⟩

theorem buildNotices_cleared (n : Nat) : ∀ {s : State},
    (s.statusOwed = false → (buildNotices n s).statusOwed = false)
      ∧ ∀ p : Fin 48, s.owed[p] = false → (buildNotices n s).owed[p] = false := by
  induction n with
  | zero => exact ⟨id, fun _ => id⟩
  | succ n ih =>
    intro s
    obtain ⟨status, alarm⟩ := buildOne_cleared (s := s)
    exact ⟨fun h => ih.1 (status h), fun p h => ih.2 p (alarm p h)⟩

/-! The commands that build one (R18). -/

theorem finish_noRoom {s : State} (h : s.noticeRoom = false) : finish s = s := by
  have one : buildOne s = s := by
    unfold buildOne
    rw [h, if_neg Bool.false_ne_true]
  unfold finish
  generalize 16 = n
  induction n with
  | zero => rfl
  | succ n ih => exact (congrArg (buildNotices n) one).trans ih

theorem noticeRoom_of_bad {s : State} (h : s.ownValid = false) : s.noticeRoom = false := by
  unfold State.noticeRoom
  rw [h, Bool.false_and]

theorem exec_statusNotice (s : State) :
    exec .statusNotice s = .next (finish (if s.noticeRoom && s.statusBuildable then buildStatus s else s)) := rfl

theorem exec_statusNotice_builds {s : State} (room : s.noticeRoom = true) (owed : s.statusBuildable = true) :
    exec .statusNotice s = .next (finish (buildStatus s)) := by
  rw [exec_statusNotice, room, owed]
  rfl

theorem exec_statusNotice_noRoom {s : State} (h : s.noticeRoom = false) : exec .statusNotice s = .next s := by
  rw [exec_statusNotice, h, Bool.false_and, if_neg Bool.false_ne_true, finish_noRoom h]

theorem exec_alarmNotice_builds {s : State} {p : Fin 48} (room : s.noticeRoom = true) (status : s.statusBuildable = false)
    (owed : s.alarmBuildable = some p) : exec .alarmNotice s = .next (finish (buildAlarm p s)) := by
  have rule : exec .alarmNotice s = execAlarmNotice s := by unfold exec; rfl
  rw [rule]
  unfold execAlarmNotice done
  rw [room, status, owed]
  rfl

theorem exec_alarmNotice_noRoom {s : State} (h : s.noticeRoom = false) : exec .alarmNotice s = .next s := by
  have rule : exec .alarmNotice s = execAlarmNotice s := by unfold exec; rfl
  rw [rule]
  unfold execAlarmNotice done
  rw [h, Bool.false_and, if_neg Bool.false_ne_true, finish_noRoom h]

/-! The fields (R142, R204). -/

theorem unack_eq (st : PState) : st.unack = (st == .activeUnack || st == .returnedUnack) := by
  cases st <;> rfl

theorem unackCount_eq (s : State) : s.unackCount = ((List.finRange 48).filter fun p =>
    (s.alarm.points[p]).state == .activeUnack || (s.alarm.points[p]).state == .returnedUnack).length := by
  unfold State.unackCount
  simp only [unack_eq]

theorem statusFields_eq (s : State) : s.statusFields =
    [byte s.mode.code, byte s.ctl.reason.code]
      ++ (match s.ctl.slot with | none => [0#8] | some v => [1#8, byte v.target.code, byte v.wait.code])
      ++ [byte s.ctl.refusal.code, byte s.brakes.hoist.state.code, byte s.brakes.drag.state.code,
          byte s.brakes.swing.state.code, byte s.brakes.walk.state.code, byte s.trip.field.code,
          byte s.trip.brake.code, byte s.trip.queue.length] ++ encNat 2 s.trip.notStored
      ++ [byte s.alarm.list.length,
          byte ((List.finRange 48).filter fun p => (s.alarm.points[p]).state == .activeUnack
            || (s.alarm.points[p]).state == .returnedUnack).length,
          byte s.tester.status.code,
          byte (if s.tester.status = .neverRun then 100
                else (100 - quotient (100 * s.tester.completed) s.tester.count) / 10 * 10)]
      ++ encNat 2 s.walk.steps ++ [byte s.store.state.code, flagByte s.store.attrsLost] := by
  rw [← unackCount_eq]
  unfold State.statusFields slotBytes State.percentLeft
  generalize s.unackCount = n
  cases s.ctl.slot <;> rfl

theorem alarmFields_eq (s : State) (p : Fin 48) : s.alarmFields p =
    [byte (p.val + 1), byte (s.alarm.points[p]).state.code, flagByte (s.alarm.points[p]).mark]
      ++ (if (s.act.points[p]).enabled then [1#8, byte (s.act.points[p]).cls.code] else [0#8])
      ++ encInt 5 (s.alarm.points[p]).chValue ++ [flagByte (s.alarm.points[p]).chValid]
      ++ encNat 4 ((s.alarm.points[p]).chTime % 4294967296) := by
  unfold State.alarmFields low32
  dsimp only
  cases (s.act.points[p]).enabled <;> rfl

theorem encNat_eq (n v : Nat) : encNat n v = (List.range n).map fun i => byte (v / 256 ^ (n - 1 - i)) := by
  induction n with
  | zero => rfl
  | succ n ih =>
    unfold encNat
    rw [ih, List.range_succ_eq_map, List.map_cons, List.map_map]
    refine congrArg₂ _ rfl (List.map_congr_left fun i _ => ?_)
    show byte (v / 256 ^ (n - 1 - i)) = byte (v / 256 ^ (n + 1 - 1 - (i + 1)))
    rw [show n + 1 - 1 - (i + 1) = n - 1 - i by omega]

theorem namesByPosition : NamesByPosition := by
  unfold NamesByPosition
  refine ⟨?_, ?_, ?_, fun d => ?_, ?_⟩
  case refine_4 => rfl
  all_goals decide

end Sys2Proof.Machine
end

section
/-! The notices. -/

namespace Sys2Proof.Proofs

open Sys2Proof.Machine

/-- Settles O40: the notices are built when there is room, and their fields. -/
theorem noticesBuilt : Obligations.NoticesBuilt := by
  unfold Obligations.NoticesBuilt
  refine ⟨fun s room owed => ⟨_, exec_statusNotice_builds room owed, (buildNotices_cleared 16).1 (buildStatus_marks s).1, ?_,
      finish_inserted (joinInsert_self (s := { s with statusOwed := false }) rfl)⟩,
    fun s p room status owed => ⟨_, exec_alarmNotice_builds room status owed, (buildNotices_cleared 16).2 p ?_, ?_,
      finish_inserted (joinInsert_self (s := { s with owed := s.owed.set p false }) rfl)⟩,
    fun s bad => ⟨exec_statusNotice_noRoom (noticeRoom_of_bad bad), exec_alarmNotice_noRoom (noticeRoom_of_bad bad)⟩,
    statusFields_eq, alarmFields_eq, namesByPosition, encNat_eq, fun _ _ => rfl, rfl, rfl⟩
  · exact ((buildStatus_kept s).trans (finish_kept _)).rest
  · exact (owed_congr (buildAlarm_marks p s).2 p).trans (Vector.getElem_set_self ..)
  · exact ((buildAlarm_kept p s).trans (finish_kept _)).rest

end Sys2Proof.Proofs
end

section
/-!
Lemmas for the obligations on the reactions that lead to PARKED and on the end of a DWELL wait (R32, R33, R38 to R41).
-/

namespace Sys2Proof.Machine

/-! The change to PARKED (R31). -/

/-- What a change to PARKED from a mode other than WALKING to PARKED leaves (R31). -/
structure ParkedFrom (s t : State) : Prop where
  ctl : t.ctl = enteredCtl .parked s
  trip : t.trip = movedTrip .parked s
  brakes : t.brakes = s.brakes
  feedback : t.feedback = s.feedback
  walk : t.walk = movedWalk s.mode .parked s
  armed : Rearmed s t

theorem changeMode_parked {s t : State} (ht : t = finish (changeMode .parked s)) (none : s.heldTrips = [])
    (q : EpisodeUnwatched s) : ParkedFrom s t := by
  have armed := modeSteps_armed (new := .parked) (by decide) q
  have rest := modeSteps_quiet (new := .parked) (by decide) q
  rw [changeMode_steps (by decide) q none] at ht
  refine ⟨by rw [ht, finish_ctl, rest], by rw [ht, finish_trip, rest], by rw [ht, finish_brakes, rest], ?_,
    by rw [ht, finish_walk, rest], ?_⟩
  · rw [ht, finish_feedback, rest]
  · rw [ht]
    exact finish_rearmed armed

/-! INIT (R32, R33). -/

theorem exec_initToParked (s : State) : exec .initToParked s = .next (finish (initTest s)) := rfl

theorem initTest_ready {s : State} (m : s.mode = .init) (h : s.startReady = true) :
    initTest s = changeMode .parked s := by
  unfold initTest
  rw [if_pos m, if_pos h]

theorem initTest_waits {s : State} (m : s.mode = .init) (h : s.startReady = false) : initTest s = updateReason s := by
  unfold initTest
  rw [if_pos m, h, if_neg Bool.false_ne_true]

theorem updateReason_init {s : State} (m : s.mode = .init) :
    (updateReason s).ctl = { s.ctl with reason := s.workedReason }
      ∧ updateReason s = { s with ctl := (updateReason s).ctl, ring := (updateReason s).ring, owed := (updateReason s).owed
                                  statusOwed := (updateReason s).statusOwed } := by
  unfold updateReason
  rw [if_pos m]
  exact ⟨rfl, rfl⟩

theorem ownValid_iff (s : State) : s.ownValid = true ↔ StationGood s := by
  unfold State.ownValid StationGood
  rw [Bool.and_eq_true, decide_eq_true_iff, decide_eq_true_iff]

theorem ownValid_false {s : State} (h : ¬StationGood s) : s.ownValid = false :=
  Bool.eq_false_iff.mpr (mt (ownValid_iff s).mp h)

/-- With tables in force the reason waits on the records held alone (R32). -/
theorem workedReason_valid {s : State} (good : StationGood s) (valid : s.tables.valid = true) :
    (RecordsHeld s → s.workedReason = .holdRecords) ∧ (¬RecordsHeld s → s.workedReason = .waiting) := by
  have held : (s.tripHold && !s.trip.queue.isEmpty) = true ↔ RecordsHeld s := by
    unfold State.tripHold RecordsHeld
    rw [valid, Bool.true_and, Bool.and_eq_true, Bool.not_eq_true', List.isEmpty_eq_false_iff]
  unfold State.workedReason
  rw [(ownValid_iff s).mpr good, valid]
  constructor
  · intro h
    rw [held.mpr h]
    rfl
  · intro h
    rw [Bool.eq_false_iff.mpr (mt held.mp h)]
    rfl

theorem workedReason_first (s : State) :
    (¬StationGood s → s.workedReason = .badStation)
      ∧ (StationGood s → s.tables.valid = false → s.workedReason = .noTables)
      ∧ (StationGood s → s.tables.valid = true → RecordsHeld s → s.workedReason = .holdRecords)
      ∧ (StationGood s → s.tables.valid = true → ¬RecordsHeld s → s.workedReason = .waiting) := by
  refine ⟨fun bad => ?_, fun good invalid => ?_, fun good valid => (workedReason_valid good valid).1,
    fun good valid => (workedReason_valid good valid).2⟩
  · unfold State.workedReason
    rw [ownValid_false bad]
    rfl
  · rw [workedReason_invalid invalid, (ownValid_iff s).mpr good, if_pos rfl]

/-- The test of the start conditions in INIT (R33). -/
theorem init_tested {s t : State} (ht : t = finish (initTest s)) (m : s.mode = .init) (none : s.heldTrips = []) :
    (s.startReady = true →
      t.mode = .parked ∧ t.trip = { s.trip with field := .energised, brake := .energised } ∧ t.ctl.reason = .none
        ∧ t.ctl.slot = Option.none ∧ t.brakes = s.brakes ∧ t.feedback = s.feedback ∧ Rearmed s t)
      ∧ (s.startReady = false →
          t.ctl = { s.ctl with reason := s.workedReason }
            ∧ t = { s with ctl := t.ctl, ring := t.ring, owed := t.owed, statusOwed := t.statusOwed }) := by
  constructor
  · intro ready
    rw [initTest_ready m ready] at ht
    have parked := changeMode_parked ht none fun dig => by rw [m] at dig; cases dig
    refine ⟨congrArg ModeCtl.mode parked.ctl, parked.trip.trans (if_pos ⟨m, rfl⟩), ?_, congrArg ModeCtl.slot parked.ctl,
      parked.brakes, parked.feedback, parked.armed⟩
    exact (congrArg ModeCtl.reason parked.ctl).trans (if_pos m)
  · intro waits
    rw [initTest_waits m waits] at ht
    obtain ⟨ctl, rest⟩ := updateReason_init m
    exact ⟨by rw [ht, finish_ctl, ctl], finish_ctlOnly rest ht⟩

/-! Parking completes (R40). -/

theorem exec_parkingComplete (s : State) : exec .parkingComplete s = .next (finish (parkingTest s)) := rfl

theorem parking_completes {s t : State} (ht : t = finish (parkingTest s))
    (slot : s.ctl.slot = some { target := .park, wait := .brakes }) (none : s.heldTrips = []) (set : s.allSet = true)
    (mode : s.mode = .walking ∨ (s.mode = .dig ∧ (s.tight.start = Option.none ∨ s.pointsOn 37 = []))) :
    t.mode = .parked ∧ t.ctl.slot = Option.none ∧ t.ctl.hold = .none ∧ t.ctl.entryTime = s.now
      ∧ t.trip = s.trip ∧ t.brakes = s.brakes ∧ Rearmed s t := by
  have serving : s.mode = .dig ∨ s.mode = .walking := mode.symm.imp_left And.left
  have quiet : EpisodeUnwatched s := fun dig => mode.elim (fun m => by rw [m] at dig; cases dig) And.right
  have started : s.mode ≠ .init := fun k => by rw [k] at serving; cases serving <;> contradiction
  have test : parkingTest s = changeMode .parked s := if_pos ⟨serving, slot, set⟩
  rw [test] at ht
  have parked := changeMode_parked ht none quiet
  exact ⟨congrArg ModeCtl.mode parked.ctl, congrArg ModeCtl.slot parked.ctl, congrArg ModeCtl.hold parked.ctl,
    congrArg ModeCtl.entryTime parked.ctl, parked.trip.trans (if_neg fun k => started k.1), parked.brakes, parked.armed⟩

theorem parkingTest_unset {s : State} (h : s.allSet = false) : parkingTest s = s :=
  if_neg fun k => by rw [h] at k; cases k.2.2

/-! The wait for HOME ends (R41). -/

theorem exec_homeWaitEnd (s : State) :
    exec .homeWaitEnd s = .next (finish (if s.walk.phase = some .home then homeReport s else s)) := by
  unfold exec
  rfl

theorem exec_homeWaitEnd_home {s : State} (m : s.mode = .walking)
    (slot : s.ctl.slot = some { target := .park, wait := .homePhase }) (home : s.walk.phase = some .home) :
    exec .homeWaitEnd s = .next (finish (parkWith .walkChannel (withCtl s.ctl s.statusOwed s))) := by
  have report : homeReport s = parkWith .walkChannel (withCtl s.ctl s.statusOwed s) := if_pos ⟨m, slot⟩
  rw [exec_homeWaitEnd, if_pos home, report]

/-- The HOME report with a channel still not SET after the set-all (R41). -/
theorem homeWait_parks {s t : State} (ht : t = finish (parkWith .walkChannel (withCtl s.ctl s.statusOwed s)))
    (m : s.mode = .walking) (unset : (parkingSetAll s).allSet = false) :
    t.mode = .walking ∧ t.ctl.slot = some { target := .park, wait := .brakes } ∧ t.ctl.hold = .walkChannel
      ∧ t.brakes.walk.state ≠ .released ∧ t.brakes.walk.state ≠ .releasePending
      ∧ t = { s with ctl := t.ctl, brakes := t.brakes, ring := t.ring, owed := t.owed, statusOwed := t.statusOwed } := by
  obtain ⟨ctl, brakes, rest⟩ := parkWith_waits ht unset
  obtain ⟨pending, released⟩ := (parkingSetAll_sets .walk s).1
  refine ⟨(congrArg ModeCtl.mode ctl :).trans m, (congrArg ModeCtl.slot ctl :), (congrArg ModeCtl.hold ctl :), ?_, ?_, rest⟩
  · rw [brakes]
    exact released
  · rw [brakes]
    exact pending

end Sys2Proof.Machine
end

section
/-! The steps of the end of a DWELL wait. -/

namespace Sys2Proof.Machine

theorem exec_dwellExpiry (s : State) : exec .dwellExpiry s = .next (finish (dwellExpired s)) := by
  unfold exec
  rfl

theorem expired_some {s : State} {d : Nat} : s.expired (some d) = true ↔ d ≤ s.now := decide_eq_true_iff

section
variable {s : State} {g : Target} {d : Nat} (slot : s.ctl.slot = some { target := g, wait := .dwell d })
include slot

theorem dwellExpired_early (h : s.now < d) : dwellExpired s = s := by
  unfold dwellExpired
  rw [slot]
  exact if_neg fun k => absurd (expired_some.mp k) (by omega)

theorem dwellExpired_parked (h : d ≤ s.now) (m : s.mode = .parked) (away : g ≠ .park) :
    dwellExpired s = match s.requestCheck with
      | some r => setSlot none (refuse r s)
      | none => enterTarget g s := by
  unfold dwellExpired
  rw [slot]
  refine (if_pos (expired_some.mpr h)).trans ?_
  rw [m]
  cases g with
  | park => exact absurd rfl away
  | dig => rfl
  | walk => rfl

theorem dwellExpired_refuses (h : d ≤ s.now) (m : s.mode = .parked) (away : g ≠ .park) {r : Refused}
    (check : s.requestCheck = some r) : dwellExpired s = setSlot none (refuse r s) := by
  rw [dwellExpired_parked slot h m away, check]

theorem dwellExpired_enters (h : d ≤ s.now) (m : s.mode = .parked) (away : g ≠ .park) (check : s.requestCheck = none) :
    dwellExpired s = enterTarget g s := by
  rw [dwellExpired_parked slot h m away, check]

end

theorem dwellExpired_dig {s : State} {d : Nat} (slot : s.ctl.slot = some { target := .park, wait := .dwell d })
    (h : d ≤ s.now) (m : s.mode = .dig) :
    dwellExpired s = parkWith .digChannels (withCtl s.ctl s.statusOwed s) := by
  unfold dwellExpired
  rw [slot]
  refine (if_pos (expired_some.mpr h)).trans ?_
  rw [m]
  rfl

theorem dwellExpired_walking {s : State} {d : Nat} (slot : s.ctl.slot = some { target := .park, wait := .dwell d })
    (h : d ≤ s.now) (m : s.mode = .walking) : dwellExpired s = beginHomeWait s := by
  unfold dwellExpired
  rw [slot]
  refine (if_pos (expired_some.mpr h)).trans ?_
  rw [m]

/-- The end of a DWELL wait in DIG (R38, R39). -/
theorem dwell_parks {s t : State} (ht : t = finish (parkWith .digChannels (withCtl s.ctl s.statusOwed s)))
    (m : s.mode = .dig) :
    ((parkingSetAll s).allSet = false →
      t.ctl = { s.ctl with slot := some { target := .park, wait := .brakes }, hold := .digChannels }
        ∧ t.brakes = (parkingSetAll s).brakes
        ∧ (∀ c, (t.brakes.get c).state ≠ .releasePending ∧ (t.brakes.get c).state ≠ .released)
        ∧ t = { s with ctl := t.ctl, brakes := t.brakes, ring := t.ring, owed := t.owed, statusOwed := t.statusOwed })
      ∧ ((parkingSetAll s).allSet = true → s.heldTrips = [] → (s.tight.start = none ∨ s.pointsOn 37 = []) →
          ParkedAtOnce s t) := by
  constructor
  · intro unset
    obtain ⟨ctl, brakes, rest⟩ := parkWith_waits ht unset
    refine ⟨ctl, brakes, fun c => ?_, rest⟩
    rw [brakes]
    exact (parkingSetAll_sets c s).1
  · intro set none quiet
    exact (parkWith_parks ht set (.inl m) rfl rfl none fun _ => quiet).1

/-- The refusal at the end of a DWELL wait (R38). -/
theorem dwell_refused {s t : State} {r : Refused} (ht : t = finish (setSlot none (refuse r s))) :
    t.ctl = { s.ctl with refusal := r, slot := none }
      ∧ t = { s with ctl := t.ctl, ring := t.ring, owed := t.owed, statusOwed := t.statusOwed } := by
  have only : setSlot none (refuse r s) = { s with
    ctl := (setSlot none (refuse r s)).ctl, ring := (setSlot none (refuse r s)).ring
    owed := (setSlot none (refuse r s)).owed, statusOwed := (setSlot none (refuse r s)).statusOwed } := rfl
  refine ⟨?_, finish_ctlOnly only ht⟩
  rw [ht, finish_ctl]
  rfl

/-- A request carried out at the end of its DWELL wait (R38). -/
theorem dwell_carriesOut {s t : State} {g : Target} {d : Nat} (ht : t = finish (dwellExpired s)) (m : s.mode = .parked)
    (slot : s.ctl.slot = some { target := g, wait := .dwell d }) (none : s.heldTrips = []) (away : g ≠ .park) :
    (d ≤ s.now → s.requestCheck = Option.none → g = .dig → t.mode = .dig ∧ t.ctl.slot = Option.none)
      ∧ (d ≤ s.now → s.requestCheck = Option.none → g = .walk → WalkTaken s t)
      ∧ (d ≤ s.now → ∀ r, s.requestCheck = some r →
          t.ctl = { s.ctl with refusal := r, slot := Option.none }
            ∧ t = { s with ctl := t.ctl, ring := t.ring, owed := t.owed, statusOwed := t.statusOwed })
      ∧ (s.now < d → OnlyRing s t) := by
  refine ⟨fun due check dig => ?_, fun due check walk => ?_, fun due r check => ?_, fun early => ?_⟩
  · rw [dwellExpired_enters slot due m away check, dig, enterTarget_dig] at ht
    have ctl := (dig_entered ht m none).1
    exact ⟨congrArg ModeCtl.mode ctl, congrArg ModeCtl.slot ctl⟩
  · rw [dwellExpired_enters slot due m away check, walk, enterTarget_walk] at ht
    rw [ht]
    exact (enterWalkPrep_taken rfl m none (requestCheck_uncrossed check)).finish
  · rw [dwellExpired_refuses slot due m away check] at ht
    exact dwell_refused ht
  · rw [dwellExpired_early slot early] at ht
    rw [ht]
    exact finish_rest s

end Sys2Proof.Machine
end

section
/-! The reactions that lead to PARKED, and the end of a DWELL wait. -/

namespace Sys2Proof.Proofs

open Sys2Proof.Machine

/-- Settles O41: the start conditions of INIT, the end of parking, and the end of the wait for HOME. -/
theorem parkedIsEntered : Obligations.ParkedIsEntered := by
  unfold Obligations.ParkedIsEntered
  refine ⟨fun s m none => ⟨_, exec_initToParked s, init_tested rfl m none⟩, startReady_iff, workedReason_first,
    fun s slot none => ⟨_, exec_parkingComplete s, fun set mode => parking_completes rfl slot none set mode, fun unset => ?_⟩,
    fun s m slot => ?_⟩
  · rw [parkingTest_unset unset]
    exact finish_rest s
  · by_cases home : s.walk.phase = some .home
    · refine ⟨_, exec_homeWaitEnd_home m slot home, fun _ unset => homeWait_parks rfl m unset, fun _ set none => ?_,
        fun away => absurd home away⟩
      exact (parkWith_parks rfl set (.inr m) rfl rfl none (walking_unwatched m)).1
    · refine ⟨_, exec_homeWaitEnd s, fun k => absurd k home, fun k => absurd k home, fun _ => ?_⟩
      rw [if_neg home]
      exact finish_rest s

/-- Settles O42: the end of a DWELL wait in PARKED, DIG and WALKING. -/
theorem dwellExpires : Obligations.DwellExpires := by
  unfold Obligations.DwellExpires
  refine ⟨fun s g d m slot none away => ⟨_, exec_dwellExpiry s, dwell_carriesOut rfl m slot none away⟩,
    fun s d _ slot => ⟨_, exec_dwellExpiry s, fun early => ?_, fun due m => ?_, fun due m => ?_⟩⟩
  · rw [dwellExpired_early slot early]
    exact finish_rest s
  · rw [dwellExpired_dig slot due m]
    exact dwell_parks rfl m
  · rw [dwellExpired_walking slot due m]
    exact homeWait_begins rfl m

end Sys2Proof.Proofs
end

section
/-!
Lemmas for the obligation on the end of walk preparation (R42, R117 to R120).
-/

namespace Sys2Proof.Machine

/-! Preparation confirmed, or ended to PARKED (R42, R119). -/

theorem prepConfirmed_walks {s : State} (h : s.prefailCrossed = false) : prepConfirmed s = changeMode .walking s := by
  unfold prepConfirmed
  rw [h, if_neg Bool.false_ne_true]

theorem prepConfirmed_parks {s : State} (h : s.prefailCrossed = true) :
    prepConfirmed s = refuse .attrPrefail (changeMode .parked s) := by
  unfold prepConfirmed
  rw [h, if_pos rfl]

/-- What a preparation that ends to PARKED leaves, the cause recorded (R42, R119). -/
structure PrepParked (r : Refused) (s t : State) : Prop where
  mode : t.mode = .parked
  refusal : t.ctl.refusal = r
  confirm : t.walk.tConfirm = none
  timeout : t.walk.tTimeout = none
  brakes : t.brakes = s.brakes
  trip : t.trip = s.trip
  armed : Rearmed s t

theorem prep_refused {s : State} (r : Refused) (m : s.mode = .walkPrep) (none : s.heldTrips = []) :
    PrepParked r s (refuse r (changeMode .parked s)) := by
  have still : EpisodeUnwatched s := fun dig => by rw [m] at dig; cases dig
  have armed := modeSteps_armed (new := .parked) (by decide) still
  have rest := modeSteps_quiet (new := .parked) (by decide) still
  have trip : movedTrip .parked s = s.trip := if_neg fun k => by rw [m] at k; cases k.1
  rw [changeMode_steps (by decide) still none]
  rw [trip, m] at rest
  generalize modeSteps .parked s = w at armed rest ⊢
  have ctl : w.ctl = enteredCtl .parked s := by rw [rest]
  have walk : w.walk = movedWalk .walkPrep .parked s := by rw [rest]
  have brakes : w.brakes = s.brakes := by rw [rest]
  have unit : w.trip = s.trip := by rw [rest]
  exact { mode := congrArg ModeCtl.mode ctl, refusal := rfl, confirm := congrArg Walk.tConfirm walk
          timeout := congrArg Walk.tTimeout walk, brakes := brakes, trip := unit, armed := rearmed_congr armed rfl rfl rfl }

theorem PrepParked.finish {r : Refused} {s t : State} (h : PrepParked r s t) : PrepParked r s (finish t) where
  mode := by rw [finish_mode]; exact h.mode
  refusal := by rw [finish_ctl]; exact h.refusal
  confirm := by rw [finish_walk]; exact h.confirm
  timeout := by rw [finish_walk]; exact h.timeout
  brakes := by rw [finish_brakes]; exact h.brakes
  trip := by rw [finish_trip]; exact h.trip
  armed := finish_rearmed h.armed

/-! The re-test (R117, R118). -/

theorem prepHolds_false {s : State} (h : ¬PrepReady s) : s.prepHolds = false :=
  Bool.eq_false_iff.mpr (mt (prepHolds_iff s).mp h)

theorem prefailCrossed_false {s : State} (h : ¬PrefailStands s) : s.prefailCrossed = false :=
  Bool.eq_false_iff.mpr (mt (prefailCrossed_iff s).mp h)

section
variable {s : State} (m : s.mode = .walkPrep)
include m

theorem prepRetest_stopped (timer : s.walk.tConfirm = none) :
    prepRetest s = if s.prepHolds then
        if s.act.walk.prepConfirm = 0 then prepConfirmed s
        else { s with walk := { s.walk with tConfirm := some (s.now + s.act.walk.prepConfirm) } }
      else s := by
  unfold prepRetest
  rw [if_pos m, timer]

theorem prepRetest_running {d : Nat} (timer : s.walk.tConfirm = some d) :
    prepRetest s = if s.prepHolds then s else { s with walk := { s.walk with tConfirm := none } } := by
  unfold prepRetest
  rw [if_pos m, timer]

/-- A confirmation with a confirm time of 0 (R118, R42). -/
theorem prepRetest_ends (timer : s.walk.tConfirm = none) (ready : PrepReady s) (zero : s.act.walk.prepConfirm = 0)
    (none : s.heldTrips = []) :
    (¬PrefailStands s → prepRetest s = changeMode .walking s ∧ WalkEntered s (prepRetest s)
        ∧ (WalkClear s → WalkBegun s (prepRetest s)))
      ∧ (PrefailStands s → PrepParked .attrPrefail s (prepRetest s)) := by
  have confirmed : prepRetest s = prepConfirmed s := by
    rw [prepRetest_stopped m timer, (prepHolds_iff s).mpr ready, if_pos rfl, if_pos zero]
  rw [confirmed]
  constructor
  · intro stands
    rw [prepConfirmed_walks (prefailCrossed_false stands)]
    have entered := changeMode_walking rfl m none
    exact ⟨rfl, entered, fun clear => ((entered (.inl clear.1)).1 clear.2).1⟩
  · intro stands
    rw [prepConfirmed_parks ((prefailCrossed_iff s).mpr stands)]
    exact prep_refused .attrPrefail m none

end

/-! The timers (R118, R119). -/

theorem exec_confirmTimerExpiry (s : State) : exec .confirmTimerExpiry s = .next (finish (confirmOut s)) := by
  unfold exec
  rfl

theorem exec_prepTimeoutExpiry (s : State) : exec .prepTimeoutExpiry s = .next (finish (prepOut s)) := by
  unfold exec
  rfl

theorem confirmOut_expired {s : State} (m : s.mode = .walkPrep) (h : s.expired s.walk.tConfirm = true) :
    confirmOut s = if s.prepHolds then prepConfirmed s else { s with walk := { s.walk with tConfirm := none } } := by
  unfold confirmOut
  rw [if_pos ⟨m, h⟩]

theorem prepOut_expired {s : State} (m : s.mode = .walkPrep) (h : s.expired s.walk.tTimeout = true) :
    prepOut s = refuse .walkPrepTimeout (changeMode .parked s) := by
  unfold prepOut
  rw [if_pos ⟨m, h⟩]

/-- The confirm timer's expiry (R118, R42). -/
theorem confirm_expires {s t : State} (m : s.mode = .walkPrep) (none : s.heldTrips = [])
    (expired : s.expired s.walk.tConfirm = true) (ht : t = finish (confirmOut s)) :
    (s.prepHolds = true → s.prefailCrossed = false → t = finish (changeMode .walking s) ∧ WalkEntered s t)
      ∧ (s.prepHolds = true → s.prefailCrossed = true → PrepParked .attrPrefail s t)
      ∧ (s.prepHolds = false → t.mode = .walkPrep ∧ t.walk = { s.walk with tConfirm := Option.none }) := by
  rw [confirmOut_expired m expired] at ht
  refine ⟨fun holds uncrossed => ?_, fun holds crossed => ?_, fun fails => ?_⟩
  · rw [if_pos holds, prepConfirmed_walks uncrossed] at ht
    refine ⟨ht, ?_⟩
    rw [ht]
    exact (changeMode_walking rfl m none).finish
  · rw [if_pos holds, prepConfirmed_parks crossed] at ht
    rw [ht]
    exact (prep_refused .attrPrefail m none).finish
  · rw [fails, if_neg Bool.false_ne_true] at ht
    rw [ht, finish_mode, finish_walk]
    exact ⟨m, rfl⟩

end Sys2Proof.Machine
end

section
/-! The end of walk preparation. -/

namespace Sys2Proof.Proofs

open Sys2Proof.Machine

/-- Settles O43: the re-test of walk preparation, and the expiries of its two timers. -/
theorem walkPreparationEnds : Obligations.WalkPreparationEnds := by
  unfold Obligations.WalkPreparationEnds
  refine ⟨prepHolds_iff, ?retest, fun s m none => ⟨fun expired => ?confirm, fun expired => ?timeout⟩⟩
  case retest =>
    rintro s t rfl
    refine ⟨fun elsewhere => prepRetest_elsewhere elsewhere, fun m => ⟨fun timer fails => ?_, fun timer ready later => ?_,
      fun timer ready zero none => ?_, fun d timer => ⟨fun ready => ?_, fun fails => ?_⟩⟩⟩
    · rw [prepRetest_stopped m timer, prepHolds_false fails, if_neg Bool.false_ne_true]
    · rw [prepRetest_stopped m timer, (prepHolds_iff s).mpr ready, if_pos rfl, if_neg later]
    · obtain ⟨walks, parks⟩ := prepRetest_ends m timer ready zero none
      refine ⟨walks, fun stands => ?_⟩
      have parked := parks stands
      exact ⟨parked.mode, parked.refusal, parked.timeout, parked.brakes⟩
    · rw [prepRetest_running m timer, (prepHolds_iff s).mpr ready, if_pos rfl]
    · rw [prepRetest_running m timer, prepHolds_false fails, if_neg Bool.false_ne_true]
  case confirm =>
    obtain ⟨walks, parks, waits⟩ := confirm_expires m none expired rfl
    refine ⟨_, exec_confirmTimerExpiry s, walks, fun holds crossed => ?_, waits⟩
    have parked := parks holds crossed
    exact ⟨parked.mode, parked.refusal, parked.timeout, parked.brakes⟩
  case timeout =>
    refine ⟨_, exec_prepTimeoutExpiry s, ?_⟩
    rw [prepOut_expired m expired]
    have parked := (prep_refused .walkPrepTimeout m none).finish
    exact ⟨parked.mode, parked.refusal, parked.confirm, parked.timeout, parked.brakes, parked.trip, parked.armed⟩

end Sys2Proof.Proofs
end

section
/-!
What a source handed to the alarm unit, and the trips it may raise, leave of the brake channels: a channel that is SET,
SETTING or in FAULT keeps its record (R63, R123).
-/

namespace Sys2Proof.Machine

/-- A state in which the trip set-all leaves a channel alone (R63). -/
def ChanState.rests (st : ChanState) : Prop := st = .set ∨ st = .setting ∨ st = .fault

/-- A channel that is SET, SETTING or in FAULT keeps its record. -/
structure RestKept (s t : State) : Prop where
  kept : ∀ c, (s.brakes.get c).state.rests → t.brakes.get c = s.brakes.get c

namespace RestKept

theorem of_eq {s t : State} (h : t.brakes = s.brakes) : RestKept s t := ⟨fun c _ => by rw [h]⟩

theorem refl (s : State) : RestKept s s := of_eq rfl

theorem trans {a b c : State} (h : RestKept a b) (k : RestKept b c) : RestKept a c :=
  ⟨fun d r => (k.kept d (by rw [h.kept d r]; exact r)).trans (h.kept d r)⟩

theorem foldl {β : Type} {f : State → β → State} (h : ∀ s b, RestKept s (f s b)) (l : List β) :
    ∀ s, RestKept s (l.foldl f s) := by
  induction l with
  | nil => exact refl
  | cons b l ih => exact fun s => (h s b).trans (ih _)

theorem setPoint (p : Fin 48) (st : PState) (m : Bool) (timer : Option Nat) (s : State) :
    RestKept s (setPoint p st m timer s) := by
  unfold Machine.setPoint
  dsimp only
  split <;> exact of_eq rfl

theorem activatePoint (trig : Option (List Byte)) (p : Fin 48) (s : State) : RestKept s (activatePoint trig p s) := by
  unfold Machine.activatePoint
  dsimp only
  split
  · exact (setPoint ..).trans (of_eq rfl)
  · exact setPoint ..

theorem evalPoint (trig : Option (List Byte)) (p : Fin 48) (s : State) : RestKept s (evalPoint trig p s) := by
  unfold Machine.evalPoint
  dsimp only
  repeat' split
  all_goals first | exact refl s | exact activatePoint trig p s | exact setPoint ..

theorem feedHeld (code : Nat) (v : Int) (ok : Bool) (trig : Option (List Byte)) (s : State) :
    RestKept s (feedHeld code v ok trig s) := by
  unfold Machine.feedHeld
  split
  · exact of_eq rfl
  · have fed : RestKept s (s.setSource code v ok) := of_eq rfl
    exact fed.trans (foldl (fun s p => evalPoint trig p s) _ _)

theorem enterWalking (s : State) : RestKept s (enterWalking s) := by
  have walk : ∀ w, RestKept s { s with walk := w } := fun w => of_eq rfl
  have held : ∀ (u : State) t, RestKept u { u with heldTrips := t } := fun u t => of_eq rfl
  have fed : ∀ w, RestKept s (Machine.feedHeld 77 0 true none { s with walk := w }) := fun w => (walk w).trans (feedHeld ..)
  unfold Machine.enterWalking
  dsimp only
  repeat' split
  all_goals first
    | exact walk _ | exact fed _ | exact (walk _).trans (held _ _) | exact (fed _).trans (held _ _)

theorem walkModeChange (old new : Mode) (s : State) : RestKept s (walkModeChange old new s) := by
  by_cases h : new = .walking
  · obtain ⟨w, entered⟩ := walkModeChange_enters old s
    have left : RestKept s { s with walk := w } := of_eq rfl
    rw [h, entered]
    exact left.trans (enterWalking _)
  · rw [walkModeChange_eq old h]
    exact of_eq rfl

theorem modeSteps (new : Mode) (s : State) : RestKept s (modeSteps new s) := by
  have begun : RestKept s (entered new s) := by
    rw [entered_eq]
    exact of_eq rfl
  have armed : RestKept (entered new s) (rearmPoints (entered new s)) := by
    have rest := rearmPoints_rest (entered new s)
    exact of_eq (congrArg State.brakes rest :)
  have ended : ∀ u, RestKept u (tightModeChange s.mode u) := fun u => by
    unfold tightModeChange
    split
    · have cleared : RestKept u (clearEpisode u) := of_eq rfl
      exact cleared.trans (feedHeld ..)
    · exact refl u
  have worked : RestKept s (reworked new s) := ((begun.trans armed).trans (walkModeChange ..)).trans (ended _)
  have energised : ∀ (u : State) t, RestKept u { u with trip := t } := fun u t => of_eq rfl
  have owed : ∀ u, RestKept u (oweStatus u) := fun u => of_eq rfl
  rw [modeSteps_eq]
  split
  · exact (worked.trans (energised _ _)).trans (owed _)
  · exact worked.trans (owed _)

theorem tripSetAll (s : State) : RestKept s (tripSetAll s) := ⟨fun c r => ((tripSetAll_sets s).1 c).2.2 r⟩

theorem appendRecord (r : TripRecord) (s : State) : RestKept s (appendRecord r s) := by
  have unit : ∀ t, RestKept s (oweStatus { s with trip := t }) := fun t => of_eq rfl
  unfold Machine.appendRecord
  dsimp only
  split
  · exact (unit _).trans (feedHeld ..)
  · split
    · exact (unit _).trans (feedHeld ..)
    · exact of_eq rfl

theorem takeTrip (t : TripIn) (s : State) : RestKept s (takeTrip t s) := by
  have lines : ∀ u, RestKept u (deEnergise t.action u) := fun u => of_eq rfl
  have ended : ∀ u, RestKept u (withdrawTest (endRecord .abortedTrip none u)) := fun u => of_eq rfl
  unfold Machine.takeTrip
  split
  · exact (lines s).trans (appendRecord ..)
  · unfold firstTrip
    dsimp only
    have set := ((modeSteps .tripped s).trans (lines _)).trans (tripSetAll _)
    split
    · exact (set.trans (ended _)).trans (appendRecord ..)
    · exact set.trans (appendRecord ..)

theorem drainTrips (n : Nat) : ∀ s, RestKept s (drainTrips n s) := by
  induction n with
  | zero => exact fun s => of_eq rfl
  | succ n ih =>
    intro s
    unfold Machine.drainTrips
    split
    · exact refl s
    · have held : ∀ ts, RestKept s { s with heldTrips := ts } := fun ts => of_eq rfl
      exact ((held _).trans (takeTrip _ _)).trans (ih _)

theorem handTrip (t : TripIn) (s : State) : RestKept s (handTrip t s) :=
  have held : ∀ ts, RestKept s { s with heldTrips := ts } := fun _ => of_eq rfl
  (held _).trans (drainTrips 256 _)

theorem changeMode (new : Mode) (s : State) : RestKept s (changeMode new s) := (modeSteps new s).trans (drainTrips 256 _)

theorem takeUpdate (u : Update) (s : State) : RestKept s (takeUpdate u s) := by
  have set : RestKept s (s.setSource u.code u.value u.valid) := of_eq rfl
  exact set.trans (foldl (fun s p => (evalPoint u.trig p s).trans (drainTrips 256 _)) _ _)

theorem takeUpdates (n : Nat) : ∀ s, RestKept s (takeUpdates n s) := by
  induction n with
  | zero => exact refl
  | succ n ih =>
    intro s
    unfold Machine.takeUpdates
    split
    · have waits : ∀ us, RestKept s { s with updates := us } := fun us => of_eq rfl
      exact ((waits _).trans (takeUpdate ..)).trans (ih _)
    · exact refl s

theorem feedAll (us : List Update) (s : State) : RestKept s (feedAll us s) := by
  have waits : RestKept s { s with updates := some us } := of_eq rfl
  have ends : ∀ (u : State) v, RestKept u { u with updates := v } := fun u v => of_eq rfl
  exact (waits.trans (takeUpdates 256 _)).trans (ends _ _)

theorem feed (code : Nat) (v : Int) (ok : Bool) (trig : Option (List Byte)) (s : State) : RestKept s (feed code v ok trig s) :=
  feedAll _ s

theorem finish (s : State) : RestKept s (finish s) := of_eq (finish_brakes s)

theorem initTest (s : State) : RestKept s (initTest s) := by
  unfold Machine.initTest
  split
  · split
    · exact changeMode ..
    · unfold updateReason
      split <;> exact of_eq rfl
  · exact refl s

end RestKept

end Sys2Proof.Machine
end

section
/-!
Lemmas for the obligation on the release-due and prove timers and on an arrival in RELEASE_PENDING (R51, R52, R59, R67).
-/

namespace Sys2Proof.Machine

/-! What only one channel's record is read or written by. -/

theorem OnlyChan.now {c : Chan} {s t : State} (h : OnlyChan c s t) : t.now = s.now := (congrArg State.now h.frame :)

theorem OnlyChan.act {c : Chan} {s t : State} (h : OnlyChan c s t) : t.act = s.act :=
  (congrArg (fun x => x.tables.active) h.frame :)

theorem OnlyChan.held {c : Chan} {s t : State} (h : OnlyChan c s t) (d : Chan) : t.held d = s.held d := by
  have ctl : t.ctl = s.ctl := (congrArg State.ctl h.frame :)
  unfold State.held
  rw [ctl]

theorem OnlyChan.barred_eq {c : Chan} {s t : State} (h : OnlyChan c s t) : t.barred c = s.barred c := by
  refine Bool.eq_iff_iff.mpr ?_
  rw [barred_iff, barred_iff]
  unfold Barred
  rw [h.act]
  refine exists_congr fun i => and_congr_right fun other => ?_
  rw [h.others i other]

theorem OnlyChan.request {c : Chan} {s t : State} (h : OnlyChan c s t)
    (standing : (t.brakes.get c).standing = (s.brakes.get c).standing) : t.request c = s.request c := by
  unfold State.request
  rw [h.held, standing]

/-- At the end of the command the ring and the notice marks differ too (R18). -/
theorem OnlyChan.finished {c : Chan} {s w t : State} (h : OnlyChan c s w) (ht : t = finish w) :
    t = { s with brakes := t.brakes, ring := t.ring, owed := t.owed, statusOwed := t.statusOwed }
      ∧ ∀ d, d ≠ c → t.brakes.get d = s.brakes.get d := by
  have brakes : t.brakes = w.brakes := by rw [ht, finish_brakes]
  refine ⟨?_, fun d other => by rw [brakes]; exact h.others d other⟩
  have rest := finish_rest w
  rw [← ht] at rest
  have frame := h.frame
  generalize t.ring = r at rest ⊢
  generalize t.owed = o at rest ⊢
  generalize t.statusOwed = b at rest ⊢
  rw [brakes]
  generalize w.brakes = bs at frame ⊢
  generalize w.statusOwed = wb at frame
  rw [rest, frame]

/-! The completing event of a release (R51). -/

theorem completeRelease_returns {c : Chan} {s : State} (h : s.barred c = true ∨ s.request c = .hold) :
    completeRelease c s = returnToSet c s := by
  unfold completeRelease
  refine if_pos ?_
  rw [Bool.or_eq_true, beq_iff_eq]
  exact h

/-- A channel entering RELEASING (R51). -/
def releasingFrom (s : State) (c : Chan) (ch : Channel) : Channel :=
  { ch.stopTimers with
    state := .releasing, due := none, confirm := ⟨false, false⟩
    tRelease := some (s.now + (s.act.brake.get c).releaseConfirm) }

theorem completeRelease_releases {c : Chan} {s : State} (free : s.barred c = false) (asks : s.request c ≠ .hold) :
    completeRelease c s = s.setChan c (releasingFrom s c (s.brakes.get c)) := by
  unfold completeRelease
  refine if_neg ?_
  rw [Bool.or_eq_true, beq_iff_eq]
  rintro (k | k)
  · rw [free] at k
    cases k
  · exact asks k

/-- A channel returning from RELEASE_PENDING to SET (R52). -/
def returnedSet (ch : Channel) : Channel := { ch.stopTimers with state := .set, due := none, proved := false }

theorem returnToSet_get (c : Chan) (s : State) : (returnToSet c s).brakes.get c = returnedSet (s.brakes.get c) :=
  setChan_get ..

/-! The release-due timer (R51). -/

theorem exec_releaseDueExpiry (c : Chan) (s : State) :
    exec (.releaseDueExpiry c) s = .next (finish (releaseDue c s)) := by
  unfold exec
  rfl

section
variable {c : Chan} {s : State} (pending : (s.brakes.get c).state = .releasePending)
  (expired : s.expired (s.brakes.get c).tDue = true)
include pending expired

theorem releaseDue_expired :
    releaseDue c s = if (s.brakes.get c).proved then completeRelease c (s.setChan c { s.brakes.get c with tDue := none })
      else s.setChan c { s.brakes.get c with tDue := none } := by
  unfold releaseDue
  exact if_pos ⟨pending, expired⟩

theorem releaseDue_only : OnlyChan c s (releaseDue c s) := by
  rw [releaseDue_expired pending expired]
  have stopped := setChan_only c { s.brakes.get c with tDue := none } s
  split
  · exact stopped.trans (completeRelease_only ..)
  · exact stopped

theorem releaseDue_releases (proved : (s.brakes.get c).proved = true) (free : s.barred c = false)
    (asks : s.request c ≠ .hold) :
    (releaseDue c s).brakes.get c = releasingFrom s c { s.brakes.get c with tDue := none } := by
  have stopped := setChan_only c { s.brakes.get c with tDue := none } s
  have standing := stopped.request (by rw [setChan_get])
  rw [releaseDue_expired pending expired, if_pos proved,
    completeRelease_releases (by rw [stopped.barred_eq]; exact free) (by rw [standing]; exact asks), setChan_get, setChan_get]
  rfl

theorem releaseDue_returns (proved : (s.brakes.get c).proved = true) (h : s.barred c = true ∨ s.request c = .hold) :
    (releaseDue c s).brakes.get c = returnedSet { s.brakes.get c with tDue := none } := by
  have stopped := setChan_only c { s.brakes.get c with tDue := none } s
  have standing := stopped.request (by rw [setChan_get])
  rw [releaseDue_expired pending expired, if_pos proved,
    completeRelease_returns (by rw [stopped.barred_eq, standing]; exact h), returnToSet_get, setChan_get]

theorem releaseDue_waits (unproved : (s.brakes.get c).proved = false) :
    (releaseDue c s).brakes.get c = { s.brakes.get c with tDue := none } := by
  rw [releaseDue_expired pending expired, unproved, if_neg Bool.false_ne_true, setChan_get]

end

/-! The prove timer and its flag (R52, R67). -/

theorem exec_proveTimerExpiry (c : Chan) (s : State) : exec (.proveTimerExpiry c) s = .next (finish (proveOut c s)) := by
  unfold exec
  rfl

theorem proveOut_expired {c : Chan} {s : State} (pending : (s.brakes.get c).state = .releasePending)
    (expired : s.expired (s.brakes.get c).tProve = true) : proveOut c s = setProveFailed c true (returnToSet c s) := by
  unfold proveOut
  exact if_pos ⟨pending, expired⟩

theorem chanPos_lt (c : Chan) : chanPos c < 4 := by cases c <;> decide

/-- A flag of a resting channel set to 1: the record holds it, and its source was handed where it changed (R67). -/
structure FlagSet (c : Chan) (source : Nat) (ch : Channel) (was : Bool) (s t : State) : Prop where
  chan : t.brakes.get c = ch
  handed : was = false → t.source source = { value := 1, valid := true }
  stands : was = true → t.source source = s.source source
  kept : TripKept s t

theorem setProveFailed_true {c : Chan} {s : State} (rests : (s.brakes.get c).state.rests) :
    FlagSet c (69 + chanPos c) { s.brakes.get c with proveFailed := true } (s.brakes.get c).proveFailed s
      (setProveFailed c true s) := by
  have pos := chanPos_lt c
  have kept := setProveFailed_kept c true s
  unfold setProveFailed
  dsimp only
  split
  · rename_i same
    exact ⟨by rw [← same], fun k => (Bool.false_ne_true (k.symm.trans same)).elim, fun _ => rfl, .refl s⟩
  · rename_i differs
    have set := setChan_get s c { s.brakes.get c with proveFailed := true }
    have fed := RestKept.feed (proveSource c) (if true then 1 else 0) true none
      (s.setChan c { s.brakes.get c with proveFailed := true })
    refine ⟨(fed.kept c (by rw [set]; exact rests)).trans set, fun _ => ?_, fun k => absurd k differs, ?_⟩
    · unfold proveSource
      rw [feed_source_same (by omega) (by omega) (by omega) (by omega) (by omega)]
      rfl
    · exact (setChan_kept ..).trans (feed_kept ..)

/-- The prove timer's expiry (R52). -/
theorem prove_expires {c : Chan} {s : State} (pending : (s.brakes.get c).state = .releasePending)
    (expired : s.expired (s.brakes.get c).tProve = true) :
    FlagSet c (69 + chanPos c) { returnedSet (s.brakes.get c) with proveFailed := true } (s.brakes.get c).proveFailed s
      (proveOut c s) := by
  have returned := returnToSet_get c s
  have flag := setProveFailed_true (c := c) (s := returnToSet c s) (by rw [returned]; exact .inl rfl)
  rw [returned] at flag
  rw [proveOut_expired pending expired]
  exact ⟨flag.chan, flag.handed, flag.stands, (returnToSet_kept c s).trans flag.kept⟩

/-! An arrival in RELEASE_PENDING (R51, R59). -/

theorem proving_eq (s : State) {c : Chan} (h : c = .hoist ∨ c = .drag) : s.proving c = (s.act.brake.get c).proving := by
  rcases h with rfl | rfl <;> rfl

theorem provingArrival_still {c : Chan} {current : Int} {s : State}
    (h : c = .swing ∨ c = .walk ∨ -((s.act.brake.get c).proving : Int) < current) : provingArrival c current s = s := by
  unfold provingArrival
  refine if_neg ?_
  rintro ⟨rope, proves⟩
  rcases h with rfl | rfl | h
  · rcases rope with k | k <;> cases k
  · rcases rope with k | k <;> cases k
  · rw [proving_eq s rope] at proves
    omega

theorem provingArrival_proves {c : Chan} {current : Int} {s : State} (rope : c = .hoist ∨ c = .drag)
    (h : current ≤ -((s.act.brake.get c).proving : Int)) :
    provingArrival c current s
      = if (s.brakes.get c).due.getD 0 ≤ s.now then completeRelease c (s.setChan c { s.brakes.get c with proved := true })
        else s.setChan c { s.brakes.get c with proved := true } := by
  unfold provingArrival
  refine if_pos ⟨rope, ?_⟩
  rw [proving_eq s rope]
  exact h

theorem provingArrival_only (c : Chan) (current : Int) (s : State) : OnlyChan c s (provingArrival c current s) := by
  unfold provingArrival
  dsimp only
  have proved := setChan_only c { s.brakes.get c with proved := true } s
  split
  · split
    · exact proved.trans (completeRelease_only ..)
    · exact proved
  · exact .refl ..

/-- What the quiet test leaves of a channel that is not RELEASED (R56). -/
theorem quietTest_stops {c : Chan} {s : State} (h : (s.brakes.get c).state ≠ .released) :
    (quietTest c s).brakes.get c = { s.brakes.get c with tAutoset := none } :=
  (quietTest_tested c s).of_not_released h

theorem channelArrival_pending {x : Axis} {trig : List Byte} {s : State}
    (pending : (s.brakes.get (chanOf x)).state = .releasePending) (agrees : ¬Contradicts s x) :
    channelArrival x trig s = quietTest (chanOf x) (provingArrival (chanOf x) (s.feedback.get x).current s) := by
  have none : s.contradicts (chanOf x) (s.feedback.get x) = false :=
    Bool.eq_false_iff.mpr (mt (contradicts_iff s x).mp agrees)
  unfold channelArrival
  dsimp only
  rw [pending, none]
  rfl

/-- A proving arrival in RELEASE_PENDING (R51). -/
theorem pending_proves {c : Chan} {ch : Channel} {due : Nat} {current : Int} {s t : State} (hch : ch = s.brakes.get c)
    (pending : ch.state = .releasePending) (hdue : ch.due = some due)
    (ht : t = quietTest c (provingArrival c current s)) (rope : c = .hoist ∨ c = .drag)
    (h : current ≤ -((s.act.brake.get c).proving : Int)) :
    (s.now < due → t.brakes.get c = { ch with proved := true, tAutoset := none })
      ∧ (due ≤ s.now → ¬Barred s c → ¬HoldStands s c →
          t.brakes.get c =
            { ch.stopTimers with
              state := .releasing, due := none, proved := true, confirm := ⟨false, false⟩
              tRelease := some (s.now + (s.act.brake.get c).releaseConfirm) })
      ∧ (due ≤ s.now → (Barred s c ∨ HoldStands s c) →
          t.brakes.get c = { ch.stopTimers with state := .set, due := none, proved := false }) := by
  have proved := setChan_only c { s.brakes.get c with proved := true } s
  have standing := proved.request (by rw [setChan_get])
  have when_due : (s.brakes.get c).due.getD 0 = due := by rw [← hch, hdue]; rfl
  rw [provingArrival_proves rope h, when_due] at ht
  subst hch
  refine ⟨fun early => ?_, fun reached free asks => ?_, fun reached stands => ?_⟩
  · rw [if_neg (Nat.not_le.mpr early)] at ht
    rw [ht, quietTest_stops (by rw [setChan_get]; exact fun k => by rw [pending] at k; cases k), setChan_get]
  · rw [if_pos reached, completeRelease_releases
      (by rw [proved.barred_eq]; exact Bool.eq_false_iff.mpr (mt (barred_iff s c).mp free))
      (by rw [standing]; exact mt (request_hold_iff s c).mp asks)] at ht
    rw [ht, quietTest_stops (by rw [setChan_get]; exact ChanState.noConfusion), setChan_get, setChan_get]
    rfl
  · have back : completeRelease c (s.setChan c { s.brakes.get c with proved := true })
        = returnToSet c (s.setChan c { s.brakes.get c with proved := true }) := by
      refine completeRelease_returns ?_
      rw [proved.barred_eq, standing, barred_iff, request_hold_iff]
      exact stands
    rw [if_pos reached, back] at ht
    rw [ht, quietTest_stops (by rw [returnToSet_get]; exact ChanState.noConfusion), returnToSet_get, setChan_get]
    rfl

end Sys2Proof.Machine
end

section
/-! The release-due and prove timers. -/

namespace Sys2Proof.Proofs

open Sys2Proof.Machine

/-- Settles O44: the release-due and prove timers, and an arrival in RELEASE_PENDING. -/
theorem releaseDueAndProve : Obligations.ReleaseDueAndProve := by
  unfold Obligations.ReleaseDueAndProve
  refine ⟨fun c s pending => ⟨fun expired => ?due, fun expired => ?prove⟩, ?arrival⟩
  case due =>
    obtain ⟨rest, others⟩ := (releaseDue_only pending expired).finished rfl
    refine ⟨_, exec_releaseDueExpiry c s, rest, others, fun proved free asks => ?_, fun proved stands => ?_, fun unproved => ?_⟩
    · rw [finish_brakes, releaseDue_releases pending expired proved free asks]
      exact ⟨rfl, rfl, rfl, rfl⟩
    · rw [finish_brakes, releaseDue_returns pending expired proved stands]
      exact ⟨rfl, rfl⟩
    · rw [finish_brakes, releaseDue_waits pending expired unproved]
  case prove =>
    have flag := prove_expires pending expired
    refine ⟨_, exec_proveTimerExpiry c s, ?_⟩
    rw [finish_brakes, flag.chan, finish_feedback, finish_attrs, finish_stations]
    have source := source_congr (congrArg Alarm.sources (finish_alarm (proveOut c s))) (69 + chanPos c)
    exact ⟨rfl, rfl, rfl, rfl, fun k => source.trans (flag.handed k), fun k => source.trans (flag.stands k),
      flag.kept.feedback, flag.kept.attrs, flag.kept.stations⟩
  case arrival =>
    rintro x trig s t c ch due rfl hch pending hdue agrees ht
    have still : (s.brakes.get (chanOf x)).state = .releasePending := by rw [← hch]; exact pending
    rw [channelArrival_pending still agrees] at ht
    have only := (provingArrival_only (chanOf x) (s.feedback.get x).current s).trans (quietTest_only (chanOf x) _)
    rw [← ht] at only
    refine ⟨only.frame, only.others, fun idle => ?_, fun rope proves => pending_proves hch pending hdue ht rope proves⟩
    rw [provingArrival_still idle] at ht
    rw [ht, quietTest_stops (by rw [still]; exact ChanState.noConfusion), ← hch]

end Sys2Proof.Proofs
end

section
/-!
Lemmas for the obligation on the timers and arrivals of the channels that set or release: the release confirm, release
dwell and autoset timers (R53, R55, R56, R67).
-/

namespace Sys2Proof.Machine

theorem exec_releaseConfirmExpiry (c : Chan) (s : State) :
    exec (.releaseConfirmExpiry c) s = .next (finish (releaseOut c s)) := by
  unfold exec
  rfl

theorem exec_releaseDwellExpiry (c : Chan) (s : State) :
    exec (.releaseDwellExpiry c) s = .next (finish (dwellOut c s)) := by
  unfold exec
  rfl

theorem exec_autosetExpiry (c : Chan) (s : State) : exec (.autosetExpiry c) s = .next (finish (autosetOut c s)) := by
  unfold exec
  rfl

/-! The release confirm timer and its flag (R53, R67). -/

theorem setReleaseTimeout_true {c : Chan} {s : State} (rests : (s.brakes.get c).state.rests) :
    FlagSet c (73 + chanPos c) { s.brakes.get c with releaseTimeout := true } (s.brakes.get c).releaseTimeout s
      (setReleaseTimeout c true s) := by
  have pos := chanPos_lt c
  unfold setReleaseTimeout
  dsimp only
  split
  · rename_i same
    exact ⟨by rw [← same], fun k => (Bool.false_ne_true (k.symm.trans same)).elim, fun _ => rfl, .refl s⟩
  · rename_i differs
    have set := setChan_get s c { s.brakes.get c with releaseTimeout := true }
    have fed := RestKept.feed (timeoutSource c) (if true then 1 else 0) true none
      (s.setChan c { s.brakes.get c with releaseTimeout := true })
    refine ⟨(fed.kept c (by rw [set]; exact rests)).trans set, fun _ => ?_, fun k => absurd k differs, ?_⟩
    · unfold timeoutSource
      rw [feed_source_same (by omega) (by omega) (by omega) (by omega) (by omega)]
      rfl
    · exact (setChan_kept ..).trans (feed_kept ..)

theorem releaseOut_expired {c : Chan} {s : State} (releasing : (s.brakes.get c).state = .releasing)
    (expired : s.expired (s.brakes.get c).tRelease = true) :
    releaseOut c s = setReleaseTimeout c true (enterSetting c none s) := by
  unfold releaseOut
  exact if_pos ⟨releasing, expired⟩

theorem enterSetting_get (c : Chan) (reported : Option Axis) (s : State) :
    ((enterSetting c reported s).brakes.get c).state = .setting
      ∧ ((enterSetting c reported s).brakes.get c).tSet = some (s.now + (s.act.brake.get c).setConfirm)
      ∧ ((enterSetting c reported s).brakes.get c).releaseTimeout = (s.brakes.get c).releaseTimeout
      ∧ ((enterSetting c reported s).brakes.get c).hardSet = s.moving c
      ∧ ((enterSetting c reported s).brakes.get c).armed = false := by
  unfold enterSetting
  rw [setChan_get]
  exact ⟨rfl, rfl, rfl, rfl, rfl⟩

theorem enterSetting_unconfirmed (c : Chan) (s : State) :
    ((enterSetting c none s).brakes.get c).confirm = ⟨false, false⟩ := by
  unfold enterSetting
  rw [setChan_get]

/-- The release confirm timer's expiry (R53). -/
theorem release_times_out {c : Chan} {s t : State} (releasing : (s.brakes.get c).state = .releasing)
    (expired : s.expired (s.brakes.get c).tRelease = true) (ht : t = finish (releaseOut c s)) :
    (t.brakes.get c).state = .setting ∧ (t.brakes.get c).releaseTimeout = true
      ∧ (t.brakes.get c).tSet = some (s.now + (s.act.brake.get c).setConfirm)
      ∧ ((s.brakes.get c).releaseTimeout = false → t.source (73 + chanPos c) = { value := 1, valid := true })
      ∧ ((s.brakes.get c).releaseTimeout = true → t.source (73 + chanPos c) = s.source (73 + chanPos c))
      ∧ t.feedback = s.feedback ∧ t.attrs = s.attrs := by
  obtain ⟨state, timer, flag, _, _⟩ := enterSetting_get c none s
  have set := setReleaseTimeout_true (c := c) (s := enterSetting c none s) (.inr (.inl state))
  have kept := (enterSetting_kept c none s).trans set.kept
  have before : (enterSetting c none s).alarm = s.alarm := (congrArg State.alarm (enterSetting_only c none s).frame :)
  have source := source_congr (congrArg Alarm.sources before) (73 + chanPos c)
  rw [flag] at set
  rw [releaseOut_expired releasing expired] at ht
  generalize enterSetting c none s = w at *
  generalize setReleaseTimeout c true w = v at *
  have brakes : t.brakes = v.brakes := by rw [ht, finish_brakes]
  have last := source_congr (t := t) (s := v) (by rw [ht, finish_alarm]) (73 + chanPos c)
  rw [brakes, set.chan, last, ht, finish_feedback, finish_attrs]
  exact ⟨state, rfl, timer, set.handed, fun k => (set.stands k).trans source, kept.feedback, kept.attrs⟩

/-! The release dwell timer (R55). -/

theorem dwellOut_expired {c : Chan} {s : State} (pending : (s.brakes.get c).state = .setPending)
    (expired : s.expired (s.brakes.get c).tDwell = true) : dwellOut c s = enterSetting c none s := by
  unfold dwellOut
  exact if_pos ⟨pending, expired⟩

/-! The autoset timer (R56). -/

theorem autosetOut_expired {c : Chan} {s : State} (released : (s.brakes.get c).state = .released)
    (expired : s.expired (s.brakes.get c).tAutoset = true) : autosetOut c s = beginToSet c s := by
  unfold autosetOut
  exact if_pos ⟨released, expired⟩

theorem beginToSet_late {c : Chan} {s : State}
    (h : (s.brakes.get c).releasedTime.getD 0 + (s.act.brake.get c).minRelease ≤ s.now) :
    beginToSet c s = enterSetting c none s := by
  unfold beginToSet
  exact if_pos h

theorem beginToSet_early {c : Chan} {s : State}
    (h : s.now < (s.brakes.get c).releasedTime.getD 0 + (s.act.brake.get c).minRelease) :
    (beginToSet c s).brakes.get c = { (s.brakes.get c).stopTimers with
      state := .setPending, armed := false
      tDwell := some ((s.brakes.get c).releasedTime.getD 0 + (s.act.brake.get c).minRelease) } := by
  have began := (beginToSet_begins c s).2 h
  exact began

theorem beginToSet_disarms (c : Chan) (s : State) : ((beginToSet c s).brakes.get c).armed = false := by
  rcases Nat.lt_or_ge s.now ((s.brakes.get c).releasedTime.getD 0 + (s.act.brake.get c).minRelease) with early | late
  · rw [beginToSet_early early]
  · rw [beginToSet_late late]
    exact (enterSetting_get c none s).2.2.2.2

end Sys2Proof.Machine
end

section
/-!
Lemmas for the obligation on the arrivals of the channels that set or release: RELEASING to RELEASED, with its flags
cleared (R53, R67).
-/

namespace Sys2Proof.Machine

/-- One channel's record and the values of sources alone differ. -/
structure ChanSource (c : Chan) (s t : State) : Prop where
  frame : t = { s with brakes := t.brakes, statusOwed := t.statusOwed
                       alarm := { s.alarm with sources := t.alarm.sources } }
  others : ∀ d, d ≠ c → t.brakes.get d = s.brakes.get d

theorem ChanSource.of_only {c : Chan} {s t : State} (h : OnlyChan c s t) : ChanSource c s t := by
  refine ⟨?_, h.others⟩
  have alarm : t.alarm = s.alarm := (congrArg State.alarm h.frame :)
  rw [alarm]
  exact h.frame

theorem ChanSource.trans {c : Chan} {a b d : State} (h : ChanSource c a b) (k : ChanSource c b d) : ChanSource c a d := by
  refine ⟨?_, fun e other => (k.others e other).trans (h.others e other)⟩
  have second := k.frame
  have first := h.frame
  generalize d.brakes = db at second ⊢
  generalize d.statusOwed = dw at second ⊢
  generalize d.alarm.sources = dl at second ⊢
  generalize b.brakes = bb at first
  generalize b.statusOwed = bw at first
  generalize b.alarm.sources = bl at first
  rw [second, first]

section
variable {c : Chan} {s t : State} (h : ChanSource c s t)
include h

theorem ChanSource.feedback : t.feedback = s.feedback := (congrArg State.feedback h.frame :)

theorem ChanSource.tables : t.tables = s.tables := (congrArg State.tables h.frame :)

theorem ChanSource.now : t.now = s.now := (congrArg State.now h.frame :)

theorem ChanSource.ctl : t.ctl = s.ctl := (congrArg State.ctl h.frame :)

theorem ChanSource.pointsOn (n : Nat) : t.pointsOn n = s.pointsOn n := by
  unfold State.pointsOn State.act
  rw [h.tables]

theorem ChanSource.holdStands (standing : (t.brakes.get c).standing = (s.brakes.get c).standing) :
    HoldStands t c ↔ HoldStands s c := by
  unfold HoldStands State.held
  rw [h.ctl, standing]

end

/-! The flags cleared (R53, R67). -/

/-- A flag cleared with no point on its source: the channel's record, the value handed, and the other sources. -/
structure FlagCleared (c : Chan) (source : Nat) (ch : Channel) (was : Bool) (s t : State) : Prop where
  only : ChanSource c s t
  chan : t.brakes.get c = ch
  handed : was = true → t.source source = { value := 0, valid := true }
  others : ∀ n, n ≠ source → t.source n = s.source n

theorem fed_clears {c : Chan} {source : Nat} {ch : Channel} {was : Bool} {s : State} (hs : 1 ≤ source) (hs' : source ≤ 79)
    (unwatched : s.pointsOn source = []) :
    FlagCleared c source ch was s (feed source 0 true none (s.setChan c ch)) := by
  have quiet : (s.setChan c ch).pointsOn source = [] := unwatched
  rw [feed_unwatched _ _ _ quiet]
  have set := ChanSource.of_only (setChan_only c ch s)
  refine ⟨⟨?_, set.others⟩, setChan_get s c ch, fun _ => ?_, fun n other => setSource_source_ne other hs 0 true _⟩
  · rfl
  · exact setSource_source_same hs hs' 0 true _

theorem setProveFailed_false {c : Chan} {s : State} (unwatched : s.pointsOn (69 + chanPos c) = []) :
    FlagCleared c (69 + chanPos c) { s.brakes.get c with proveFailed := false } (s.brakes.get c).proveFailed s
      (setProveFailed c false s) := by
  have pos := chanPos_lt c
  unfold setProveFailed
  dsimp only
  split
  · rename_i same
    exact ⟨.of_only (.refl c s), by rw [← same], fun k => (Bool.false_ne_true (same.symm.trans k)).elim, fun _ _ => rfl⟩
  · have cleared := fed_clears (c := c) (source := 69 + chanPos c) (ch := { s.brakes.get c with proveFailed := false })
      (was := (s.brakes.get c).proveFailed) (s := s) (by omega) (by omega) unwatched
    exact cleared

theorem setReleaseTimeout_false {c : Chan} {s : State} (unwatched : s.pointsOn (73 + chanPos c) = []) :
    FlagCleared c (73 + chanPos c) { s.brakes.get c with releaseTimeout := false } (s.brakes.get c).releaseTimeout s
      (setReleaseTimeout c false s) := by
  have pos := chanPos_lt c
  unfold setReleaseTimeout
  dsimp only
  split
  · rename_i same
    exact ⟨.of_only (.refl c s), by rw [← same], fun k => (Bool.false_ne_true (same.symm.trans k)).elim, fun _ _ => rfl⟩
  · have cleared := fed_clears (c := c) (source := 73 + chanPos c) (ch := { s.brakes.get c with releaseTimeout := false })
      (was := (s.brakes.get c).releaseTimeout) (s := s) (by omega) (by omega) unwatched
    exact cleared

/-- A channel entering RELEASED, its flags not yet cleared (R53). -/
def releasedAt (now : Nat) (ch : Channel) : Channel :=
  { ch.stopTimers with state := .released, releasedTime := some now, armed := ch.standing == .releaseAutoset }

/-- The state at the entry to RELEASED, the flags cleared (R53). -/
def releaseEntered (c : Chan) (s : State) : State :=
  setReleaseTimeout c false (setProveFailed c false (s.setChan c (releasedAt s.now (s.brakes.get c))))

/-- The channel at the entry to RELEASED, the flags cleared (R53). -/
def releaseCleared (now : Nat) (ch : Channel) : Channel :=
  { releasedAt now ch with proveFailed := false, releaseTimeout := false }

/-- What the entry to RELEASED leaves where no point is on the flags' sources (R53, R67). -/
structure EntersReleased (c : Chan) (s t : State) : Prop where
  only : ChanSource c s t
  chan : t.brakes.get c = releaseCleared s.now (s.brakes.get c)
  prove : (s.brakes.get c).proveFailed = true → t.source (69 + chanPos c) = { value := 0, valid := true }
  timeout : (s.brakes.get c).releaseTimeout = true → t.source (73 + chanPos c) = { value := 0, valid := true }

theorem releaseEntered_enters {c : Chan} {s : State} (prove : s.pointsOn (69 + chanPos c) = [])
    (timeout : s.pointsOn (73 + chanPos c) = []) : EntersReleased c s (releaseEntered c s) := by
  have set := ChanSource.of_only (setChan_only c (releasedAt s.now (s.brakes.get c)) s)
  have get := setChan_get s c (releasedAt s.now (s.brakes.get c))
  unfold releaseEntered
  generalize s.setChan c (releasedAt s.now (s.brakes.get c)) = u at set get ⊢
  have first := setProveFailed_false (c := c) (s := u) (by rw [set.pointsOn]; exact prove)
  rw [get] at first
  generalize setProveFailed c false u = v at first ⊢
  have second := setReleaseTimeout_false (c := c) (s := v) (by rw [first.only.pointsOn, set.pointsOn]; exact timeout)
  rw [first.chan] at second
  have pos := chanPos_lt c
  exact ⟨(set.trans first.only).trans second.only, second.chan,
    fun k => (second.others _ (by omega)).trans (first.handed k), fun k => second.handed k⟩

theorem enterReleased_eq {c : Chan} {s : State} (h : ((releaseEntered c s).brakes.get c).state = .released) :
    enterReleased c s = if (releaseEntered c s).request c = .hold then beginToSet c (releaseEntered c s)
      else releaseEntered c s := by
  have rule : enterReleased c s = if ((releaseEntered c s).brakes.get c).state = .released
      ∧ (releaseEntered c s).request c = .hold then beginToSet c (releaseEntered c s) else releaseEntered c s := rfl
  rw [rule, h]
  simp only [true_and]

/-! An arrival in RELEASING (R53). -/

theorem channelArrival_releasing {x : Axis} {trig : List Byte} {s : State}
    (releasing : (s.brakes.get (chanOf x)).state = .releasing) (sound : (s.feedback.get x).brake ≠ .fault) :
    channelArrival x trig s = quietTest (chanOf x) (confirmMark (chanOf x) x ((s.feedback.get x).brake == .released)
      (enterReleased (chanOf x)) s) := by
  unfold channelArrival
  dsimp only
  rw [releasing]
  dsimp only
  rw [if_neg sound]

/-- The state with a confirm mark written (R53, R57, R61). -/
def markWritten (c : Chan) (marks : Pair Bool) (s : State) : State := s.setChan c { s.brakes.get c with confirm := marks }

theorem confirmMark_eq (c : Chan) (x : Axis) (v : Bool) (complete : State → State) (s : State) :
    confirmMark c x v complete s
      = if ((s.brakes.get c).confirm.set x v).all c then complete (markWritten c ((s.brakes.get c).confirm.set x v) s)
        else markWritten c ((s.brakes.get c).confirm.set x v) s := rfl

theorem markWritten_get (c : Chan) (marks : Pair Bool) (s : State) :
    (markWritten c marks s).brakes.get c = { s.brakes.get c with confirm := marks } := setChan_get ..

theorem markWritten_only (c : Chan) (marks : Pair Bool) (s : State) : OnlyChan c s (markWritten c marks s) := setChan_only ..

/-- A report that leaves a mark outstanding writes the mark alone (R53, R57, R61). -/
theorem mark_waits {c : Chan} {marks : Pair Bool} {s t : State} (h : (s.brakes.get c).state ≠ .released)
    (ht : t = quietTest c (markWritten c marks s)) :
    t.brakes.get c = { s.brakes.get c with confirm := marks, tAutoset := none }
      ∧ (∀ d, d ≠ c → t.brakes.get d = s.brakes.get d) ∧ t = { s with brakes := t.brakes, statusOwed := t.statusOwed } := by
  have only := (markWritten_only c marks s).trans (quietTest_only c _)
  rw [← ht] at only
  refine ⟨?_, only.others, only.frame⟩
  rw [ht, quietTest_stops (by rw [markWritten_get]; exact h), markWritten_get]

/-- A channel that has begun to set is not RELEASED, and its autoset timer is stopped (R54). -/
theorem beginToSet_stopped (c : Chan) (s : State) :
    ((beginToSet c s).brakes.get c).state ≠ .released ∧ ((beginToSet c s).brakes.get c).tAutoset = none := by
  rcases Nat.lt_or_ge s.now ((s.brakes.get c).releasedTime.getD 0 + (s.act.brake.get c).minRelease) with early | late
  · rw [beginToSet_early early]
    exact ⟨ChanState.noConfusion, rfl⟩
  · rw [beginToSet_late late]
    unfold enterSetting
    rw [setChan_get]
    exact ⟨ChanState.noConfusion, rfl⟩

theorem BeginsToSet.of_eq {s t : State} {c : Chan} {ch ch' : Channel} (h : BeginsToSet t c ch ch')
    (hf : t.feedback = s.feedback) (ht : t.tables = s.tables) (hn : t.now = s.now) : BeginsToSet s c ch ch' := by
  unfold BeginsToSet EntersSetting Standstill State.act at *
  rw [hf, ht, hn] at h
  exact h

/-- The last confirmation of a release: RELEASED, or on to setting under HOLD (R53, R54). -/
theorem release_confirmed {c : Chan} {ch : Channel} {marks : Pair Bool} {s t : State} (hch : ch = s.brakes.get c)
    (ht : t = quietTest c (enterReleased c (markWritten c marks s))) (prove : s.pointsOn (69 + chanPos c) = [])
    (timeout : s.pointsOn (73 + chanPos c) = []) {rel : Channel}
    (hrel : rel = releaseCleared s.now { ch with confirm := marks }) :
    (¬HoldStands s c → QuietTested s c rel (t.brakes.get c))
      ∧ (HoldStands s c → BeginsToSet s c rel (t.brakes.get c))
      ∧ (ch.proveFailed = true → t.source (69 + chanPos c) = { value := 0, valid := true })
      ∧ (ch.releaseTimeout = true → t.source (73 + chanPos c) = { value := 0, valid := true })
      ∧ (∀ d, d ≠ c → t.brakes.get d = s.brakes.get d)
      ∧ t = { s with brakes := t.brakes, statusOwed := t.statusOwed
                     alarm := { s.alarm with sources := t.alarm.sources } } := by
  subst hch
  have mark := ChanSource.of_only (markWritten_only c marks s)
  have get := markWritten_get c marks s
  have now : (markWritten c marks s).now = s.now := mark.now
  generalize markWritten c marks s = m at mark get now ht
  have entered := releaseEntered_enters (c := c) (s := m) (by rw [mark.pointsOn]; exact prove)
    (by rw [mark.pointsOn]; exact timeout)
  obtain ⟨only, chan, proved, timed⟩ := entered
  rw [get, now] at chan
  rw [get] at proved timed
  rw [← hrel] at chan
  have released : ((releaseEntered c m).brakes.get c).state = .released := by rw [chan, hrel]; rfl
  rw [enterReleased_eq released] at ht
  generalize releaseEntered c m = w at only chan proved timed ht released
  have all := mark.trans only
  have standing : (w.brakes.get c).standing = (s.brakes.get c).standing := by rw [chan, hrel]; rfl
  have hold : w.request c = .hold ↔ HoldStands s c := (request_hold_iff w c).trans (all.holdStands standing)
  have last : OnlyChan c w t := by
    rw [ht]
    split
    · exact (beginToSet_only c w).trans (quietTest_only c _)
    · exact quietTest_only c w
  have alarm : t.alarm = w.alarm := (congrArg State.alarm last.frame :)
  have source := source_congr (congrArg Alarm.sources alarm)
  have whole := all.trans (.of_only last)
  refine ⟨fun free => ?_, fun stands => ?_, fun k => (source _).trans (proved k), fun k => (source _).trans (timed k),
    whole.others, whole.frame⟩
  · rw [if_neg (mt hold.mp free)] at ht
    have tested := quietTest_tested c w
    rw [← ht, chan] at tested
    exact tested.of_eq all.feedback all.tables all.now
  · rw [if_pos (hold.mpr stands)] at ht
    obtain ⟨moved, stopped⟩ := beginToSet_stopped c w
    have began := beginToSet_begins c w
    have after : t.brakes.get c = (beginToSet c w).brakes.get c := by
      rw [ht, quietTest_stops moved, ← stopped]
    rw [← after, chan] at began
    exact began.of_eq all.feedback all.tables all.now

end Sys2Proof.Machine
end

section
/-!
Lemmas for the obligation on the arrivals of the channels that set: the drive sets its brake, and the last confirmation of
a set (R54, R57, R58, R61, R175; log 34).
-/

namespace Sys2Proof.Machine

/-! A channel reaches SET (R58). -/

theorem RestKept.gain (i : Fin 13) (n : Nat) (s : State) : RestKept s (gain i n s) := by
  have put : ∀ r, RestKept s (putAttr i r s) := fun r => .of_eq rfl
  rw [gain_eq, setNorm_eq]
  split
  · exact put _
  · exact (put _).trans (.feed ..)

theorem RestKept.parkingTest (s : State) : RestKept s (parkingTest s) := by
  unfold Machine.parkingTest
  split
  · exact .changeMode ..
  · exact .refl s

/-- A channel's record when it reaches SET (R58). -/
def setAt (now : Nat) (ch : Channel) : Channel :=
  { ch.stopTimers with state := .set, setTime := now, confirm := ⟨false, false⟩, hardSet := false }

/-- The wear of a set from SETTING (R175). -/
def setWear (ch : Channel) : Nat := if ch.hardSet then 10 else 1

/-- The state of a channel that has reached SET, its wear recorded (R58, R175). -/
def setWorn (c : Chan) (fromSetting : Bool) (s : State) : State :=
  if fromSetting then gain (brakeWearOf c) (setWear (s.brakes.get c)) (s.setChan c (setAt s.now (s.brakes.get c)))
  else s.setChan c (setAt s.now (s.brakes.get c))

theorem reachSet_eq (c : Chan) (fromSetting : Bool) (s : State) :
    reachSet c fromSetting s = initTest (parkingTest (setWorn c fromSetting s)) := rfl

theorem setWorn_rests (c : Chan) (b : Bool) (s : State) :
    RestKept (s.setChan c (setAt s.now (s.brakes.get c))) (setWorn c b s) := by
  unfold setWorn
  split
  · exact .gain ..
  · exact .refl _

theorem reachSet_get (c : Chan) (b : Bool) (s : State) :
    (reachSet c b s).brakes.get c = setAt s.now (s.brakes.get c) := by
  have get := setChan_get s c (setAt s.now (s.brakes.get c))
  have kept := ((setWorn_rests c b s).trans (.parkingTest _)).trans (.initTest _)
  rw [reachSet_eq]
  exact (kept.kept c (by rw [get]; exact .inl rfl)).trans get

theorem reachSet_attrs (c : Chan) (b : Bool) (s : State) : (reachSet c b s).attrs = (setWorn c b s).attrs := by
  rw [reachSet_eq]
  exact ((parkingTest_kept _).trans (initTest_kept _)).attrs

theorem setWorn_raw (c : Chan) (s : State) :
    ((setWorn c true s).attrs.recs[brakeWearOf c]).raw
      = min 281474976710655 ((s.attrs.recs[brakeWearOf c]).raw + setWear (s.brakes.get c)) := by
  unfold setWorn
  rw [if_pos rfl, gain_raw]
  rfl

theorem setWorn_unworn (c : Chan) (s : State) : (setWorn c false s).attrs = s.attrs := rfl

/-- The wear of a set leaves all but the channel's record, the wear records and their source, where no point is on it. -/
theorem setWorn_frame (c : Chan) (b : Bool) {s : State} (unwatched : s.pointsOn (56 + (brakeWearOf c).val) = []) :
    setWorn c b s = { s.setChan c (setAt s.now (s.brakes.get c)) with
      attrs := (setWorn c b s).attrs, alarm := { s.alarm with sources := (setWorn c b s).alarm.sources } } := by
  unfold setWorn
  split
  · exact gain_unwatched _ _ _ unwatched
  · rfl

/-- The last channel reaches SET under parking: the mode is PARKED (R40, R58). -/
theorem reachSet_parks {c : Chan} {b : Bool} {s : State} (slot : s.ctl.slot = some { target := .park, wait := .brakes })
    (none : s.heldTrips = []) (mode : s.mode = .walking ∨ (s.mode = .dig ∧ s.tight.start = Option.none))
    (unwatched : s.pointsOn (56 + (brakeWearOf c).val) = [])
    (set : ∀ d, d ≠ c → (s.brakes.get d).state = .set) :
    (reachSet c b s).mode = .parked ∧ (reachSet c b s).ctl.slot = Option.none ∧ (reachSet c b s).ctl.hold = .none := by
  have frame := setWorn_frame c b unwatched
  have get := (setWorn_rests c b s).kept c (by rw [setChan_get]; exact .inl rfl)
  rw [setChan_get] at get
  have others : ∀ d, d ≠ c → (setWorn c b s).brakes.get d = s.brakes.get d := fun d other => by
    rw [frame]
    exact (setChan_only c (setAt s.now (s.brakes.get c)) s).others d other
  have ctl : (setWorn c b s).ctl = s.ctl := by rw [frame]; rfl
  have tight : (setWorn c b s).tight = s.tight := by rw [frame]; rfl
  have held : (setWorn c b s).heldTrips = [] := by rw [frame]; exact none
  rw [reachSet_eq]
  generalize setWorn c b s = w at get others ctl tight held ⊢
  have all : w.allSet = true := (allSet_iff w).mpr fun ⟨d, away⟩ => by
    by_cases same : d = c
    · rw [same, get] at away
      exact away rfl
    · rw [others d same] at away
      exact away (set d same)
  have serving : w.mode = .dig ∨ w.mode = .walking := by
    unfold State.mode
    rw [ctl]
    exact mode.symm.imp_left And.left
  have quiet : EpisodeUnwatched w := fun dig => by
    unfold State.mode at dig
    rw [ctl] at dig
    rcases mode with m | ⟨_, still⟩
    · exact absurd (m.symm.trans dig) (by decide)
    · rw [tight]
      exact .inl still
  have test : parkingTest w = changeMode .parked w := if_pos ⟨serving, by rw [ctl]; exact slot, all⟩
  have rest := modeSteps_quiet (new := .parked) (by decide) quiet
  rw [test, changeMode_steps (by decide) quiet held]
  have parked : (modeSteps .parked w).ctl = enteredCtl .parked w := by rw [rest]
  have still : initTest (modeSteps .parked w) = modeSteps .parked w := by
    unfold initTest
    refine if_neg fun k => ?_
    unfold State.mode at k
    rw [parked] at k
    cases k
  rw [still]
  exact ⟨congrArg ModeCtl.mode parked, congrArg ModeCtl.slot parked, congrArg ModeCtl.hold parked⟩

/-! The quiet test after a channel has reached SET (R56). -/

/-- The quiet test leaves a channel that has reached SET and everything else (R56). -/
theorem reached_quiet {c : Chan} {b : Bool} {s t : State} (ht : t = quietTest c (reachSet c b s)) :
    t.brakes.get c = setAt s.now (s.brakes.get c) ∧ t.attrs = (setWorn c b s).attrs ∧ t.ctl = (reachSet c b s).ctl := by
  have get := reachSet_get c b s
  have only := quietTest_only c (reachSet c b s)
  have attrs := reachSet_attrs c b s
  have stops := quietTest_stops (c := c) (s := reachSet c b s) (by rw [get]; exact ChanState.noConfusion)
  rw [get] at stops
  rw [← ht] at only stops
  exact ⟨stops, (congrArg State.attrs only.frame :).trans attrs, (congrArg State.ctl only.frame :)⟩

/-! The drive sets its brake (R54; log 34). -/

theorem channelArrival_drive {x : Axis} {trig : List Byte} {s : State}
    (waits : (s.brakes.get (chanOf x)).state = .released ∨ (s.brakes.get (chanOf x)).state = .setPending)
    (sound : (s.feedback.get x).brake ≠ .fault) :
    channelArrival x trig s
      = quietTest (chanOf x) (if (s.feedback.get x).brake = .set then setByDrive (chanOf x) x s else s) := by
  unfold channelArrival
  dsimp only
  rcases waits with k | k <;> rw [k] <;> dsimp only <;> rw [if_neg sound]

theorem setByDrive_eq (c : Chan) (x : Axis) (s : State) :
    setByDrive c x s = if ((enterSetting c (some x) s).brakes.get c).confirm.all c then
      reachSet c true (enterSetting c (some x) s) else enterSetting c (some x) s := rfl

theorem enterSetting_confirm (c : Chan) (x : Axis) (s : State) :
    ((enterSetting c (some x) s).brakes.get c).confirm
      = Pair.set ⟨false, false⟩ x (s.inBand c (s.feedback.get x).speed) := by
  unfold enterSetting
  rw [setChan_get]

/-- One axis's mark makes up the marks of every channel but WALK (R57). -/
theorem one_mark (x : Axis) (v : Bool) :
    (Pair.set ⟨false, false⟩ x v).all (chanOf x) = (v && decide (chanOf x ≠ .walk)) := by
  cases x <;> cases v <;> rfl

theorem inBand_eq (s : State) (c : Chan) (x : Axis) {still : Bool} (h : still = true ↔ Standstill s c x) :
    s.inBand c (s.feedback.get x).speed = still := Bool.eq_iff_iff.mpr ((inBand_iff s c x).trans h.symm)

/-- The drive sets its brake while the marks stay incomplete: SETTING (R54). -/
theorem drive_sets {x : Axis} {s t : State} (ht : t = quietTest (chanOf x) (setByDrive (chanOf x) x s))
    (h : chanOf x = .walk ∨ ¬Standstill s (chanOf x) x) {still : Bool} (hs : still = true ↔ Standstill s (chanOf x) x) :
    EntersSetting s (chanOf x) (Pair.set ⟨false, false⟩ x still) (s.brakes.get (chanOf x)) (t.brakes.get (chanOf x))
      ∧ (∀ d, d ≠ chanOf x → t.brakes.get d = s.brakes.get d) ∧ t = { s with brakes := t.brakes, statusOwed := t.statusOwed } := by
  have marks : ((enterSetting (chanOf x) (some x) s).brakes.get (chanOf x)).confirm.all (chanOf x) = false := by
    rw [enterSetting_confirm, inBand_eq s _ x hs, one_mark]
    rcases h with walk | moves
    · rw [walk]
      exact Bool.and_false still
    · rw [Bool.eq_false_iff.mpr (mt hs.mp moves)]
      rfl
  rw [setByDrive_eq, marks, if_neg Bool.false_ne_true] at ht
  have only := (enterSetting_only (chanOf x) (some x) s).trans (quietTest_only (chanOf x) _)
  rw [← ht] at only
  refine ⟨?_, only.others, only.frame⟩
  have entered := enterSetting_enters (chanOf x) (some x) s _ rfl
  have state := (enterSetting_get (chanOf x) (some x) s).1
  have stopped : ((enterSetting (chanOf x) (some x) s).brakes.get (chanOf x)).tAutoset = none := by
    rw [entered.1]
    rfl
  have after : t.brakes.get (chanOf x) = (enterSetting (chanOf x) (some x) s).brakes.get (chanOf x) := by
    rw [ht, quietTest_stops (by rw [state]; exact ChanState.noConfusion), ← stopped]
  rw [after]
  dsimp only at entered
  rw [inBand_eq s _ x hs] at entered
  exact entered

theorem moving_still {x : Axis} {s : State} (away : chanOf x ≠ .walk) (still : Standstill s (chanOf x) x) :
    s.moving (chanOf x) = false := by
  refine Bool.eq_false_iff.mpr fun k => ?_
  obtain ⟨y, mem, moves⟩ := (moving_iff s (chanOf x)).mp k
  have same : y = x := by
    cases x
    case walkLeft | walkRight => exact absurd rfl away
    all_goals exact List.mem_singleton.mp mem
  rw [same] at moves
  exact moves still

/-- The drive sets its brake at standstill: SET at once (R54, R57, R58; log 34). -/
theorem drive_reaches {x : Axis} {s t : State} (ht : t = quietTest (chanOf x) (setByDrive (chanOf x) x s))
    (away : chanOf x ≠ .walk) (still : Standstill s (chanOf x) x) :
    (t.brakes.get (chanOf x)).state = .set ∧ (t.brakes.get (chanOf x)).setTime = s.now
      ∧ (t.attrs.recs[brakeWearOf (chanOf x)]).raw
          = min 281474976710655 ((s.attrs.recs[brakeWearOf (chanOf x)]).raw + 1) := by
  have marks : ((enterSetting (chanOf x) (some x) s).brakes.get (chanOf x)).confirm.all (chanOf x) = true := by
    rw [enterSetting_confirm, inBand_eq s _ x (still := true) ⟨fun _ => still, fun _ => rfl⟩, one_mark]
    exact decide_eq_true away
  rw [setByDrive_eq, marks, if_pos rfl] at ht
  obtain ⟨get, attrs, _⟩ := reached_quiet ht
  have soft := (enterSetting_get (chanOf x) (some x) s).2.2.2.1
  rw [moving_still away still] at soft
  have only := enterSetting_only (chanOf x) (some x) s
  have now : (enterSetting (chanOf x) (some x) s).now = s.now := only.now
  have recs : (enterSetting (chanOf x) (some x) s).attrs = s.attrs := (congrArg State.attrs only.frame :)
  have raw := setWorn_raw (chanOf x) (enterSetting (chanOf x) (some x) s)
  unfold setWear at raw
  rw [soft, recs, if_neg Bool.false_ne_true] at raw
  rw [get, attrs, now]
  exact ⟨rfl, rfl, raw⟩

/-! An arrival in SETTING or FAULT (R57, R58, R61). -/

theorem channelArrival_setting {x : Axis} {trig : List Byte} {s : State} (b : Bool)
    (waits : ((s.brakes.get (chanOf x)).state = .setting ∧ (s.feedback.get x).brake ≠ .fault ∧ b = true)
      ∨ ((s.brakes.get (chanOf x)).state = .fault ∧ b = false)) :
    channelArrival x trig s = quietTest (chanOf x) (confirmMark (chanOf x) x
      ((s.feedback.get x).brake == .set && s.inBand (chanOf x) (s.feedback.get x).speed) (reachSet (chanOf x) b) s) := by
  unfold channelArrival
  dsimp only
  rcases waits with ⟨k, sound, rfl⟩ | ⟨k, rfl⟩
  · rw [k]
    dsimp only
    rw [if_neg sound]
  · rw [k]

/-- The last confirmation of a set (R57, R58, R61). -/
theorem set_confirmed {c : Chan} {b : Bool} {marks : Pair Bool} {s t : State}
    (ht : t = quietTest c (reachSet c b (markWritten c marks s))) :
    t.brakes.get c = setAt s.now (s.brakes.get c)
      ∧ (b = true → (t.attrs.recs[brakeWearOf c]).raw
          = min 281474976710655 ((s.attrs.recs[brakeWearOf c]).raw + setWear (s.brakes.get c)))
      ∧ (b = false → t.attrs = s.attrs)
      ∧ (s.ctl.slot = some { target := .park, wait := .brakes } → s.heldTrips = [] →
          (s.mode = .walking ∨ (s.mode = .dig ∧ s.tight.start = none)) →
          s.pointsOn (56 + (brakeWearOf c).val) = [] → (∀ d, d ≠ c → (s.brakes.get d).state = .set) →
          t.mode = .parked ∧ t.ctl.slot = none ∧ t.ctl.hold = .none) := by
  obtain ⟨get, attrs, ctl⟩ := reached_quiet ht
  have only := markWritten_only c marks s
  have mark := markWritten_get c marks s
  have now : (markWritten c marks s).now = s.now := only.now
  have recs : (markWritten c marks s).attrs = s.attrs := (congrArg State.attrs only.frame :)
  refine ⟨?_, ?_, ?_, fun slot none mode unwatched set => ?_⟩
  · rw [get, mark, now]
    rfl
  · rintro rfl
    have raw := setWorn_raw c (markWritten c marks s)
    rw [recs, mark] at raw
    rw [attrs]
    exact raw
  · rintro rfl
    rw [attrs, setWorn_unworn, recs]
  · have parks := reachSet_parks (c := c) (b := b) (s := markWritten c marks s) slot none mode unwatched
      fun d other => by rw [only.others d other]; exact set d other
    unfold State.mode
    rw [ctl]
    exact parks

end Sys2Proof.Machine
end

section
/-! The timers and arrivals of the channels that set or release. -/

namespace Sys2Proof.Proofs

open Sys2Proof.Machine

/-- The timers of O45. -/
theorem setting_timers (c : Chan) (s : State) :
    ((s.brakes.get c).state = .setPending → s.expired (s.brakes.get c).tDwell = true →
        ∃ t, exec (.releaseDwellExpiry c) s = .next t
          ∧ t = { s with brakes := t.brakes, ring := t.ring, owed := t.owed, statusOwed := t.statusOwed }
          ∧ (∀ d, d ≠ c → t.brakes.get d = s.brakes.get d)
          ∧ (t.brakes.get c).state = .setting ∧ (t.brakes.get c).hardSet = s.moving c
          ∧ (t.brakes.get c).confirm = ⟨false, false⟩
          ∧ (t.brakes.get c).tSet = some (s.now + (s.act.brake.get c).setConfirm))
    ∧ ((s.brakes.get c).state = .released → s.expired (s.brakes.get c).tAutoset = true →
        ∃ t, exec (.autosetExpiry c) s = .next t
          ∧ t = { s with brakes := t.brakes, ring := t.ring, owed := t.owed, statusOwed := t.statusOwed }
          ∧ (∀ d, d ≠ c → t.brakes.get d = s.brakes.get d)
          ∧ (t.brakes.get c).armed = false
          ∧ ((s.brakes.get c).releasedTime.getD 0 + (s.act.brake.get c).minRelease ≤ s.now →
              (t.brakes.get c).state = .setting)
          ∧ (s.now < (s.brakes.get c).releasedTime.getD 0 + (s.act.brake.get c).minRelease →
              (t.brakes.get c).state = .setPending
                ∧ (t.brakes.get c).tDwell
                    = some ((s.brakes.get c).releasedTime.getD 0 + (s.act.brake.get c).minRelease))) := by
  constructor
  · intro pending expired
    obtain ⟨rest, others⟩ := (enterSetting_only c none s).finished rfl
    obtain ⟨state, timer, _, hard, _⟩ := enterSetting_get c none s
    refine ⟨_, exec_releaseDwellExpiry c s, ?_⟩
    rw [dwellOut_expired pending expired]
    refine ⟨rest, others, ?_⟩
    rw [finish_brakes]
    exact ⟨state, hard, enterSetting_unconfirmed c s, timer⟩
  · intro released expired
    obtain ⟨rest, others⟩ := (beginToSet_only c s).finished rfl
    refine ⟨_, exec_autosetExpiry c s, ?_⟩
    rw [autosetOut_expired released expired]
    refine ⟨rest, others, ?_⟩
    rw [finish_brakes]
    refine ⟨beginToSet_disarms c s, fun late => ?_, fun early => ?_⟩
    · rw [beginToSet_late late]
      exact (enterSetting_get c none s).1
    · rw [beginToSet_early early]
      exact ⟨rfl, rfl⟩

/-- Settles O45: the three timers, and the arrivals in RELEASING, RELEASED, SET_PENDING, SETTING and FAULT. -/
theorem settingTimers : Obligations.SettingTimers := by
  unfold Obligations.SettingTimers
  refine ⟨fun c s => ⟨fun releasing expired => ⟨_, exec_releaseConfirmExpiry c s, release_times_out releasing expired rfl⟩,
    setting_timers c s⟩, ?arrivals⟩
  rintro x trig s t c ch b rfl rfl rfl ht
  refine ⟨fun releasing sound marks hmarks => ?releasing, fun waits => ⟨fun sound other => ?still, fun set h still hs => ?sets,
    fun set away still => ?reaches⟩, fun waits sound still marks hs hmarks => ?setting⟩
  case releasing =>
    rw [channelArrival_releasing releasing sound, confirmMark_eq] at ht
    have same : (s.brakes.get (chanOf x)).confirm.set x ((s.feedback.get x).brake == .released) = marks := hmarks.symm
    rw [same] at ht
    refine ⟨fun waits => ?_, fun all prove timeout rel hrel => ?_⟩
    · rw [waits, if_neg Bool.false_ne_true] at ht
      exact mark_waits (by rw [releasing]; exact ChanState.noConfusion) ht
    · rw [all, if_pos rfl] at ht
      exact release_confirmed rfl ht prove timeout hrel
  case still =>
    rw [channelArrival_drive waits sound, if_neg other] at ht
    have only := quietTest_only (chanOf x) s
    have tested := quietTest_tested (chanOf x) s
    rw [← ht] at only tested
    exact ⟨tested, only.others, only.frame⟩
  case sets =>
    rw [channelArrival_drive waits (by rw [set]; decide), if_pos set] at ht
    exact drive_sets ht h hs
  case reaches =>
    rw [channelArrival_drive waits (by rw [set]; decide), if_pos set] at ht
    exact drive_reaches ht away still
  case setting =>
    have rule := channelArrival_setting (x := x) (trig := trig) (s := s) (decide ((s.brakes.get (chanOf x)).state = .setting))
      (waits.imp (fun k => ⟨k, sound k, decide_eq_true k⟩) fun k => ⟨k, decide_eq_false (by rw [k]; decide)⟩)
    have same : (s.brakes.get (chanOf x)).confirm.set x
        ((s.feedback.get x).brake == .set && s.inBand (chanOf x) (s.feedback.get x).speed) = marks := by
      rw [inBand_eq s _ x hs]
      exact hmarks.symm
    rw [rule, confirmMark_eq, same] at ht
    refine ⟨fun none => ?_, fun all => ?_⟩
    · rw [none, if_neg Bool.false_ne_true] at ht
      exact mark_waits (by rcases waits with k | k <;> rw [k] <;> exact ChanState.noConfusion) ht
    · rw [all, if_pos rfl] at ht
      obtain ⟨get, wears, stands, parks⟩ := set_confirmed ht
      exact ⟨get, fun k => wears (decide_eq_true k), fun k => stands (decide_eq_false (by rw [k]; decide)), parks⟩

end Sys2Proof.Proofs
end

section
/-!
Lemmas for the obligation on the trips of a brake channel: what a first-out trip leaves of the channels, and a channel
entering FAULT (R57, R59 to R61, R63).
-/

namespace Sys2Proof.Machine

/-! A first-out trip sets every channel (R63). -/

/-- Every channel is SET, SETTING or in FAULT. -/
structure AllRest (s : State) : Prop where
  rests : ∀ d, (s.brakes.get d).state.rests

theorem AllRest.kept {s t : State} (h : AllRest s) (k : RestKept s t) : AllRest t :=
  ⟨fun d => by rw [k.kept d (h.rests d)]; exact h.rests d⟩

theorem TripSet.rests {s : State} {c : Chan} {ch ch' : Channel} (h : TripSet s c ch ch') : ch'.state.rests := by
  obtain ⟨pending, setting, still⟩ := h
  have enters (k : ch.state = .releasing ∨ ch.state = .released ∨ ch.state = .setPending) : ch'.state.rests := by
    rw [(setting k).1]
    exact .inr (.inl rfl)
  cases state : ch.state with
  | set => rw [still (.inl state)]; exact .inl state
  | releasePending => rw [pending state]; exact .inl rfl
  | releasing => exact enters (.inl state)
  | released => exact enters (.inr (.inl state))
  | setPending => exact enters (.inr (.inr state))
  | setting => rw [still (.inr (.inl state))]; exact .inr (.inl state)
  | fault => rw [still (.inr (.inr state))]; exact .inr (.inr state)

theorem tripSetAll_rests (s : State) : AllRest (tripSetAll s) := ⟨fun d => ((tripSetAll_sets s).1 d).rests⟩

theorem takeTrip_rests (i : TripIn) {s : State} (h : s.mode ≠ .tripped) : AllRest (takeTrip i s) := by
  unfold takeTrip
  rw [if_neg h]
  unfold firstTrip
  dsimp only
  have ended : ∀ u, RestKept u (withdrawTest (endRecord .abortedTrip none u)) := fun u => .of_eq rfl
  have set := tripSetAll_rests (deEnergise i.action (modeSteps .tripped s))
  split
  · exact set.kept ((ended _).trans (.appendRecord ..))
  · exact set.kept (.appendRecord ..)

theorem handTrip_rests (i : TripIn) {s : State} (none : s.heldTrips = []) (h : s.mode ≠ .tripped) :
    AllRest (handTrip i s) := by
  rw [handTrip_eq i none]
  exact (takeTrip_rests i h).kept (.drainTrips ..)

theorem AllRest.unreleased {s : State} (h : AllRest s) (d : Chan) :
    (s.brakes.get d).state ≠ .released ∧ (s.brakes.get d).state ≠ .releasing
      ∧ (s.brakes.get d).state ≠ .releasePending ∧ (s.brakes.get d).state ≠ .setPending := by
  rcases h.rests d with k | k | k <;> rw [k] <;> exact ⟨nofun, nofun, nofun, nofun⟩

/-! A channel enters FAULT (R61). -/

/-- A channel's record in FAULT (R61). -/
def faulted (ch : Channel) : Channel :=
  { ch.stopTimers with state := .fault, due := none, confirm := ⟨false, false⟩, armed := false }

/-- The trip of a channel in FAULT (R61). -/
def faultTrip (c : Chan) (trig : Option (List Byte)) : TripIn := { cause := .brakeFault c, action := .both, frame := trig }

theorem enterFault_eq (c : Chan) (trig : Option (List Byte)) (s : State) :
    enterFault c trig s = handTrip (faultTrip c trig) (s.setChan c (faulted (s.brakes.get c))) := rfl

/-- What the entry to FAULT leaves (R61, R157). -/
structure Faulted (c : Chan) (trig : Option (List Byte)) (s t : State) : Prop where
  chan : t.brakes.get c = faulted (s.brakes.get c)
  tripped : Tripped t
  brake : t.trip.brake = .deEnergised
  recorded : s.trip.queue.length < 32 → TripRecorded s (.brakeFault c) trig t
  rests : s.mode ≠ .tripped → AllRest t

theorem enterFault_faults (c : Chan) (trig : Option (List Byte)) {s : State} (none : s.heldTrips = []) :
    Faulted c trig s (enterFault c trig s) := by
  have get := setChan_get s c (faulted (s.brakes.get c))
  rw [enterFault_eq]
  have held : (s.setChan c (faulted (s.brakes.get c))).heldTrips = [] := none
  have kept := RestKept.handTrip (faultTrip c trig) (s.setChan c (faulted (s.brakes.get c)))
  refine ⟨(kept.kept c (by rw [get]; exact .inr (.inr rfl))).trans get, handTrip_tripped .., handTrip_brakeOff rfl held,
    fun room => ?_, fun h => handTrip_rests _ held h⟩
  have recorded := handTrip_recorded (i := faultTrip c trig) rfl held room
  exact recorded

theorem Faulted.of_eq {c : Chan} {trig : Option (List Byte)} {s t u : State} (h : Faulted c trig s t)
    (brakes : u.brakes = t.brakes) (ctl : u.ctl = t.ctl) (trip : u.trip = t.trip) : Faulted c trig s u := by
  refine ⟨by rw [brakes]; exact h.chan, ?_, by rw [trip]; exact h.brake, fun room => ?_, fun k => ⟨fun d => ?_⟩⟩
  · unfold Tripped State.mode
    rw [ctl, trip]
    exact h.tripped
  · unfold TripRecorded
    rw [trip]
    exact h.recorded room
  · rw [brakes]
    exact (h.rests k).rests d

/-! The set confirm timer (R57). -/

theorem exec_setConfirmExpiry (c : Chan) (s : State) : exec (.setConfirmExpiry c) s = .next (finish (setOut c s)) := by
  unfold exec
  rfl

theorem setOut_expired {c : Chan} {s : State} (setting : (s.brakes.get c).state = .setting)
    (expired : s.expired (s.brakes.get c).tSet = true) : setOut c s = enterFault c none s := by
  unfold setOut
  exact if_pos ⟨setting, expired⟩

/-- The record of a set not confirmed in time (R57, R61, R161). -/
theorem fault_record {c : Chan} {s k : State} (setting : (s.brakes.get c).state = .setting)
    (hk : k = { s with brakes := s.brakes.set c (faulted (s.brakes.get c)), statusOwed := true })
    (none : s.heldTrips = []) (still : s.updates = Option.none) (unwatched : TripUnwatched s) :
    ∃ r, Captured k (faultTrip c Option.none) (decide (s.mode ≠ .tripped)) r
      ∧ RecordTaken s r (finish (enterFault c Option.none s)) := by
  have same : s.setChan c (faulted (s.brakes.get c)) = k := by
    rw [hk]
    unfold State.setChan
    rw [setting]
    exact congrArg (fun b => ({ s with brakes := s.brakes.set c (faulted (s.brakes.get c)), statusOwed := b } : State))
      (Bool.or_true s.statusOwed)
  have quiet : TripUnwatched k := by rw [hk]; exact unwatched
  have held : k.heldTrips = [] := by rw [hk]; exact none
  have idle : k.updates = Option.none := by rw [hk]; exact still
  obtain ⟨_, _, _, _, ⟨r, captured, taken⟩, _⟩ := handTrip_taken (faultTrip c Option.none) held idle quiet
  rw [enterFault_eq, same]
  have mode : k.mode = s.mode := by rw [hk]
  rw [mode] at captured
  refine ⟨r, captured, ?_⟩
  have from_s := taken.of_trip (s := s) (by rw [hk]) (by rw [hk]) (by rw [hk])
  unfold RecordTaken at from_s ⊢
  rw [finish_trip]
  exact from_s

/-! A drive's report that trips (R59 to R61). -/

/-- A report that puts the channel in FAULT (R59 to R61). -/
def FaultReport (s : State) (x : Axis) (ch : Channel) : Prop :=
  ((ch.state = .set ∨ ch.state = .releasePending) ∧ Contradicts s x)
    ∨ ((ch.state = .releasing ∨ ch.state = .released ∨ ch.state = .setPending ∨ ch.state = .setting)
        ∧ (s.feedback.get x).brake = .fault)

theorem channelArrival_faults {x : Axis} {trig : List Byte} {s : State} (h : FaultReport s x (s.brakes.get (chanOf x))) :
    channelArrival x trig s = quietTest (chanOf x) (enterFault (chanOf x) (some trig) s) := by
  unfold channelArrival
  dsimp only
  rcases h with ⟨holds, contradicts⟩ | ⟨moves, fault⟩
  · have contra := (contradicts_iff s x).mpr contradicts
    rcases holds with k | k <;> rw [k] <;> dsimp only <;> rw [if_pos contra]
  · rcases moves with k | k | k | k <;> rw [k] <;> dsimp only <;> rw [if_pos fault]

theorem perChan_ext {α : Type} {p q : PerChan α} (same : ∀ d, p.get d = q.get d) : p = q := by
  cases p
  cases q
  exact PerChan.mk.injEq .. ▸ ⟨same .hoist, same .drag, same .swing, same .walk⟩

theorem arrival_faults {x : Axis} {trig : List Byte} {s : State} (h : FaultReport s x (s.brakes.get (chanOf x)))
    (none : s.heldTrips = []) : Faulted (chanOf x) (some trig) s (channelArrival x trig s) := by
  have faults := enterFault_faults (chanOf x) (some trig) none
  rw [channelArrival_faults h]
  have only := quietTest_only (chanOf x) (enterFault (chanOf x) (some trig) s)
  have stops := quietTest_stops (c := chanOf x) (s := enterFault (chanOf x) (some trig) s)
    (by rw [faults.chan]; exact ChanState.noConfusion)
  rw [faults.chan] at stops
  have ctl : (quietTest (chanOf x) (enterFault (chanOf x) (some trig) s)).ctl
      = (enterFault (chanOf x) (some trig) s).ctl := (congrArg State.ctl only.frame :)
  have trip : (quietTest (chanOf x) (enterFault (chanOf x) (some trig) s)).trip
      = (enterFault (chanOf x) (some trig) s).trip := (congrArg State.trip only.frame :)
  generalize quietTest (chanOf x) (enterFault (chanOf x) (some trig) s) = t at only stops ctl trip ⊢
  refine faults.of_eq ?_ ctl trip
  have all : ∀ d, t.brakes.get d = (enterFault (chanOf x) (some trig) s).brakes.get d := fun d => by
    by_cases same : d = chanOf x
    · rw [same, faults.chan]
      exact stops
    · exact only.others d same
  exact perChan_ext all

end Sys2Proof.Machine
end

section
/-! The trips of a brake channel. -/

namespace Sys2Proof.Proofs

open Sys2Proof.Machine

/-- What any trip records and leaves, the first part of O46. -/
theorem trip_recorded (i : TripIn) (s t : State) (n : Nat) (ht : t = handTrip i s) (hn : n = s.trip.queue.length)
    (none : s.heldTrips = []) (still : s.updates = Option.none) (unwatched : TripUnwatched s) :
    t.mode = .tripped ∧ t.trip.field = .deEnergised
      ∧ (i.action = .both → t.trip.brake = .deEnergised) ∧ (i.action = .field → t.trip.brake = s.trip.brake)
      ∧ (∃ r, Captured s i (decide (s.mode ≠ .tripped)) r ∧ RecordTaken s r t)
      ∧ (n < 32 → t.source 54 = { value := n + 1, valid := true } ∧ t.source 55 = s.source 55)
      ∧ (32 ≤ n → s.trip.notStored < 65535 →
          t.source 55 = { value := s.trip.notStored + 1, valid := true } ∧ t.source 54 = s.source 54)
      ∧ (32 ≤ n → 65535 ≤ s.trip.notStored → t.source 55 = s.source 55 ∧ t.source 54 = s.source 54)
      ∧ (s.mode = .tripped → t.brakes = s.brakes ∧ t.ctl = s.ctl)
      ∧ (s.mode ≠ .tripped →
          (∀ c, TripSet s c (s.brakes.get c) (t.brakes.get c)) ∧ Rearmed s t
            ∧ t.ctl = { s.ctl with
                mode := .tripped, entryTime := s.now, slot := Option.none, hold := .none
                reason := if s.mode = .init then .none else s.ctl.reason
                parkTimer := if s.mode = .dig then Option.none else s.ctl.parkTimer })
      ∧ (s.mode = .testing →
          (∃ rs, EndResults s rs ∧ TestStopped s t .abortedTrip Option.none rs)
            ∧ t.ring = { s.ring with ins := s.ring.ins.filter (fun e => !e.isTest) } ∧ t.tester.secondFinal = Option.none)
      ∧ (s.mode ≠ .testing → t.tester = s.tester ∧ t.ring = s.ring)
      ∧ t.attrs = s.attrs ∧ t.feedback = s.feedback ∧ t.tables = s.tables := by
  have kept := handTrip_kept i s
  obtain ⟨mode, field, both, fieldOnly, record, room, full, lost, repeated⟩ := handTrip_taken i none still unwatched
  subst ht hn
  refine ⟨mode, field, both, fieldOnly, record, room, full, lost, repeated, fun h => ?_, fun h => ?_, fun h => ?_,
    kept.attrs, kept.feedback, kept.tables⟩
  · obtain ⟨set, armed, ctl, _⟩ := handTrip_first i none still unwatched h
    exact ⟨set, armed, ctl⟩
  · obtain ⟨_, _, _, ended, _⟩ := handTrip_first i none still unwatched (by rw [h]; decide)
    exact ended h
  · by_cases again : s.mode = .tripped
    · exact handTrip_repeat i none still unwatched again
    · obtain ⟨_, _, _, _, other, _⟩ := handTrip_first i none still unwatched again
      exact other h

/-- Settles O46: what a trip records and leaves, the set confirm timer, and a drive's report that trips. -/
theorem setConfirmExpiryTrips : Obligations.SetConfirmExpiryTrips := by
  unfold Obligations.SetConfirmExpiryTrips
  refine ⟨trip_recorded, fun c s k setting expired hk none still unwatched => ?record,
    fun c s setting expired mode none room => ?expiry, ?arrival⟩
  case record =>
    obtain ⟨r, captured, taken⟩ := fault_record setting hk none still unwatched
    refine ⟨_, r, exec_setConfirmExpiry c s, captured, ?_⟩
    rw [setOut_expired setting expired]
    exact taken
  case expiry =>
    have faults := (enterFault_faults c Option.none none).of_eq (finish_brakes _) (finish_ctl _) (finish_trip _)
    refine ⟨_, exec_setConfirmExpiry c s, ?_⟩
    rw [setOut_expired setting expired]
    obtain ⟨r, mem, cause, action, first, frame, was, number, minutes⟩ := faults.recorded room
    refine ⟨by rw [faults.chan]; rfl, faults.tripped.1, faults.tripped.2, faults.brake,
      ⟨r, mem, cause, action, ?_, frame, was, number, minutes⟩, (faults.rests mode).unreleased⟩
    rw [first]
    exact decide_eq_true mode
  case arrival =>
    rintro x trig s t c ch rfl rfl rfl none report
    have faults := arrival_faults (trig := trig) report none
    exact ⟨faults.chan, faults.tripped.1, faults.tripped.2, faults.brake, faults.recorded,
      fun mode => (faults.rests mode).unreleased⟩

end Sys2Proof.Proofs
end

section
/-!
Lemmas for the obligation on the tightline episode and the silence timer: the onset timer, the silence timer, and the
test and hand-off of an arrival (R24, R86 to R88).
-/

namespace Sys2Proof.Machine

/-! The onset timer (R87). -/

theorem onsetOut_frame (s : State) : onsetOut s = { s with tight := (onsetOut s).tight } := by
  unfold onsetOut
  split <;> rfl

theorem onset_expires (s : State) :
    ∃ t, exec .onsetExpiry s = .next t
      ∧ t = { s with tight := t.tight, ring := t.ring, owed := t.owed, statusOwed := t.statusOwed }
      ∧ (s.tight.start.isSome = true → s.expired s.tight.onset = true →
          t.tight = { s.tight with onset := none, reduction := true })
      ∧ ((s.tight.start = none ∨ s.expired s.tight.onset = false) → t.tight = s.tight) := by
  refine ⟨finish (onsetOut s), rfl, ?_, fun runs out => ?_, fun idle => ?_⟩
  · have rest := (finish_kept (onsetOut s)).rest
    have fr := onsetOut_frame s
    rw [finish_tight]
    generalize finish (onsetOut s) = t at rest ⊢
    rw [rest]
    generalize onsetOut s = u at fr ⊢
    rw [fr]
  · rw [finish_tight, onsetOut, if_pos ⟨runs, out⟩]
  · rw [finish_tight, onsetOut, if_neg]
    rintro ⟨runs, out⟩
    rcases idle with stopped | waits
    · rw [stopped] at runs
      exact Bool.noConfusion runs
    · rw [waits] at out
      exact Bool.noConfusion out

/-! The silence timer (R24). -/

theorem silence_expires (s : State) :
    ∃ t, exec .ringSilenceExpiry s = .next t
      ∧ (s.expired s.ring.silence = true → t.ring.silence = none ∧ t.source 78 = { value := 1, valid := true })
      ∧ (s.expired s.ring.silence = false → OnlyRing s t)
      ∧ t.stations = s.stations ∧ t.feedback = s.feedback ∧ t.ring.fwd = s.ring.fwd := by
  refine ⟨finish (silenceOut s), rfl, ?_⟩
  rw [finish_silence, finish_source, finish_stations, finish_feedback, finish_fwd]
  unfold silenceOut
  by_cases out : s.expired s.ring.silence = true
  · rw [if_pos out]
    have kept := feed_kept 78 1 true none { s with ring := { s.ring with silence := none } }
    exact ⟨fun _ => ⟨kept.silence,
      feed_source_same (by decide) (by decide) (by decide) (by decide) (by decide) 1 true none _⟩,
      fun waits => (Bool.noConfusion (waits.symm.trans out)), kept.stations, kept.feedback, kept.fwd⟩
  · rw [if_neg out]
    exact ⟨fun k => absurd k out, fun _ => finish_onlyRing s, rfl, rfl, rfl⟩

theorem heard_restarts (s : State) :
    (s.ring.silence = none →
        heard s = feed 78 0 true none { (bump .taken s) with ring := { (bump .taken s).ring with
          silence := some (s.now + 50) } }
        ∧ (heard s).source 78 = { value := 0, valid := true })
      ∧ (s.ring.silence ≠ none →
          heard s = { (bump .taken s) with ring := { (bump .taken s).ring with silence := some (s.now + 50) } })
      ∧ (heard s).ring.silence = some (s.now + 50) := by
  refine ⟨fun silent => ⟨?_, (heard_source_78 s).1 silent⟩, fun runs => ?_, heard_silence s⟩
  · unfold heard silenceRestart
    dsimp only
    rw [if_pos (by rw [bump_silence, silent]; rfl), bump_now]
    rfl
  · unfold heard silenceRestart
    dsimp only
    rw [if_neg (by rw [bump_silence]; simpa using runs), bump_now]
    rfl

/-! The test of R86. -/

theorem hauling_iff (s : State) (x : Axis) : s.hauling x = true ↔
    (s.feedback.get x).current ≤ -(s.act.options.tightLevel : Int) ∧ Standstill s (chanOf x) x := by
  unfold State.hauling
  rw [Bool.and_eq_true, decide_eq_true_iff, inBand_iff]

theorem tightHolds_iff (s : State) : s.tightHolds = true ↔
    s.mode = .dig ∧ s.driveFresh .hoist = true ∧ s.driveFresh .drag = true
      ∧ s.feedback.hoist.current ≤ -(s.act.options.tightLevel : Int)
      ∧ s.feedback.drag.current ≤ -(s.act.options.tightLevel : Int)
      ∧ Standstill s .hoist .hoist ∧ Standstill s .drag .drag := by
  unfold State.tightHolds
  simp only [Bool.and_eq_true, beq_iff_eq, hauling_iff]
  constructor
  · rintro ⟨⟨⟨⟨dig, hoist⟩, drag⟩, hoistPulls, hoistStands⟩, dragPulls, dragStands⟩
    exact ⟨dig, hoist, drag, hoistPulls, dragPulls, hoistStands, dragStands⟩
  · rintro ⟨dig, hoist, drag, hoistPulls, dragPulls, hoistStands, dragStands⟩
    exact ⟨⟨⟨⟨dig, hoist⟩, drag⟩, hoistPulls, hoistStands⟩, dragPulls, dragStands⟩

theorem tightTest_steps (s : State) :
    (s.tight.start = none → s.tightHolds = false → tightTest s = s)
      ∧ (s.tight.start = none → s.tightHolds = true →
          tightTest s = { s with tight :=
            { start := some s.now
              onset := if s.act.options.onset = 0 then none else some (s.now + s.act.options.onset)
              reduction := decide (s.act.options.onset = 0), duration := 0, handed := 0 } })
      ∧ (∀ d, s.tight.start = some d → s.tightHolds = true →
          tightTest s = { s with tight := { s.tight with duration := s.now - d } })
      ∧ (s.tight.start.isSome = true → s.tightHolds = false →
          tightTest s = { s with tight :=
            { start := none, onset := none, reduction := false, duration := 0, handed := 0 } }) := by
  unfold tightTest
  cases start : s.tight.start with
  | none =>
    dsimp only
    refine ⟨fun _ lost => ?_, fun _ holds => ?_, nofun, nofun⟩
    · rw [if_neg (by rw [lost]; decide)]
    · rw [if_pos holds]
      rfl
  | some d =>
    dsimp only
    refine ⟨nofun, nofun, fun d' same holds => ?_, fun _ lost => ?_⟩
    · rw [if_pos holds, Option.some.inj same]
    · rw [if_neg (by rw [lost]; decide)]
      rfl

theorem tightTest_frame (s : State) : tightTest s = { s with tight := (tightTest s).tight } := by
  unfold tightTest clearEpisode
  split <;> split <;> rfl

/-! What an arrival hands of the episode (R88). -/

/-- With no point on its source, a gain hands at most that source. -/
theorem gain_unwatched_source {i : Fin 13} {n code : Nat} {s : State} (unwatched : s.pointsOn (56 + i.val) = [])
    (other : code ≠ 56 + i.val) : (gain i n s).source code = s.source code := by
  rw [gain_eq, setNorm_eq]
  split
  · rfl
  · rw [feed_unwatched _ _ _ (by exact unwatched), setSource_source_ne other (by omega)]
    rfl

/-- The seconds of a state's episode not yet handed to its wear record. -/
def secondsOwed (s : State) : Prop := s.tight.start.isSome ∧ s.tight.handed < s.tight.duration / 1000

theorem handSeconds_hands {s : State} (h : secondsOwed s) :
    handSeconds s = gain tightExposure (s.tight.duration / 1000 - s.tight.handed)
      { s with tight := { s.tight with handed := s.tight.duration / 1000 } } := if_pos h

theorem handSeconds_none {s : State} (h : ¬secondsOwed s) : handSeconds s = s := if_neg h

/-- What the hand-off of an arrival leaves, from the state `u` after the test of R86 and the update of the source. -/
theorem handSeconds_leaves {u : State} (unwatched : u.pointsOn 64 = []) :
    (handSeconds u).source 37 = u.source 37
      ∧ (u.tight.start.isSome = true → u.tight.handed < u.tight.duration / 1000 →
          (handSeconds u).tight = { u.tight with handed := u.tight.duration / 1000 }
            ∧ ((handSeconds u).attrs.recs[tightExposure]).raw = min 281474976710655
                ((u.attrs.recs[tightExposure]).raw + (u.tight.duration / 1000 - u.tight.handed)))
      ∧ ((u.tight.start = none ∨ u.tight.duration / 1000 ≤ u.tight.handed) →
          (handSeconds u).tight = u.tight ∧ (handSeconds u).attrs = u.attrs)
      ∧ handSeconds u = { u with
          tight := (handSeconds u).tight, attrs := (handSeconds u).attrs
          alarm := { u.alarm with sources := (handSeconds u).alarm.sources } } := by
  by_cases owed : secondsOwed u
  · rw [handSeconds_hands owed]
    set v : State := { u with tight := { u.tight with handed := u.tight.duration / 1000 } } with hv
    have only := gain_unwatched (i := tightExposure) (n := u.tight.duration / 1000 - u.tight.handed) (s := v) unwatched
    have source : (gain tightExposure (u.tight.duration / 1000 - u.tight.handed) v).source 37 = v.source 37 :=
      gain_unwatched_source unwatched (by decide)
    have raw := gain_raw (i := tightExposure) (n := u.tight.duration / 1000 - u.tight.handed) (s := v)
    have tight : (gain tightExposure (u.tight.duration / 1000 - u.tight.handed) v).tight = v.tight :=
      (congrArg State.tight only :)
    refine ⟨source, fun _ _ => ⟨tight, raw⟩, fun idle => ?_, ?_⟩
    · obtain ⟨runs, some⟩ := owed
      rcases idle with stopped | handed
      · rw [stopped] at runs
        exact Bool.noConfusion runs
      · omega
    · rw [tight]
      exact only
  · rw [handSeconds_none owed]
    exact ⟨rfl, fun runs some => absurd ⟨runs, some⟩ owed, fun _ => ⟨rfl, rfl⟩, rfl⟩

end Sys2Proof.Machine
end

section
/-! The onset timer, the silence timer and the tightline episode. -/

namespace Sys2Proof.Proofs

open Sys2Proof.Machine

theorem tightArrival_hands (s u t : State) (hu : u = tightTest s) (ht : t = tightArrival s) (dur : s.pointsOn 37 = [])
    (wear : s.pointsOn 64 = []) :
    t.source 37 =
        { value := (if u.tight.start.isSome then min 65535 u.tight.duration else 0 : Nat), valid := true }
      ∧ (u.tight.start.isSome = true → u.tight.handed < u.tight.duration / 1000 →
          t.tight = { u.tight with handed := u.tight.duration / 1000 }
            ∧ (t.attrs.recs[tightExposure]).raw = min 281474976710655
                ((s.attrs.recs[tightExposure]).raw + (u.tight.duration / 1000 - u.tight.handed)))
      ∧ ((u.tight.start = none ∨ u.tight.duration / 1000 ≤ u.tight.handed) →
          t.tight = u.tight ∧ t.attrs = s.attrs)
      ∧ t = { s with tight := t.tight, attrs := t.attrs, alarm := { s.alarm with sources := t.alarm.sources } } := by
  have frame := tightTest_frame s
  rw [← hu] at frame
  have same (n : Nat) : u.pointsOn n = s.pointsOn n := by rw [frame]; rfl
  have now : t = handSeconds (u.setSource 37 u.tight.sourceValue true) := by
    rw [ht, tightArrival]
    rw [← hu, feed_unwatched _ _ _ ((same 37).trans dur)]
  obtain ⟨source, hands, idle, rest⟩ := handSeconds_leaves (u := u.setSource 37 u.tight.sourceValue true)
    ((same 64).trans wear)
  rw [← now] at source hands idle rest
  rw [setSource_tight, setSource_attrs] at hands idle
  have attrs : u.attrs = s.attrs := by rw [frame]
  rw [attrs] at hands idle
  refine ⟨?_, hands, idle, ?_⟩
  · rw [source, setSource_source_same (by decide) (by decide)]
    unfold Tight.sourceValue
    rfl
  · have alarm : (u.setSource 37 u.tight.sourceValue true).alarm
        = { s.alarm with sources := (u.setSource 37 u.tight.sourceValue true).alarm.sources } := by
      rw [frame]
      rfl
    generalize t.tight = a, t.attrs = b, t.alarm.sources = c at rest ⊢
    rw [rest, frame]
    rfl

/-- Settles O47: each expiry is one test of its own timer, and the hand-off of an arrival is the update of the
duration source and the gain of the wear record, which without a watching point change nothing else. -/
theorem onsetAndSilenceExpire : Obligations.OnsetAndSilenceExpire := by
  unfold Obligations.OnsetAndSilenceExpire
  exact ⟨onset_expires, silence_expires, heard_restarts, tightHolds_iff, tightTest_steps, tightArrival_hands⟩

end Sys2Proof.Proofs
end

section
/-!
Rules of the alarm points: what a point does at an update of its source, in each zone of the value (R128, R130, R132),
and what an update does with its points (R123, R138).
-/

namespace Sys2Proof.Machine

/-! One point at an update (R130). -/

variable {trig : Option (List Byte)} {p : Fin 48} {s : State}

/-- What a point on a source in the met zone does. -/
def metStep (trig : Option (List Byte)) (p : Fin 48) (s : State) : PState → State
  | .normal =>
    if (s.act.points[p]).onDelay = 0 then activatePoint trig p s
    else setPoint p .delaying false (some (s.now + (s.act.points[p]).onDelay)) s
  | .activeUnack => if (s.act.points[p]).latching then setPoint p .activeUnack false none s else s
  | .activeAck => if (s.act.points[p]).latching then setPoint p .activeAck false none s else s
  | .returnedUnack => if s.armed p then activatePoint trig p s else s
  | _ => s

/-- What a point on a source in the clear zone does. -/
def clearStep (p : Fin 48) (s : State) : PState → State
  | .delaying => setPoint p .normal false none s
  | .activeUnack =>
    if (s.act.points[p]).latching then setPoint p .activeUnack true none s else setPoint p .returnedUnack false none s
  | .activeAck =>
    if (s.act.points[p]).latching then setPoint p .activeAck true none s else setPoint p (s.restState p) false none s
  | _ => s

theorem evalPoint_met (valid : (s.source (s.act.points[p]).source).valid = true)
    (met : MetZone s.act.points[p] (s.source (s.act.points[p]).source).value) :
    evalPoint trig p s = metStep trig p s (s.alarm.points[p]).state := by
  unfold evalPoint
  dsimp only
  rw [if_pos valid, (zone_met_iff ..).mpr met]
  cases (s.alarm.points[p]).state <;> rfl

theorem evalPoint_clear (valid : (s.source (s.act.points[p]).source).valid = true)
    (clear : ClearZone s.act.points[p] (s.source (s.act.points[p]).source).value) :
    evalPoint trig p s = clearStep p s (s.alarm.points[p]).state := by
  unfold evalPoint
  dsimp only
  rw [if_pos valid, (zone_clear_iff ..).mpr clear]
  cases (s.alarm.points[p]).state <;> rfl

theorem evalPoint_between (valid : (s.source (s.act.points[p]).source).valid = true)
    (short : ¬MetZone s.act.points[p] (s.source (s.act.points[p]).source).value)
    (above : ¬ClearZone s.act.points[p] (s.source (s.act.points[p]).source).value) : evalPoint trig p s = s := by
  have band : zoneOfValue s.act.points[p] (s.source (s.act.points[p]).source).value = .band := by
    rw [← zone_met_iff] at short
    rw [← zone_clear_iff] at above
    cases zone : zoneOfValue s.act.points[p] (s.source (s.act.points[p]).source).value with
    | met => exact absurd zone short
    | band => rfl
    | clear => exact absurd zone above
  unfold evalPoint
  dsimp only
  rw [if_pos valid, band]
  cases (s.alarm.points[p]).state <;> rfl

theorem evalPoint_invalid (bad : (s.source (s.act.points[p]).source).valid = false) :
    evalPoint trig p s = if (s.alarm.points[p]).state = .delaying then setPoint p .normal false none s else s := by
  unfold evalPoint
  dsimp only
  rw [if_neg (by rw [bad]; exact Bool.false_ne_true)]
  cases (s.alarm.points[p]).state <;> rfl

/-! A point that becomes ACTIVE_UNACK (R138). -/

theorem activatePoint_takes : PointTakes s p .activeUnack false (activatePoint trig p s) := by
  unfold activatePoint
  dsimp only
  have takes := setPoint_takes p .activeUnack false none s
  split
  · exact takes
  · exact takes

theorem activatePoint_held (mild : (s.act.points[p]).cls ≠ .trip) :
    activatePoint trig p s = setPoint p .activeUnack false none s := if_neg mild

/-- The trip that a TRIP-class point hands. -/
def pointTrip (trig : Option (List Byte)) (p : Fin 48) (s : State) : TripIn :=
  { cause := .point p, action := tripActionOf p s.act.points[p], frame := trig }

theorem activatePoint_trips (trip : (s.act.points[p]).cls = .trip) :
    (activatePoint trig p s).heldTrips = s.heldTrips ++ [pointTrip trig p s] := by
  unfold activatePoint
  dsimp only
  rw [if_pos trip, setPoint_heldTrips]
  rfl

/-- A TRIP-class point that becomes ACTIVE_UNACK hands its trip, which takes effect at once (R138). -/
theorem drain_activatePoint (trip : (s.act.points[p]).cls = .trip) :
    drain (activatePoint trig p s) = handTrip (pointTrip trig p s) (setPoint p .activeUnack false none s) := by
  unfold activatePoint handTrip
  dsimp only
  rw [if_pos trip]
  rfl

theorem pointTrip_action {a : TripAction} (h : (s.act.points[p]).action = some a) : (pointTrip trig p s).action = a := by
  show tripActionOf p s.act.points[p] = a
  unfold tripActionOf
  rw [h]
  rfl

/-- A point that joins the active list notes the time (R129, R139). -/
theorem setPoint_since {st : PState} (m : Bool) (timer : Option Nat) (listed : st.listed = true)
    (off : (s.alarm.points[p]).state.listed = false) :
    ((setPoint p st m timer s).alarm.points[p]).since = some s.now := by
  unfold setPoint
  dsimp only
  rw [if_neg]
  · show ((s.alarm.points.set p _)[p]).since = _
    rw [show (s.alarm.points.set p _)[p] = _ from Vector.getElem_set_self ..]
    dsimp only
    rw [if_pos listed, if_neg (by rw [off]; exact Bool.false_ne_true)]
  · rintro ⟨same, -⟩
    rw [same, off] at listed
    exact Bool.noConfusion listed

theorem setPoint_tDelay (d : Nat) (new : (s.alarm.points[p]).state ≠ .delaying) :
    ((setPoint p .delaying false (some d) s).alarm.points[p]).tDelay = some d := by
  unfold setPoint
  dsimp only
  rw [if_neg fun same => new same.1.symm]
  show ((s.alarm.points.set p _)[p]).tDelay = _
  rw [show (s.alarm.points.set p _)[p] = _ from Vector.getElem_set_self ..]
  show (if PState.delaying = PState.delaying then some d else Option.none) = some d
  exact if_pos rfl

/-! The points that an update evaluates (R123). -/

theorem mem_pointsOn (code : Nat) :
    p ∈ s.pointsOn code ↔ (s.act.points[p]).enabled = true ∧ (s.act.points[p]).source = code := by
  unfold State.pointsOn
  rw [List.mem_filter, Bool.and_eq_true, beq_iff_eq]
  exact and_iff_right (List.mem_finRange p)

theorem pointsOn_increasing (code : Nat) : (s.pointsOn code).Pairwise (· < ·) :=
  (List.pairwise_lt_finRange 48).filter _

/-- The machine with the updates waiting behind the one evaluated put aside. -/
def waiting (w : Option (List Update)) (s : State) : State := { s with updates := w }

theorem evalPoint_waiting (w : Option (List Update)) :
    evalPoint trig p (waiting w s) = waiting w (evalPoint trig p s) := by
  have set (st : PState) (m : Bool) (timer : Option Nat) :
      setPoint p st m timer (waiting w s) = waiting w (setPoint p st m timer s) := by
    unfold setPoint
    dsimp only
    by_cases same : st = (s.alarm.points[p]).state ∧ m = (s.alarm.points[p]).mark
    · rw [if_pos same, if_pos (by exact same)]
    · rw [if_neg same, if_neg (by exact same)]
      rfl
  have act : activatePoint trig p (waiting w s) = waiting w (activatePoint trig p s) := by
    unfold activatePoint
    dsimp only
    rw [set]
    by_cases trip : (s.act.points[p]).cls = .trip
    · rw [if_pos trip, if_pos (by exact trip)]
      rfl
    · rw [if_neg trip, if_neg (by exact trip)]
  have keep (c : Prop) [Decidable c] {a a' b b' : State} (ha : a = waiting w a') (hb : b = waiting w b') :
      (if c then a else b) = waiting w (if c then a' else b') := by
    split
    · exact ha
    · exact hb
  have met (st : PState) : metStep trig p (waiting w s) st = waiting w (metStep trig p s st) := by
    cases st with
    | normal => exact keep _ act (set ..)
    | activeUnack | activeAck => exact keep _ (set ..) rfl
    | returnedUnack => exact keep _ act rfl
    | delaying | shelved | disarmed => rfl
  have clear (st : PState) : clearStep p (waiting w s) st = waiting w (clearStep p s st) := by
    cases st with
    | delaying => exact set ..
    | activeUnack | activeAck => exact keep _ (set ..) (set ..)
    | normal | returnedUnack | shelved | disarmed => rfl
  cases valid : (s.source (s.act.points[p]).source).valid with
  | false =>
    rw [evalPoint_invalid valid, evalPoint_invalid (by exact valid)]
    exact keep _ (set ..) rfl
  | true =>
    by_cases inMet : MetZone s.act.points[p] (s.source (s.act.points[p]).source).value
    · rw [evalPoint_met valid inMet, evalPoint_met (by exact valid) (by exact inMet)]
      exact met _
    · by_cases inClear : ClearZone s.act.points[p] (s.source (s.act.points[p]).source).value
      · rw [evalPoint_clear valid inClear, evalPoint_clear (by exact valid) (by exact inClear)]
        exact clear _
      · rw [evalPoint_between valid inMet inClear,
          evalPoint_between (by exact valid) (by exact inMet) (by exact inClear)]

theorem foldl_evalPoint_waiting (w : Option (List Update)) (l : List (Fin 48)) : ∀ s : State,
    l.foldl (fun s p => evalPoint trig p s) (waiting w s) = waiting w (l.foldl (fun s p => evalPoint trig p s) s) := by
  induction l with
  | nil => exact fun _ => rfl
  | cons p l ih =>
    intro s
    rw [List.foldl_cons, evalPoint_waiting, ih]
    rfl

/-- Points none of which is of class TRIP hand no trip, and each is evaluated where the one before left off. -/
theorem foldl_drain_mild (l : List (Fin 48)) : ∀ {s : State}, s.heldTrips = [] →
    (∀ p ∈ l, (s.act.points[p]).cls ≠ .trip) →
    l.foldl (fun s p => drain (evalPoint trig p s)) s = l.foldl (fun s p => evalPoint trig p s) s
      ∧ (l.foldl (fun s p => evalPoint trig p s) s).heldTrips = [] := by
  induction l with
  | nil => exact fun none _ => ⟨rfl, none⟩
  | cons p l ih =>
    intro s none mild
    have held : (evalPoint trig p s).heldTrips = [] :=
      (evalPoint_heldTrips trig p s (mild p List.mem_cons_self)).trans none
    have tables : (evalPoint trig p s).act = s.act := (evalPoint_event trig p s).active
    rw [List.foldl_cons, List.foldl_cons, drain_none held]
    exact ih held fun q mem => by rw [tables]; exact mild q (List.mem_cons_of_mem _ mem)

/-- The update of one source: its evaluation, then the updates that the trips it raises hand. -/
theorem feed_eq (code : Nat) (v : Int) (ok : Bool) (trig : Option (List Byte)) (s : State) :
    feed code v ok trig s = waiting s.updates (takeUpdates 255
      (takeUpdate { code := code, value := v, valid := ok, trig := trig } (waiting (some []) s))) := by
  unfold feed feedAll
  conv_lhs => unfold takeUpdates
  rfl

theorem takeUpdates_idle {s : State} (h : s.updates = some []) (n : Nat) : takeUpdates n s = s := by
  cases n with
  | zero => rfl
  | succ n =>
    unfold takeUpdates
    rw [h]

/-- Where no point on the source is of class TRIP, an update does nothing but evaluate them (R123, R138). -/
theorem feed_mild {code : Nat} {v : Int} {ok : Bool} (none : s.heldTrips = [])
    (mild : ∀ p ∈ s.pointsOn code, (s.act.points[p]).cls ≠ .trip) :
    feed code v ok trig s = (s.pointsOn code).foldl (fun s p => evalPoint trig p s) (s.setSource code v ok) := by
  have taken : takeUpdate { code := code, value := v, valid := ok, trig := trig } (waiting (some []) s)
      = waiting (some []) ((s.pointsOn code).foldl (fun s p => evalPoint trig p s) (s.setSource code v ok)) := by
    have run := foldl_drain_mild (trig := trig) (s.updatePoints code)
      (s := waiting (some []) (s.setSource code v ok)) none
      fun p mem => mild p (mem_updatePoints.mp mem).1
    show (s.updatePoints code).foldl (fun s p => drain (evalPoint trig p s))
      (waiting (some []) (s.setSource code v ok)) = _
    rw [run.1, foldl_evalPoint_waiting, updatePoints_foldl]
  rw [feed_eq, taken, takeUpdates_idle rfl]
  have kept : ((s.pointsOn code).foldl (fun s p => evalPoint trig p s) (s.setSource code v ok)).updates = s.updates := by
    have same := foldl_evalPoint_waiting (trig := trig) s.updates (s.pointsOn code) (s.setSource code v ok)
    exact (congrArg State.updates same :)
  rw [← kept]
  rfl

end Sys2Proof.Machine
end

section
/-!
Lemmas for the obligation on the on-delay timer: a point at an update of its source, case by case, and the points that
a trip re-arms while an update is evaluated (R130, R135, R138).
-/

namespace Sys2Proof.Machine

/-! A point at an update of its source. -/

section Cases

variable {trig : Option (List Byte)} {p : Fin 48} {s o : State} {c : PointCfg} {r : PointRun} {src : Source}
  (ho : o = evalPoint trig p s) (hc : c = s.act.points[p]) (hr : r = s.alarm.points[p]) (hsrc : src = s.source c.source)
include ho hc hr hsrc

theorem point_invalid (bad : src.valid = false) :
    (r.state = .delaying → PointTakes s p .normal false o ∧ o.heldTrips = s.heldTrips)
      ∧ (r.state ≠ .delaying → o = s) := by
  subst hc
  rw [hsrc] at bad
  rw [ho, evalPoint_invalid bad, ← hr]
  refine ⟨fun delays => ?_, fun other => if_neg other⟩
  rw [if_pos delays]
  exact ⟨setPoint_takes .., setPoint_heldTrips ..⟩

omit hr in
theorem point_between (valid : src.valid = true) (short : ¬MetZone c src.value) (above : ¬ClearZone c src.value) :
    o = s := by
  subst hc
  rw [hsrc] at valid short above
  rw [ho, evalPoint_between valid short above]

theorem point_met (valid : src.valid = true) (met : MetZone c src.value) :
    (((r.state = .normal ∧ c.onDelay = 0) ∨ (r.state = .returnedUnack ∧ s.armed p = true)) →
        PointTakes s p .activeUnack false o
          ∧ (c.cls ≠ .trip → o.heldTrips = s.heldTrips)
          ∧ (c.cls = .trip → ∀ a, c.action = some a →
              o.heldTrips = s.heldTrips ++ [{ cause := .point p, action := a, frame := trig }]))
      ∧ (r.state = .normal → c.onDelay ≠ 0 →
          PointTakes s p .delaying false o ∧ (o.alarm.points[p]).tDelay = some (s.now + c.onDelay)
            ∧ o.heldTrips = s.heldTrips)
      ∧ ((r.state = .activeUnack ∨ r.state = .activeAck) → c.latching = true →
          PointTakes s p r.state false o ∧ o.heldTrips = s.heldTrips)
      ∧ ((((r.state = .activeUnack ∨ r.state = .activeAck) ∧ c.latching = false) ∨ r.state = .delaying
            ∨ (r.state = .returnedUnack ∧ s.armed p = false) ∨ r.state = .shelved ∨ r.state = .disarmed) → o = s) := by
  subst hc
  rw [hsrc] at valid met
  rw [evalPoint_met valid met, ← hr] at ho
  have acts (h : o = activatePoint trig p s) : PointTakes s p .activeUnack false o
      ∧ ((s.act.points[p]).cls ≠ .trip → o.heldTrips = s.heldTrips)
      ∧ ((s.act.points[p]).cls = .trip → ∀ a, (s.act.points[p]).action = some a →
          o.heldTrips = s.heldTrips ++ [{ cause := .point p, action := a, frame := trig }]) := by
    rw [h]
    refine ⟨activatePoint_takes, fun mild => ?_, fun trip a action => ?_⟩
    · rw [activatePoint_held mild, setPoint_heldTrips]
    · rw [activatePoint_trips trip, ← pointTrip_action (trig := trig) (s := s) action]
      rfl
  refine ⟨?_, fun normal delay => ?_, ?_, ?_⟩
  · rintro (⟨normal, now⟩ | ⟨returned, armed⟩)
    · rw [normal] at ho
      exact acts (ho.trans (if_pos now))
    · rw [returned] at ho
      exact acts (ho.trans (if_pos armed))
  · have set : o = setPoint p .delaying false (some (s.now + (s.act.points[p]).onDelay)) s := by
      rw [normal] at ho
      exact ho.trans (if_neg delay)
    rw [set]
    exact ⟨setPoint_takes .., setPoint_tDelay _ (by rw [← hr, normal]; exact PState.noConfusion),
      setPoint_heldTrips ..⟩
  · rintro (active | active) latches <;> rw [active] at ho ⊢ <;> rw [ho.trans (if_pos latches)] <;>
      exact ⟨setPoint_takes .., setPoint_heldTrips ..⟩
  · rintro (⟨active | active, free⟩ | delays | ⟨returned, off⟩ | shelved | disarmed)
    · rw [active] at ho
      exact ho.trans (if_neg (by rw [free]; exact Bool.false_ne_true))
    · rw [active] at ho
      exact ho.trans (if_neg (by rw [free]; exact Bool.false_ne_true))
    · rw [delays] at ho
      exact ho
    · rw [returned] at ho
      exact ho.trans (if_neg (by rw [off]; exact Bool.false_ne_true))
    · rw [shelved] at ho
      exact ho
    · rw [disarmed] at ho
      exact ho

theorem point_clear (valid : src.valid = true) (clear : ClearZone c src.value) :
    (r.state = .delaying → PointTakes s p .normal false o ∧ o.heldTrips = s.heldTrips)
      ∧ ((r.state = .activeUnack ∨ r.state = .activeAck) → c.latching = true →
          PointTakes s p r.state true o ∧ o.heldTrips = s.heldTrips)
      ∧ (r.state = .activeUnack → c.latching = false →
          PointTakes s p .returnedUnack false o ∧ o.heldTrips = s.heldTrips)
      ∧ (r.state = .activeAck → c.latching = false →
          PointTakes s p (if s.armed p then .normal else .disarmed) false o ∧ o.heldTrips = s.heldTrips)
      ∧ ((r.state = .normal ∨ r.state = .returnedUnack ∨ r.state = .shelved ∨ r.state = .disarmed) → o = s) := by
  subst hc
  rw [hsrc] at valid clear
  rw [evalPoint_clear valid clear, ← hr] at ho
  have sets {st : PState} {m : Bool} (h : o = setPoint p st m none s) :
      PointTakes s p st m o ∧ o.heldTrips = s.heldTrips := by
    rw [h]
    exact ⟨setPoint_takes .., setPoint_heldTrips ..⟩
  have free (l : (s.act.points[p]).latching = false) : ¬(s.act.points[p]).latching = true := by
    rw [l]
    exact Bool.false_ne_true
  refine ⟨fun delays => ?_, ?_, fun active loose => ?_, fun active loose => ?_, ?_⟩
  · rw [delays] at ho
    exact sets ho
  · rintro (active | active) latches
    · rw [active] at ho ⊢
      exact sets (ho.trans (if_pos latches))
    · rw [active] at ho ⊢
      exact sets (ho.trans (if_pos latches))
  · rw [active] at ho
    exact sets (ho.trans (if_neg (free loose)))
  · rw [active] at ho
    exact sets (ho.trans (if_neg (free loose)))
  · rintro (still | still | still | still) <;> rw [still] at ho <;> exact ho

end Cases

/-! A trip within an update (R135, R138). -/

/-- Nothing is waiting, or handed by a trip, that a point watches. -/
structure QuietWaits (s : State) : Prop where
  stored : s.pointsOn 54 = []
  dropped : s.pointsOn 55 = []
  queued : ∀ us, s.updates = some us → ∀ u ∈ us, s.pointsOn u.code = []

theorem QuietWaits.of_eq {s t : State} (h : QuietWaits s) (tables : t.tables = s.tables) (k : t.updates = s.updates) :
    QuietWaits t := by
  have same (n : Nat) : t.pointsOn n = s.pointsOn n := by
    unfold State.pointsOn State.act
    rw [tables]
  exact ⟨(same 54).trans h.stored, (same 55).trans h.dropped, fun us some u mem =>
    (same u.code).trans (h.queued us (k.symm.trans some) u mem)⟩

theorem QuietWaits.feedHeld {s : State} (h : QuietWaits s) {code : Nat} (quiet : s.pointsOn code = []) (v : Int)
    (ok : Bool) (trig : Option (List Byte)) :
    QuietWaits (feedHeld code v ok trig s) ∧ PointsAlike s (feedHeld code v ok trig s) := by
  refine ⟨?_, feedHeld_unwatched quiet v ok trig⟩
  have alike := feedHeld_unwatched quiet v ok trig
  unfold Machine.feedHeld
  cases waits : s.updates with
  | none =>
    dsimp only
    rw [quiet]
    exact h.of_eq rfl rfl
  | some us =>
    refine ⟨h.stored, h.dropped, fun vs some u mem => ?_⟩
    rw [← Option.some.inj some] at mem
    rcases List.mem_append.mp mem with old | new
    · exact h.queued us waits u old
    · rw [List.mem_singleton.mp new]
      exact quiet

theorem appendRecord_quiet (r : TripRecord) {s : State} (h : QuietWaits s) :
    QuietWaits (appendRecord r s) ∧ PointsAlike s (appendRecord r s) := by
  unfold appendRecord
  dsimp only
  split
  · have fed := (h.of_eq (t := oweStatus { s with trip := { s.trip with
        queue := s.trip.queue ++ [{ r with number := s.trip.next }]
        next := if s.trip.next < 4294967295 then s.trip.next + 1 else s.trip.next } }) rfl rfl).feedHeld h.stored
      (s.trip.queue ++ [{ r with number := s.trip.next }]).length true none
    exact ⟨fed.1, PointsAlike.trans (by constructor <;> rfl) fed.2⟩
  · split
    · have fed := (h.of_eq (t := oweStatus { s with trip := { s.trip with
          notStored := s.trip.notStored + 1
          next := if s.trip.next < 4294967295 then s.trip.next + 1 else s.trip.next } }) rfl rfl).feedHeld h.dropped
        (s.trip.notStored + 1 : Nat) true none
      exact ⟨fed.1, PointsAlike.trans (by constructor <;> rfl) fed.2⟩
    · exact ⟨h.of_eq rfl rfl, by constructor <;> rfl⟩

theorem walkModeChange_tripped_walk (old : Mode) (s : State) :
    walkModeChange old .tripped s = { s with walk := (walkModeChange old .tripped s).walk } := by
  unfold walkModeChange
  dsimp only
  split <;> split <;> rfl

theorem tightModeChange_quietWaits {old : Mode} {s : State} (h : QuietWaits s)
    (k : old = .dig → s.tight.start = none ∨ s.pointsOn 37 = []) : QuietWaits (tightModeChange old s) := by
  unfold tightModeChange
  split
  · rename_i runs
    obtain ⟨dig, start⟩ := Bool.and_eq_true_iff.mp runs
    rcases k (decide_eq_true_iff.mp dig) with ended | quiet
    · rw [ended] at start
      exact Bool.noConfusion start
    · exact ((h.of_eq (t := clearEpisode s) rfl rfl).feedHeld quiet 0 true none).1
  · exact h

theorem modeSteps_quietWaits {s : State} (h : QuietWaits s)
    (k : s.mode = .dig → s.tight.start = none ∨ s.pointsOn 37 = []) : QuietWaits (modeSteps .tripped s) := by
  unfold modeSteps
  simp only [reduceCtorEq, if_false, and_false]
  generalize start : ({ s with ctl := _ } : State) = a
  have armed := rearmPoints_rest a
  have walked := walkModeChange_tripped_walk s.mode (rearmPoints a)
  have tables : (walkModeChange s.mode .tripped (rearmPoints a)).tables = s.tables := by
    rw [walked, armed, ← start]
  have waits : (walkModeChange s.mode .tripped (rearmPoints a)).updates = s.updates := by
    rw [walked, armed, ← start]
  have tight : (walkModeChange s.mode .tripped (rearmPoints a)).tight = s.tight := by
    rw [walked, armed, ← start]
  refine QuietWaits.of_eq (tightModeChange_quietWaits (old := s.mode) (h.of_eq tables waits) fun dig => ?_) rfl rfl
  rw [tight]
  refine (k dig).imp_right fun quiet => ?_
  unfold State.pointsOn State.act at quiet ⊢
  rw [tables]
  exact quiet

/-- The machine is TRIPPED with point `q` as it stands, and nothing is coming that re-arms or evaluates it. -/
structure PointRests (q : Fin 48) (r : PointRun) (s : State) : Prop where
  mode : s.mode = .tripped
  point : s.alarm.points[q] = r
  waits : QuietWaits s

namespace PointRests

variable {q : Fin 48} {r : PointRun} {s : State}

theorem of_alike {t : State} (h : PointRests q r s) (alike : PointsAlike s t) (waits : QuietWaits t) :
    PointRests q r t :=
  ⟨alike.mode.trans h.mode, by rw [alike.points]; exact h.point, waits⟩

theorem takeTrip (i : TripIn) (h : PointRests q r s) : PointRests q r (takeTrip i s) := by
  unfold Machine.takeTrip
  rw [if_pos h.mode]
  have lines : PointRests q r (deEnergise i.action s) := ⟨h.mode, h.point, h.waits.of_eq rfl rfl⟩
  obtain ⟨waits, alike⟩ := appendRecord_quiet (capture i false s) lines.waits
  exact lines.of_alike alike waits

theorem drainTrips (n : Nat) : ∀ {s}, PointRests q r s → PointRests q r (drainTrips n s) := by
  induction n with
  | zero => exact fun h => ⟨h.mode, h.point, h.waits.of_eq rfl rfl⟩
  | succ n ih =>
    intro s h
    unfold Machine.drainTrips
    split
    · exact h
    · rename_i i rest held
      have put : PointRests q r { s with heldTrips := rest } := ⟨h.mode, h.point, h.waits.of_eq rfl rfl⟩
      exact ih (put.takeTrip i)

theorem evalPoint (trig : Option (List Byte)) {p : Fin 48} (other : q ≠ p) (h : PointRests q r s) :
    PointRests q r (evalPoint trig p s) :=
  ⟨(evalPoint_event trig p s).mode.trans h.mode, (evalPoint_ne other trig s).trans h.point,
    h.waits.of_eq (evalPoint_tables trig p s) (congrArg State.updates (evalPoint_waiting s.updates) :)⟩

theorem foldl_evalPoint (trig : Option (List Byte)) (l : List (Fin 48)) (out : q ∉ l) : ∀ {s}, PointRests q r s →
    PointRests q r (l.foldl (fun s p => drain (Machine.evalPoint trig p s)) s) := by
  induction l with
  | nil => exact fun h => h
  | cons p l ih =>
    intro s h
    exact ih (fun k => out (List.mem_cons_of_mem _ k))
      ((h.evalPoint trig fun same => out (by rw [same]; exact List.mem_cons_self)).drainTrips 256)

theorem takeUpdates (n : Nat) : ∀ {s}, PointRests q r s → PointRests q r (takeUpdates n s) := by
  induction n with
  | zero => exact fun h => h
  | succ n ih =>
    intro s h
    unfold Machine.takeUpdates
    split
    · rename_i u us waits
      have quiet : ({ s with updates := some us } : State).pointsOn u.code = [] :=
        h.waits.queued _ waits u List.mem_cons_self
      have fewer : QuietWaits { s with updates := some us } := ⟨h.waits.stored, h.waits.dropped,
        fun vs some v mem => h.waits.queued _ waits v (by
          rw [← Option.some.inj some] at mem
          exact List.mem_cons_of_mem _ mem)⟩
      unfold takeUpdate
      rw [updatePoints_nil quiet]
      exact ih ⟨h.mode, h.point, fewer.of_eq rfl rfl⟩
    · exact h

end PointRests

/-- The record of a point re-armed (R129, R135). -/
def rearmedRecord (q : Fin 48) (s : State) : PointRun :=
  { state := .normal, mark := false, tDelay := none, tShelf := none, since := none
    chValue := (s.source (s.act.points[q]).source).value
    chValid := (s.source (s.act.points[q]).source).valid, chTime := s.now }

/-- A first-out trip re-arms the points for TRIPPED, whatever waits to be evaluated (R135, R157). -/
theorem takeTrip_rearms (i : TripIn) {s : State} (waits : QuietWaits s) (running : s.mode ≠ .tripped)
    (k : s.mode = .dig → s.tight.start = none ∨ s.pointsOn 37 = []) {q : Fin 48} (enabled : (s.act.points[q]).enabled = true)
    (off : (s.alarm.points[q]).state = .disarmed) (arms : (s.act.points[q]).mask.getLsbD Mode.tripped.code = true) :
    PointRests q (rearmedRecord q s) (takeTrip i s) := by
  obtain ⟨mode, rearmed, -⟩ := modeSteps_rearmed (m := .tripped) k (fun k => Mode.noConfusion k)
  have armed : (modeSteps .tripped s).alarm.points[q] = rearmedRecord q s :=
    rearmed.1 q _ _ .normal rfl rfl enabled (.inr ⟨off, by rw [mode]; exact arms, rfl⟩)
  have steps : PointRests q (rearmedRecord q s) (modeSteps .tripped s) := ⟨mode, armed, modeSteps_quietWaits waits k⟩
  obtain ⟨-, brakes⟩ := tripSetAll_sets (deEnergise i.action (modeSteps .tripped s))
  have set : PointRests q (rearmedRecord q s) (tripSetAll (deEnergise i.action (modeSteps .tripped s))) := by
    rw [brakes]
    exact ⟨steps.mode, steps.point, steps.waits.of_eq rfl rfl⟩
  unfold takeTrip
  rw [if_neg running]
  unfold firstTrip
  dsimp only
  by_cases testing : s.mode = .testing
  · rw [if_pos testing]
    have ended : PointRests q (rearmedRecord q s)
        (withdrawTest (endRecord .abortedTrip none (tripSetAll (deEnergise i.action (modeSteps .tripped s))))) :=
      ⟨set.mode, set.point, set.waits.of_eq rfl rfl⟩
    obtain ⟨quiet, alike⟩ := appendRecord_quiet (capture i true s) ended.waits
    exact ended.of_alike alike quiet
  · rw [if_neg testing]
    obtain ⟨quiet, alike⟩ := appendRecord_quiet (capture i true s) set.waits
    exact set.of_alike alike quiet

end Sys2Proof.Machine
end

section
/-!
Lemmas for the obligation on the on-delay timer: an update whose point trips, and the timer's expiry (R131, R138).
-/

namespace Sys2Proof.Machine

/-! An update whose first point trips (R138). -/

/-- The update of `code` to `v`, as its evaluation begins. -/
def updating (code : Nat) (v : Int) (s : State) : State := waiting (some []) (s.setSource code v true)

/-- A NORMAL point of class TRIP without on-delay hands its trip when its source takes a value in its met zone. -/
theorem drain_evalPoint_trips {trig : Option (List Byte)} {p : Fin 48} {code : Nat} {v : Int} {s : State}
    (low : 1 ≤ code) (high : code ≤ 79) (on : (s.act.points[p]).source = code) (trip : (s.act.points[p]).cls = .trip)
    (normal : (s.alarm.points[p]).state = .normal) (delay : (s.act.points[p]).onDelay = 0)
    (met : MetZone s.act.points[p] v) :
    drain (evalPoint trig p (updating code v s))
      = handTrip (pointTrip trig p s) (setPoint p .activeUnack false none (updating code v s)) := by
  have source : (updating code v s).source (s.act.points[p]).source = { value := v, valid := true } := by
    rw [on]
    exact setSource_source_same low high v true s
  have point : evalPoint trig p (updating code v s) = activatePoint trig p (updating code v s) := by
    rw [evalPoint_met (s := updating code v s) (show ((updating code v s).source (s.act.points[p]).source).valid = true
        by rw [source]) (show MetZone s.act.points[p] ((updating code v s).source (s.act.points[p]).source).value
        by rw [source]; exact met)]
    show metStep trig p (updating code v s) (s.alarm.points[p]).state = _
    rw [normal]
    exact if_pos delay
  rw [point, drain_activatePoint (s := updating code v s) trip]
  rfl

/-- The points that an update evaluates after a first one that is armed. -/
theorem updatePoints_cons {code : Nat} {p : Fin 48} {rest : List (Fin 48)} {s : State}
    (on : s.pointsOn code = p :: rest) (armed : (s.alarm.points[p]).state ≠ .disarmed) :
    s.updatePoints code = p :: rest.filter fun q => (s.alarm.points[q]).state != .disarmed := by
  unfold State.updatePoints
  rw [on]
  exact List.filter_cons_of_pos (bne_iff_ne.mpr armed)

/-- An update whose first point trips: the trip, then the points and the updates behind it. -/
theorem feed_trips {trig : Option (List Byte)} {p : Fin 48} {rest : List (Fin 48)} {code : Nat} {v : Int} {s : State}
    (low : 1 ≤ code) (high : code ≤ 79) (on : s.pointsOn code = p :: rest) (trip : (s.act.points[p]).cls = .trip)
    (normal : (s.alarm.points[p]).state = .normal) (delay : (s.act.points[p]).onDelay = 0)
    (met : MetZone s.act.points[p] v) :
    feed code v true trig s = waiting s.updates (takeUpdates 255
      ((rest.filter fun q => (s.alarm.points[q]).state != .disarmed).foldl (fun s p => drain (evalPoint trig p s))
        (handTrip (pointTrip trig p s) (setPoint p .activeUnack false none (updating code v s))))) := by
  have source : (s.act.points[p]).source = code :=
    ((mem_pointsOn code).mp (by rw [on]; exact List.mem_cons_self)).2
  rw [feed_eq]
  show waiting s.updates (takeUpdates 255 ((s.updatePoints code).foldl (fun s p => drain (evalPoint trig p s))
    (updating code v s))) = _
  rw [updatePoints_cons on (by rw [normal]; exact PState.noConfusion), List.foldl_cons,
    drain_evalPoint_trips low high source trip normal delay met]

/-- What a trip leaves standing, an update leaves standing once its point has tripped. -/
theorem TripStable.feed_trips {Q : State → Prop} (K : TripStable Q) {trig : Option (List Byte)} {p : Fin 48}
    {rest : List (Fin 48)} {code : Nat} {v : Int} {s : State}
    (low : 1 ≤ code) (high : code ≤ 79) (on : s.pointsOn code = p :: rest) (trip : (s.act.points[p]).cls = .trip)
    (normal : (s.alarm.points[p]).state = .normal) (delay : (s.act.points[p]).onDelay = 0)
    (met : MetZone s.act.points[p] v)
    (made : Q (Machine.handTrip (pointTrip trig p s) (setPoint p .activeUnack false none (updating code v s)))) :
    Q (Machine.feed code v true trig s) := by
  rw [Machine.feed_trips low high on trip normal delay met]
  have evaluated := keeps_foldl (f := fun s p => drain (evalPoint trig p s)) (P := Q)
    (fun _ p k => K.drainTrips 256 (K.event (evalPoint_event trig p _) k))
    (rest.filter fun q => (s.alarm.points[q]).state != .disarmed) _ made
  exact K.view (K.takeUpdates 255 evaluated) rfl rfl

theorem setPoint_sourceTable (p : Fin 48) (st : PState) (m : Bool) (timer : Option Nat) (s : State) :
    (setPoint p st m timer s).alarm.sources = s.alarm.sources := by
  unfold setPoint
  dsimp only
  split <;> rfl

theorem updating_rest {p : Fin 48} {code : Nat} {v : Int} {s : State} :
    setPoint p .activeUnack false none (updating code v s)
      = { s with alarm := (setPoint p .activeUnack false none (updating code v s)).alarm
                 owed := (setPoint p .activeUnack false none (updating code v s)).owed
                 statusOwed := (setPoint p .activeUnack false none (updating code v s)).statusOwed
                 updates := some [] } := by
  unfold setPoint updating waiting
  dsimp only
  split <;> rfl

end Sys2Proof.Machine
end

section
/-! Alarm points: the updates of their sources and their on-delay timers. -/

namespace Sys2Proof.Proofs

open Sys2Proof.Machine

/-- The trip of an update's only point, the second part of O48. -/
theorem only_point_trips {s : State} {code : Nat} {v : Int} {trig : Option (List Byte)} {p : Fin 48}
    (none : s.heldTrips = []) (on : s.pointsOn code = [p]) (trip : (s.act.points[p]).cls = .trip)
    (both : (s.act.points[p]).action = some .both) (low : 1 ≤ code) (high : code ≤ 79)
    (normal : (s.alarm.points[p]).state = .normal) (delay : (s.act.points[p]).onDelay = 0)
    (met : MetZone s.act.points[p] v) :
    (feed code v true trig s).mode = .tripped ∧ (feed code v true trig s).trip.field = .deEnergised
      ∧ (feed code v true trig s).trip.brake = .deEnergised
      ∧ (s.trip.queue.length < 32 → TripRecorded s (.point p) trig (feed code v true trig s)) := by
  have action : (pointTrip trig p s).action = .both := pointTrip_action both
  have rest := updating_rest (p := p) (code := code) (v := v) (s := s)
  have tripped := tripped_stable.feed_trips (trig := trig) low high on trip normal delay met (handTrip_tripped ..)
  refine ⟨tripped.1, tripped.2, ?_, fun room => ?_⟩
  · refine brakeOff_stable.feed_trips low high on trip normal delay met (handTrip_brakeOff action ?_)
    rw [rest]
    exact none
  · have held := handTrip_recorded (i := pointTrip trig p s) action
      (s := setPoint p .activeUnack false Option.none (updating code v s)) (by rw [rest]; exact none)
      (by rw [rest]; exact room)
    obtain ⟨r, mem, cause, lines, first, frame, mode, number, minutes⟩ := held
    rw [rest] at first mode number minutes
    exact ⟨r, (recordHeld_stable r).feed_trips low high on trip normal delay met mem, cause, lines, first, frame, mode,
      number, minutes⟩

/-- A point that the trip of an update re-arms waits for the next update of its source, the third part of O48. -/
theorem later_point_waits (s : State) (code : Nat) (v : Int) (trig : Option (List Byte)) (p q : Fin 48)
    (rest : List (Fin 48)) (low : 1 ≤ code) (high : code ≤ 79) (none : s.heldTrips = []) (unwatched : TripUnwatched s)
    (running : s.mode ≠ .tripped) (on : s.pointsOn code = p :: rest) (trip : (s.act.points[p]).cls = .trip)
    (normal : (s.alarm.points[p]).state = .normal) (delay : (s.act.points[p]).onDelay = 0)
    (met : MetZone s.act.points[p] v) (later : q ∈ rest) (off : (s.alarm.points[q]).state = .disarmed)
    (arms : (s.act.points[q]).mask.getLsbD Mode.tripped.code = true) :
    (feed code v true trig s).alarm.points[q] =
      { state := .normal, mark := false, tDelay := Option.none, tShelf := Option.none, since := Option.none, chValue := v
        chValid := true, chTime := s.now } := by
  obtain ⟨stored, dropped, episode⟩ := unwatched
  have watches : q ∈ s.pointsOn code := by
    rw [on]
    exact List.mem_cons_of_mem _ later
  obtain ⟨enabled, source⟩ := (mem_pointsOn code).mp watches
  have other : q ≠ p := by
    rintro rfl
    rw [normal] at off
    exact PState.noConfusion off
  have frame := updating_rest (p := p) (code := code) (v := v) (s := s)
  have takes := setPoint_takes p .activeUnack false Option.none (updating code v s)
  have value : (setPoint p .activeUnack false Option.none (updating code v s)).source code
      = { value := v, valid := true } := by
    rw [source_congr (setPoint_sourceTable ..)]
    exact setSource_source_same low high v true s
  obtain ⟨-, -, -, points, -⟩ := takes
  have point := points q other
  rw [feed_trips low high on trip normal delay met]
  generalize setPoint p .activeUnack false Option.none (updating code v s) = u at frame value point
  have same (n : Nat) : u.pointsOn n = s.pointsOn n := by rw [frame]; rfl
  have act : u.act = s.act := by rw [frame]
  have waits : QuietWaits u := ⟨(same 54).trans stored, (same 55).trans dropped, fun us some x mem => by
    rw [frame] at some
    rw [← Option.some.inj some] at mem
    exact absurd mem List.not_mem_nil⟩
  have taken := takeTrip_rearms (pointTrip trig p s) waits (q := q) (by rw [frame]; exact running)
    (by rw [same, frame]; exact episode) (by rw [act]; exact enabled) (by rw [point]; exact off)
    (by rw [act]; exact arms)
  have tripped := taken.drainTrips 255
  rw [← handTrip_eq _ (by rw [frame]; exact none)] at tripped
  have out : q ∉ rest.filter fun q => (s.alarm.points[q]).state != .disarmed := by
    rw [List.mem_filter, off]
    exact fun k => Bool.noConfusion k.2
  have ended := (tripped.foldl_evalPoint trig _ out).takeUpdates 255
  refine ended.point.trans ?_
  unfold rearmedRecord
  rw [act, source, value, frame]

/-- The expiry of an on-delay timer, the last part of O48. -/
theorem on_delay_expires (p : Fin 48) (s : State) (none : s.heldTrips = []) :
    ∃ t, exec (.onDelayExpiry p) s = .next t
      ∧ ((s.alarm.points[p]).state = .delaying → s.expired (s.alarm.points[p]).tDelay = true →
          ((s.act.points[p]).cls ≠ .trip →
            (t.alarm.points[p]).state = .activeUnack ∧ t.alarm.list = s.alarm.list ++ [p]
              ∧ (t.alarm.points[p]).since = some s.now ∧ OnlyPoints s t)
          ∧ ((s.act.points[p]).cls = .trip →
              t.mode = .tripped ∧ t.trip.field = .deEnergised
                ∧ ((s.act.points[p]).action = some .both → t.trip.brake = .deEnergised)
                ∧ (s.trip.queue.length < 32 → ∃ r ∈ t.trip.queue, r.cause = .point p ∧ r.frame = Option.none)))
      ∧ (((s.alarm.points[p]).state ≠ .delaying ∨ s.expired (s.alarm.points[p]).tDelay = false) → OnlyRing s t) := by
  refine ⟨finish (onDelayOut p s), rfl, fun delays out => ⟨fun mild => ?_, fun trip => ?_⟩, fun waits => ?_⟩
  · have acts : onDelayOut p s = setPoint p .activeUnack false Option.none s := by
      unfold onDelayOut
      dsimp only
      rw [if_pos ⟨delays, out⟩, activatePoint_held mild]
      exact drain_none ((setPoint_heldTrips ..).trans none)
    have unlisted : (s.alarm.points[p]).state.listed = false := by rw [delays]; rfl
    obtain ⟨only, state, -, -, -, -, joins, -⟩ := setPoint_takes p .activeUnack false Option.none s
    rw [acts, finish_alarm]
    refine ⟨state, joins rfl unlisted, setPoint_since _ _ rfl unlisted, ?_⟩
    have held := setPoint_heldTrips p .activeUnack false Option.none s
    have ended := (finish_kept (setPoint p .activeUnack false Option.none s)).rest
    have alarm := finish_alarm (setPoint p .activeUnack false Option.none s)
    unfold OnlyPoints at only ⊢
    generalize setPoint p .activeUnack false Option.none s = u at only held ended alarm
    have back : u = { u with heldTrips := s.heldTrips } := by rw [← held]
    rw [only] at back
    rw [alarm]
    generalize finish u = t at ended ⊢
    rw [ended]
    generalize u.alarm.points = points, u.alarm.list = list at back ⊢
    rw [back]
  · have acts : onDelayOut p s
        = handTrip (pointTrip Option.none p s) (setPoint p .activeUnack false Option.none s) := by
      unfold onDelayOut
      dsimp only
      rw [if_pos ⟨delays, out⟩, drain_activatePoint trip]
    have held : (setPoint p .activeUnack false Option.none s).heldTrips = [] := (setPoint_heldTrips ..).trans none
    have tripped := handTrip_tripped (pointTrip Option.none p s) (setPoint p .activeUnack false Option.none s)
    rw [finish_mode, finish_trip, acts]
    refine ⟨tripped.1, tripped.2, fun both => handTrip_brakeOff (pointTrip_action both) held, fun room => ?_⟩
    have same : (setPoint p .activeUnack false Option.none s).trip = s.trip := (setPoint_event ..).trip
    exact ⟨_, handTrip_holds (pointTrip Option.none p s) held (by rw [same]; exact room), rfl, rfl⟩
  · have idle : onDelayOut p s = s := by
      unfold onDelayOut
      dsimp only
      refine if_neg ?_
      rintro ⟨delays, out⟩
      rcases waits with other | early
      · exact other delays
      · rw [early] at out
        exact Bool.noConfusion out
    rw [idle]
    exact finish_onlyRing s

/-- Settles O48: each part is what one update or one expiry does with its points, where a trip that a point hands is the
trip unit's, which keeps the record and the lines whatever is evaluated after it. -/
theorem onDelayExpires : Obligations.OnDelayExpires := by
  unfold Obligations.OnDelayExpires
  refine ⟨fun s code v ok low high => ⟨setSource_source_same low high v ok s,
      fun n other => setSource_source_ne other low v ok s, rfl, fun p => mem_pointsOn code,
      pointsOn_increasing code⟩,
    fun s code v ok trig none => ⟨feed_mild none, fun p on trip both low high normal delay valid met => ?_⟩,
    later_point_waits, fun trig p s o c r src ho hc hr hsrc _ => ⟨point_invalid ho hc hr hsrc,
      point_between ho hc hsrc, point_met ho hc hr hsrc, point_clear ho hc hr hsrc⟩, on_delay_expires⟩
  rw [valid]
  exact only_point_trips none on trip both low high normal delay met

end Sys2Proof.Proofs
end

section
/-!
Rules of the conversions of the analog channels: what a conversion makes of its channel's record, and what it leaves
(R145, R149 to R153).
-/

namespace Sys2Proof.Machine

/-! The record of a channel. -/

/-- A channel's record with the values of a conversion (R150). -/
def readRecord (c : AnalogCfg) (raw : Nat) (r : AinRun) : AinRun :=
  { r with lastRaw := some raw, lastScaled := some (scaledOf c raw) }

/-- A channel's record after the direct limit (R151). -/
def directRecord (c : AnalogCfg) (raw : Nat) (r : AinRun) : AinRun :=
  if c.limitOn then
    if beyondLimit c raw then
      { r with beyond := min c.persistence (r.beyond + 1)
               limitMark := r.limitMark || decide (c.persistence ≤ r.beyond + 1) }
    else { r with beyond := 0, limitMark := false }
  else r

/-- A channel's record after the fatigue step (R153). -/
def fatigueRecord (c : AnalogCfg) (x : Int) (r : AinRun) : AinRun :=
  { r with high := if c.role = .boom then (if r.high then !decide (x < c.reset) else decide (c.fatigue < x)) else r.high }

/-- A channel's record as a conversion that is not discarded begins (R149). -/
def startRecord (r : AinRun) : AinRun := if r.ready then r else { r with settle := 50, ready := true }

section Channel

variable (ch : Fin 4) (raw : Nat) (s : State)

theorem setAin_self : s.setAin ch s.analog[ch] = s := by
  unfold State.setAin
  rw [show s.analog.set ch s.analog[ch] = s.analog from Vector.set_getElem_self ch.isLt]

theorem setAin_same (r : AinRun) : (s.setAin ch r).analog[ch] = r := Vector.getElem_set_self ..

theorem setAin_other {d : Fin 4} (other : d ≠ ch) (r : AinRun) : (s.setAin ch r).analog[d] = s.analog[d] :=
  Vector.getElem_set_ne ch.isLt d.isLt fun e => other (Fin.ext e.symm)

theorem setAin_setAin (a b : AinRun) : (s.setAin ch a).setAin ch b = s.setAin ch b := by
  unfold State.setAin
  rw [show (s.analog.set ch a).set ch b = s.analog.set ch b from Vector.set_set ..]

/-! The direct limit (R151). -/

/-- The trip of a channel's direct limit (R155). -/
def directTrip : TripIn := { cause := .direct ch, action := (s.act.analog[ch]).action, frame := none }

/-- A conversion takes a channel's direct limit to a trip: beyond for as long as the persistence, with the mark clear. -/
def limitTrips : Prop :=
  (s.act.analog[ch]).limitOn = true ∧ beyondLimit s.act.analog[ch] raw = true
    ∧ (s.act.analog[ch]).persistence ≤ (s.analog[ch]).beyond + 1 ∧ (s.analog[ch]).limitMark = false

theorem directStep_trips (h : limitTrips ch raw s) :
    directStep ch raw s = handTrip (directTrip ch s) (s.setAin ch (directRecord s.act.analog[ch] raw s.analog[ch])) := by
  obtain ⟨on, beyond, long, clear⟩ := h
  have whole : min (s.act.analog[ch]).persistence ((s.analog[ch]).beyond + 1) = (s.act.analog[ch]).persistence :=
    min_eq_left long
  unfold directStep directRecord
  dsimp only
  rw [if_pos on, if_pos beyond, if_pos ⟨whole, clear⟩, if_pos on, if_pos beyond, decide_eq_true long, Bool.or_true]
  rfl

theorem directStep_still (h : ¬limitTrips ch raw s) :
    directStep ch raw s = s.setAin ch (directRecord s.act.analog[ch] raw s.analog[ch]) := by
  unfold directStep directRecord
  dsimp only
  by_cases on : (s.act.analog[ch]).limitOn = true
  · rw [if_pos on, if_pos on]
    by_cases beyond : beyondLimit s.act.analog[ch] raw = true
    · rw [if_pos beyond, if_pos beyond]
      have kept : ((s.analog[ch]).limitMark || decide ((s.act.analog[ch]).persistence ≤ (s.analog[ch]).beyond + 1))
          = (s.analog[ch]).limitMark := by
        cases mark : (s.analog[ch]).limitMark with
        | true => rfl
        | false => exact decide_eq_false fun long => h ⟨on, beyond, long, mark⟩
      rw [if_neg (fun k => h ⟨on, beyond, min_eq_left_iff.mp k.1, k.2⟩), kept]
    · rw [if_neg beyond, if_neg beyond]
  · rw [if_neg on, if_neg on, setAin_self]

theorem directStep_kept :
    TripKept (s.setAin ch (directRecord s.act.analog[ch] raw s.analog[ch])) (directStep ch raw s) := by
  by_cases h : limitTrips ch raw s
  · rw [directStep_trips ch raw s h]
    exact handTrip_kept ..
  · rw [directStep_still ch raw s h]
    exact .refl _

/-! The fatigue step (R153). -/

/-- A fall below the reset level ends a boom fatigue cycle. -/
def cycleEnds (x : Int) : Prop :=
  (s.act.analog[ch]).role = .boom ∧ (s.analog[ch]).high = true ∧ x < (s.act.analog[ch]).reset

theorem fatigueStep_ends {x : Int} (h : cycleEnds ch s x) : fatigueStep ch x s =
    gain boomFatigue 1 (s.setAin ch (fatigueRecord s.act.analog[ch] x s.analog[ch])) := by
  obtain ⟨boom, high, below⟩ := h
  unfold fatigueStep fatigueRecord
  dsimp only
  rw [if_pos boom, if_pos high, if_pos below, if_pos boom, if_pos high, decide_eq_true below]
  rfl

theorem fatigueStep_still {x : Int} (h : ¬cycleEnds ch s x) : fatigueStep ch x s =
    s.setAin ch (fatigueRecord s.act.analog[ch] x s.analog[ch]) := by
  have same {b : Bool} (k : b = (s.analog[ch]).high) : s = s.setAin ch { (s.analog[ch]) with high := b } := by
    rw [k]
    exact (setAin_self ch s).symm
  unfold fatigueStep fatigueRecord
  dsimp only
  by_cases boom : (s.act.analog[ch]).role = .boom
  · rw [if_pos boom, if_pos boom]
    by_cases high : (s.analog[ch]).high = true
    · have above : ¬x < (s.act.analog[ch]).reset := fun below => h ⟨boom, high, below⟩
      rw [if_pos high, if_neg above, if_pos high, decide_eq_false above]
      exact same high.symm
    · rw [if_neg high, if_neg high]
      by_cases rises : (s.act.analog[ch]).fatigue < x
      · rw [if_pos rises, decide_eq_true rises]
      · rw [if_neg rises, decide_eq_false rises]
        exact same (Bool.eq_false_iff.mpr high).symm
  · rw [if_neg boom, if_neg boom]
    exact same rfl

theorem fatigueStep_analog (x : Int) : (fatigueStep ch x s).analog
    = (s.setAin ch (fatigueRecord s.act.analog[ch] x s.analog[ch])).analog := by
  by_cases h : cycleEnds ch s x
  · rw [fatigueStep_ends ch s h, (gain_kept ..).analog]
    rfl
  · rw [fatigueStep_still ch s h]

theorem fatigueStep_pins (x : Int) : (fatigueStep ch x s).pins = s.pins := by
  by_cases h : cycleEnds ch s x
  · rw [fatigueStep_ends ch s h, (gain_kept ..).pins]
    rfl
  · rw [fatigueStep_still ch s h]
    rfl

/-- A gain hands at most its record's own source, and what trips hand. -/
theorem gain_sources {i : Fin 13} {n code : Nat} {s : State} (own : code ≠ 56 + i.val) (h1 : code ≠ 37) (h2 : code ≠ 54)
    (h3 : code ≠ 55) : (gain i n s).source code = s.source code := by
  rw [gain_eq, setNorm_eq]
  split
  · rfl
  · rw [feed_source_ne (by omega) own h1 h2 h3]
    rfl

theorem fatigueStep_source {x : Int} {code : Nat} (own : code ≠ 63) (h1 : code ≠ 37) (h2 : code ≠ 54)
    (h3 : code ≠ 55) : (fatigueStep ch x s).source code = s.source code := by
  by_cases h : cycleEnds ch s x
  · rw [fatigueStep_ends ch s h, gain_sources own h1 h2 h3]
    rfl
  · rw [fatigueStep_still ch s h]
    rfl

/-- With no point on the record's source, the fatigue step leaves all but the records and the sources. -/
theorem fatigueStep_unwatched {x : Int} (h : s.pointsOn 63 = []) : fatigueStep ch x s =
    { s with analog := (fatigueStep ch x s).analog, attrs := (fatigueStep ch x s).attrs
             alarm := { s.alarm with sources := (fatigueStep ch x s).alarm.sources } } := by
  by_cases k : cycleEnds ch s x
  · rw [fatigueStep_ends ch s k]
    have only := gain_unwatched (i := boomFatigue) (n := 1)
      (s := s.setAin ch (fatigueRecord s.act.analog[ch] x s.analog[ch])) h
    have analog := (gain_kept boomFatigue 1
      (s.setAin ch (fatigueRecord s.act.analog[ch] x s.analog[ch]))).analog
    rw [analog]
    exact only
  · rw [fatigueStep_still ch s k]
    rfl

theorem TripStable.gain {Q : State → Prop} (K : TripStable Q) (i : Fin 13) (n : Nat) {s : State} (h : Q s) :
    Q (gain i n s) := by
  rw [gain_eq, setNorm_eq]
  split
  · exact K.view h rfl rfl
  · exact K.feed _ _ _ _ (K.view h rfl rfl)

theorem TripStable.fatigueStep {Q : State → Prop} (K : TripStable Q) (x : Int) {s : State} (h : Q s) :
    Q (fatigueStep ch x s) := by
  by_cases k : cycleEnds ch s x
  · rw [fatigueStep_ends ch s k]
    exact K.gain _ _ (K.view h rfl rfl)
  · rw [fatigueStep_still ch s k]
    exact K.view h rfl rfl

/-! The limit and the update of the source (R150 steps 1 and 2). -/

/-- The scaled value of a channel's conversion. -/
def valueAt : Int := scaledOf s.act.analog[ch] raw

/-- The machine once the direct limit is tested and the source handed. -/
def measured : State :=
  feed (16 + ch.val) (valueAt ch raw s) true none
    (directStep ch raw (s.setAin ch (readRecord s.act.analog[ch] raw s.analog[ch])))

theorem readyConversion_eq : readyConversion ch raw s = fatigueStep ch (valueAt ch raw s) (measured ch raw s) := rfl

/-- A channel's record once the direct limit is tested. -/
def measuredRecord : AinRun :=
  directRecord s.act.analog[ch] raw (readRecord s.act.analog[ch] raw s.analog[ch])

theorem measured_kept : TripKept (s.setAin ch (measuredRecord ch raw s)) (measured ch raw s) := by
  have direct := directStep_kept ch raw (s.setAin ch (readRecord s.act.analog[ch] raw s.analog[ch]))
  rw [setAin_same, setAin_setAin] at direct
  exact direct.trans (feed_kept ..)

theorem measured_source : (measured ch raw s).source (16 + ch.val) = { value := valueAt ch raw s, valid := true } := by
  have low := ch.isLt
  exact feed_source_same (by omega) (by omega) (by omega) (by omega) (by omega) ..

theorem measured_still (h : ¬limitTrips ch raw s) (unwatched : s.pointsOn (16 + ch.val) = []) : measured ch raw s =
    (s.setAin ch (measuredRecord ch raw s)).setSource (16 + ch.val) (valueAt ch raw s) true := by
  have still : ¬limitTrips ch raw (s.setAin ch (readRecord s.act.analog[ch] raw s.analog[ch])) := by
    unfold limitTrips at h ⊢
    rw [setAin_same]
    exact h
  unfold measured
  rw [directStep_still _ _ _ still, setAin_same, setAin_setAin, feed_unwatched _ _ _ (by exact unwatched)]
  rfl

theorem measured_trips {Q : State → Prop} (K : TripStable Q) (h : limitTrips ch raw s)
    (made : Q (handTrip (directTrip ch s) (s.setAin ch (measuredRecord ch raw s)))) : Q (measured ch raw s) := by
  have trips : limitTrips ch raw (s.setAin ch (readRecord s.act.analog[ch] raw s.analog[ch])) := by
    unfold limitTrips at h ⊢
    rw [setAin_same]
    exact h
  unfold measured
  rw [directStep_trips _ _ _ trips, setAin_same, setAin_setAin]
  exact K.feed _ _ _ _ made

/-! A conversion of a READY channel (R150). -/

theorem measured_record : (measured ch raw s).analog[ch] = measuredRecord ch raw s := by
  rw [(measured_kept ch raw s).analog]
  exact setAin_same ..

theorem measured_act : (measured ch raw s).act = s.act := by
  unfold State.act
  rw [(measured_kept ch raw s).tables]
  rfl

/-- A channel's record once a conversion is complete. -/
def convertedRecord : AinRun := fatigueRecord s.act.analog[ch] (valueAt ch raw s) (measuredRecord ch raw s)

theorem readyConversion_analog :
    (readyConversion ch raw s).analog = (s.setAin ch (convertedRecord ch raw s)).analog := by
  rw [readyConversion_eq, fatigueStep_analog, measured_record, measured_act]
  show (measured ch raw s).analog.set ch _ = s.analog.set ch _
  rw [(measured_kept ch raw s).analog]
  exact Vector.set_set ..

theorem readyConversion_pins : (readyConversion ch raw s).pins = s.pins := by
  rw [readyConversion_eq, fatigueStep_pins, (measured_kept ch raw s).pins]
  rfl

theorem readyConversion_source :
    (readyConversion ch raw s).source (16 + ch.val) = { value := valueAt ch raw s, valid := true } := by
  have low := ch.isLt
  rw [readyConversion_eq, fatigueStep_source _ _ (by omega) (by omega) (by omega) (by omega), measured_source]

/-- A READY channel whose limit hands no trip, and whose sources no point watches, changes the records alone. -/
theorem readyConversion_unwatched (h : ¬limitTrips ch raw s) (own : s.pointsOn (16 + ch.val) = [])
    (wear : s.pointsOn 63 = []) : readyConversion ch raw s =
      { s with analog := (readyConversion ch raw s).analog, attrs := (readyConversion ch raw s).attrs
               alarm := { s.alarm with sources := (readyConversion ch raw s).alarm.sources } } := by
  rw [readyConversion_eq]
  have still := measured_still ch raw s h own
  have only := fatigueStep_unwatched ch (measured ch raw s) (x := valueAt ch raw s) (by rw [still]; exact wear)
  generalize fatigueStep ch (valueAt ch raw s) (measured ch raw s) = t at only ⊢
  generalize t.analog = a, t.attrs = b, t.alarm.sources = c at only ⊢
  rw [only, still]
  rfl

end Channel

end Sys2Proof.Machine
end

section
/-!
Lemmas for the obligations on conversions: the cases of a conversion, and the start-up test that the end of settling
makes (R33, R149, R150).
-/

namespace Sys2Proof.Machine

section Channel

variable (ch : Fin 4) (v w : Int) (s : State)

/-- The machine with a conversion's levels at its pins. -/
def sampled : State := { s with pins := { s.pins with ain := s.pins.ain.set ch v, extRef := w } }

/-- The raw value of a conversion (R145). -/
def rawAt : Nat := rawOf v (if (s.act.analog[ch]).ref = .internal then 2500000 else w)

theorem rawOf_reference : rawOf v ((sampled ch v w s).reference ch) = rawAt ch v w s := by
  unfold rawAt State.reference sampled
  dsimp only
  cases (s.act.analog[ch]).ref <;> rfl

/-- The machine as a conversion that is not discarded begins. -/
def started : State := (sampled ch v w s).setAin ch (startRecord s.analog[ch])

/-- The machine once a conversion that is not discarded is complete, before the test of R33. -/
def converted : State := readyConversion ch (rawAt ch v w s) (started ch v w s)

variable {ch v w s}

/-- A conversion is discarded but for the settle count (R149). -/
theorem convert_counts (settling : (s.analog[ch]).ready = false) (few : (s.analog[ch]).settle < 49) :
    convert ch v w s
      = (sampled ch v w s).setAin ch { (s.analog[ch]) with settle := (s.analog[ch]).settle + 1 } := by
  have short : (s.analog[ch]).settle + 1 < Config.settleConversions := by
    show _ < 50
    omega
  unfold convert
  dsimp only
  rw [if_neg (by rw [settling]; exact Bool.false_ne_true), if_pos short]
  rfl

theorem convert_ready (ready : (s.analog[ch]).ready = true) : convert ch v w s = converted ch v w s := by
  unfold converted started startRecord
  rw [if_pos ready, show s.analog[ch] = (sampled ch v w s).analog[ch] from rfl, setAin_self, ← rawOf_reference]
  unfold convert
  dsimp only
  rw [if_pos ready]
  rfl

theorem convert_settles (settling : (s.analog[ch]).ready = false) (enough : 49 ≤ (s.analog[ch]).settle) :
    convert ch v w s = initTest (converted ch v w s) := by
  have long : ¬(s.analog[ch]).settle + 1 < Config.settleConversions := by
    show ¬_ < 50
    omega
  have off : ¬(s.analog[ch]).ready = true := by rw [settling]; exact Bool.false_ne_true
  unfold converted started startRecord
  rw [if_neg off, ← rawOf_reference]
  unfold convert
  dsimp only
  rw [if_neg off, if_neg long]
  rfl

/-- What follows a conversion that is not discarded is at most the test of R33. -/
theorem convert_concludes (h : (s.analog[ch]).ready = true ∨ 49 ≤ (s.analog[ch]).settle) :
    convert ch v w s = converted ch v w s ∨ convert ch v w s = initTest (converted ch v w s) := by
  cases ready : (s.analog[ch]).ready with
  | true => exact .inl (convert_ready ready)
  | false => exact .inr (convert_settles ready (h.resolve_left (by rw [ready]; exact Bool.false_ne_true)))

theorem convert_kept (h : (s.analog[ch]).ready = true ∨ 49 ≤ (s.analog[ch]).settle) :
    TripKept (converted ch v w s) (convert ch v w s) := by
  rcases convert_concludes h with e | e <;> rw [e]
  · exact .refl _
  · exact initTest_kept _

theorem convert_sources (h : (s.analog[ch]).ready = true ∨ 49 ≤ (s.analog[ch]).settle) :
    SourcesKept (converted ch v w s) (convert ch v w s) := by
  rcases convert_concludes h with e | e <;> rw [e]
  · exact .refl _
  · exact initTest_sources _

/-- Once tripped, the end of settling makes no test. -/
theorem convert_tripped (h : (s.analog[ch]).ready = true ∨ 49 ≤ (s.analog[ch]).settle)
    (away : (converted ch v w s).mode ≠ .init) : convert ch v w s = converted ch v w s := by
  rcases convert_concludes h with e | e
  · exact e
  · rw [e]
    exact if_neg away

theorem started_act : (started ch v w s).act = s.act := rfl

theorem started_record : (started ch v w s).analog[ch] = startRecord s.analog[ch] := setAin_same ..

/-- The record of the channel after a conversion, from the one before. -/
theorem converted_record : (converted ch v w s).analog[ch]
    = fatigueRecord s.act.analog[ch] (scaledOf s.act.analog[ch] (rawAt ch v w s))
        (directRecord s.act.analog[ch] (rawAt ch v w s)
          (readRecord s.act.analog[ch] (rawAt ch v w s) (startRecord s.analog[ch]))) := by
  have analog : (converted ch v w s).analog[ch]
      = ((started ch v w s).setAin ch (convertedRecord ch (rawAt ch v w s) (started ch v w s))).analog[ch] := by
    unfold converted
    rw [readyConversion_analog]
  rw [analog, setAin_same]
  unfold convertedRecord measuredRecord valueAt
  rw [started_record, started_act]

theorem converted_other {d : Fin 4} (other : d ≠ ch) : (converted ch v w s).analog[d] = s.analog[d] := by
  have analog : (converted ch v w s).analog[d]
      = ((started ch v w s).setAin ch (convertedRecord ch (rawAt ch v w s) (started ch v w s))).analog[d] := by
    unfold converted
    rw [readyConversion_analog]
  rw [analog, setAin_other _ _ other]
  exact setAin_other _ _ other _

theorem directRecord_keeps (c : AnalogCfg) (raw : Nat) (r : AinRun) :
    (directRecord c raw r).ready = r.ready ∧ (directRecord c raw r).settle = r.settle
      ∧ (directRecord c raw r).lastRaw = r.lastRaw ∧ (directRecord c raw r).lastScaled = r.lastScaled
      ∧ (directRecord c raw r).high = r.high := by
  unfold directRecord
  split
  · split <;> exact ⟨rfl, rfl, rfl, rfl, rfl⟩
  · exact ⟨rfl, rfl, rfl, rfl, rfl⟩

theorem startRecord_ready (r : AinRun) : (startRecord r).ready = true := by
  unfold startRecord
  split
  · assumption
  · rfl

theorem converted_source : (converted ch v w s).source (16 + ch.val)
    = { value := scaledOf s.act.analog[ch] (rawAt ch v w s), valid := true } := by
  unfold converted
  rw [readyConversion_source]
  rfl

theorem converted_pins : (converted ch v w s).pins = { s.pins with ain := s.pins.ain.set ch v, extRef := w } := by
  unfold converted
  rw [readyConversion_pins]
  rfl

/-- The limit of the conversion, from the record before it. -/
theorem limitTrips_started : limitTrips ch (rawAt ch v w s) (started ch v w s) ↔
    (s.act.analog[ch]).limitOn = true ∧ beyondLimit s.act.analog[ch] (rawAt ch v w s) = true
      ∧ (s.act.analog[ch]).persistence ≤ (s.analog[ch]).beyond + 1 ∧ (s.analog[ch]).limitMark = false := by
  unfold limitTrips
  rw [started_record, started_act]
  unfold startRecord
  split <;> rfl

/-- A conversion whose limit hands no trip, and whose sources no point watches, changes the pins and the records alone. -/
theorem converted_unwatched (still : ¬limitTrips ch (rawAt ch v w s) (started ch v w s))
    (own : s.pointsOn (16 + ch.val) = []) (wear : s.pointsOn 63 = []) : converted ch v w s =
      { s with pins := (converted ch v w s).pins, analog := (converted ch v w s).analog
               attrs := (converted ch v w s).attrs
               alarm := { s.alarm with sources := (converted ch v w s).alarm.sources } } := by
  rw [converted_pins]
  unfold converted
  exact readyConversion_unwatched ch (rawAt ch v w s) (started ch v w s) still own wear

/-! The test of R33 at the end of settling. -/

variable {u : State}

theorem settled_waits (frame : u = { s with pins := u.pins, analog := u.analog, attrs := u.attrs
                                            alarm := { s.alarm with sources := u.alarm.sources } })
    (init : s.mode = .init) (left : AnalogSettles u) :
    (initTest u).mode = .init ∧ (initTest u).ctl = { s.ctl with reason := s.workedReason } := by
  have mode : u.mode = .init := by rw [frame]; exact init
  have unready : u.startReady = false := by
    rw [Bool.eq_false_iff]
    intro ready
    obtain ⟨-, -, -, -, -, done⟩ := (startReady_iff u).mp ready
    exact done left
  have ctl : u.ctl = s.ctl := by rw [frame]
  have reason : u.workedReason = s.workedReason := by rw [frame]; rfl
  have worked : (initTest u).ctl = { s.ctl with reason := s.workedReason } := by
    rw [initTest_waits mode unready, (updateReason_init mode).1, ctl, reason]
  exact ⟨(congrArg ModeCtl.mode worked).trans init, worked⟩

theorem settled_parks (frame : u = { s with pins := u.pins, analog := u.analog, attrs := u.attrs
                                            alarm := { s.alarm with sources := u.alarm.sources } })
    (init : s.mode = .init) (none : s.heldTrips = []) (all : ¬AnalogSettles u) (good : StationGood s)
    (valid : s.tables.valid = true) (free : ¬RecordsHeld s) (set : ¬BrakeNotSet s) (fresh : ¬DriveNotFresh s) :
    (initTest u).mode = .parked ∧ (initTest u).trip = { s.trip with field := .energised, brake := .energised } := by
  have mode : u.mode = .init := by rw [frame]; exact init
  have ready : u.startReady = true := (startReady_iff u).mpr ⟨by rw [frame]; exact good, by rw [frame]; exact valid,
    by rw [frame]; exact free, by rw [frame]; exact set, by rw [frame]; exact fresh, all⟩
  obtain ⟨parked, -, -, -, -, -, trip, -⟩ :=
    parked_from_init mode (by rw [frame]; exact none) (initTest_ready mode ready)
  refine ⟨parked, trip.trans ?_⟩
  rw [frame]

end Channel

end Sys2Proof.Machine
end

section
/-! Conversions of the analog channels. -/

namespace Sys2Proof.Proofs

open Sys2Proof.Machine

variable {ch : Fin 4} {v w : Int} {s : State}

theorem settling_channel_counts (settling : (s.analog[ch]).ready = false) (few : (s.analog[ch]).settle < 49) {t : State}
    (ht : t = finish (convert ch v w s)) :
    t.analog[ch] = { (s.analog[ch]) with settle := (s.analog[ch]).settle + 1 }
      ∧ t = { s with pins := t.pins, analog := t.analog, ring := t.ring, owed := t.owed
                     statusOwed := t.statusOwed } := by
  rw [convert_counts settling few] at ht
  have ended := (finish_kept ((sampled ch v w s).setAin ch
    { (s.analog[ch]) with settle := (s.analog[ch]).settle + 1 })).rest
  rw [← ht] at ended
  have analog : t.analog = ((sampled ch v w s).setAin ch
      { (s.analog[ch]) with settle := (s.analog[ch]).settle + 1 }).analog := by rw [ht, finish_analog]
  have pins : t.pins = (sampled ch v w s).pins := by rw [ht, finish_pins]; rfl
  refine ⟨?_, ?_⟩
  · rw [show t.analog[ch] = _ from congrArg (fun a : Vector AinRun 4 => a[ch]) analog]
    exact setAin_same ..
  · rw [analog, pins]
    exact ended

/-- The end of settling makes the test of R33, the last part of O49. -/
theorem settling_ends (settling : (s.analog[ch]).ready = false) (enough : 49 ≤ (s.analog[ch]).settle)
    (init : s.mode = .init) (none : s.heldTrips = []) (off : (s.act.analog[ch]).limitOn = false)
    (own : s.pointsOn (16 + ch.val) = []) (wear : s.pointsOn 63 = []) {t : State} (ht : t = finish (convert ch v w s)) :
    ((∃ d : Fin 4, d ≠ ch ∧ (s.analog[d]).ready = false) →
        t.mode = .init ∧ t.ctl = { s.ctl with reason := s.workedReason })
      ∧ ((∀ d : Fin 4, d ≠ ch → (s.analog[d]).ready = true) → StationGood s → s.tables.valid = true →
          ¬RecordsHeld s → ¬BrakeNotSet s → ¬DriveNotFresh s →
          t.mode = .parked ∧ t.trip = { s.trip with field := .energised, brake := .energised }) := by
  have frame := converted_unwatched (v := v) (w := w) (fun k => by
    have on := (limitTrips_started.mp k).1
    rw [off] at on
    exact Bool.noConfusion on) own wear
  rw [ht, convert_settles settling enough, finish_mode, finish_ctl, finish_trip]
  refine ⟨?_, fun others good valid free set fresh => settled_parks frame init none ?_ good valid free set fresh⟩
  · rintro ⟨d, other, waits⟩
    exact settled_waits frame init ⟨d, by rw [converted_other other]; exact waits⟩
  · rintro ⟨d, waits⟩
    by_cases same : d = ch
    · rw [same, converted_record] at waits
      have ready : (fatigueRecord s.act.analog[ch] (scaledOf s.act.analog[ch] (rawAt ch v w s))
          (directRecord s.act.analog[ch] (rawAt ch v w s)
            (readRecord s.act.analog[ch] (rawAt ch v w s) (startRecord s.analog[ch])))).ready = true :=
        (directRecord_keeps ..).1.trans (startRecord_ready _)
      rw [ready] at waits
      exact Bool.noConfusion waits
    · rw [converted_other same, others d same] at waits
      exact Bool.noConfusion waits

/-- Settles O49: a conversion counts, or reads the channel, where what follows the reading of a channel that ends its
settling is the test of R33. -/
theorem conversionsSettle : Obligations.ConversionsSettle := by
  unfold Obligations.ConversionsSettle
  refine ⟨rawValues, fun ch v w s => ⟨finish (convert ch v w s), rfl, ?_⟩⟩
  generalize ht : finish (convert ch v w s) = t
  have analog : t.analog = (convert ch v w s).analog := by rw [← ht, finish_analog]
  have record (d : Fin 4) : t.analog[d] = (convert ch v w s).analog[d] := by rw [analog]
  have reads (h : (s.analog[ch]).ready = true ∨ 49 ≤ (s.analog[ch]).settle) (d : Fin 4) :
      t.analog[d] = (converted ch v w s).analog[d] := by rw [analog, (convert_kept h).analog]
  have pins : t.pins = { s.pins with ain := s.pins.ain.set ch v, extRef := w } := by
    rw [← ht, finish_pins]
    by_cases h : (s.analog[ch]).ready = true ∨ 49 ≤ (s.analog[ch]).settle
    · rw [(convert_kept h).pins, converted_pins]
    · rw [not_or, Bool.not_eq_true, not_le] at h
      rw [convert_counts h.1 h.2]
      rfl
  have keeps := directRecord_keeps s.act.analog[ch] (rawAt ch v w s)
    (readRecord s.act.analog[ch] (rawAt ch v w s) (startRecord s.analog[ch]))
  obtain ⟨ready, settle, lastRaw, lastScaled, -⟩ := keeps
  refine ⟨?_, by rw [pins], fun d other => ?_, fun settling few => settling_channel_counts settling few ht.symm,
    fun h => ⟨?_, fun n hn x hx => ⟨?_, ?_, ?_⟩⟩, fun on => ?_, fun settling enough => ⟨?_, fun init none off own wear =>
      settling_ends settling enough init none off own wear ht.symm⟩⟩
  · rw [show t.pins.ain[ch] = _ from congrArg (fun a : Pins => a.ain[ch]) pins]
    exact Vector.getElem_set_self ..
  · by_cases h : (s.analog[ch]).ready = true ∨ 49 ≤ (s.analog[ch]).settle
    · rw [reads h, converted_other other]
    · rw [not_or, Bool.not_eq_true, not_le] at h
      rw [record, convert_counts h.1 h.2, setAin_other _ _ other]
      rfl
  · rw [reads h, converted_record]
    exact ready.trans (startRecord_ready _)
  · rw [reads h, converted_record]
    exact lastRaw.trans (congrArg some hn.symm)
  · rw [reads h, converted_record]
    rw [hn] at hx
    exact lastScaled.trans (congrArg some hx.symm)
  · have low := ch.isLt
    rw [← ht, finish_source, (convert_sources h).kept _ (by omega) (by omega) (by omega), converted_source, hx, hn]
    rfl
  · rw [reads (.inl on), converted_record]
    refine settle.trans ?_
    show (startRecord s.analog[ch]).settle = _
    unfold startRecord
    rw [if_pos on]
  · rw [reads (.inr enough), converted_record]
    refine settle.trans ?_
    show (startRecord s.analog[ch]).settle = _
    unfold startRecord
    rw [if_neg (by rw [settling]; exact Bool.false_ne_true)]

end Sys2Proof.Proofs
end

section
/-!
Lemmas for the obligation on the direct limit and the fatigue cycle: the record after the limit, the trip of the limit,
and the records after the fatigue step (R151, R153, R155, R171).
-/

namespace Sys2Proof.Machine

/-! The limit (R151). -/

theorem startRecord_keeps (r : AinRun) : (startRecord r).beyond = r.beyond ∧ (startRecord r).limitMark = r.limitMark
    ∧ (startRecord r).high = r.high := by
  unfold startRecord
  split <;> exact ⟨rfl, rfl, rfl⟩

theorem beyondLimit_eq (c : AnalogCfg) (n : Nat) : beyondLimit c n
    = if c.dir = .above then decide (c.rawLimit ≤ n) else decide (n ≤ c.rawLimit) := by
  unfold beyondLimit
  cases c.dir <;> rfl

theorem directRecord_off {c : AnalogCfg} (off : c.limitOn = false) (n : Nat) (r : AinRun) : directRecord c n r = r :=
  if_neg (by rw [off]; exact Bool.false_ne_true)

theorem directRecord_inside {c : AnalogCfg} {n : Nat} (on : c.limitOn = true) (inside : beyondLimit c n = false)
    (r : AinRun) : directRecord c n r = { r with beyond := 0, limitMark := false } := by
  unfold directRecord
  rw [if_pos on, if_neg (by rw [inside]; exact Bool.false_ne_true)]

theorem directRecord_beyond {c : AnalogCfg} {n : Nat} (on : c.limitOn = true) (beyond : beyondLimit c n = true)
    (r : AinRun) : directRecord c n r = { r with
      beyond := min c.persistence (r.beyond + 1)
      limitMark := r.limitMark || decide (c.persistence ≤ r.beyond + 1) } := by
  unfold directRecord
  rw [if_pos on, if_pos beyond]

section Channel

variable {ch : Fin 4} {v w : Int} {s : State}

/-- The count and the mark of a channel after a conversion. -/
theorem converted_limit : ((converted ch v w s).analog[ch]).beyond
      = (directRecord s.act.analog[ch] (rawAt ch v w s) s.analog[ch]).beyond
    ∧ ((converted ch v w s).analog[ch]).limitMark
      = (directRecord s.act.analog[ch] (rawAt ch v w s) s.analog[ch]).limitMark := by
  obtain ⟨beyond, mark, -⟩ := startRecord_keeps s.analog[ch]
  rw [converted_record]
  show (directRecord s.act.analog[ch] _ _).beyond = _ ∧ (directRecord s.act.analog[ch] _ _).limitMark = _
  unfold directRecord readRecord
  rw [beyond, mark]
  split
  · split <;> exact ⟨rfl, rfl⟩
  · exact ⟨rfl, rfl⟩

/-- The machine as a conversion's limit hands its trip. -/
def limited (ch : Fin 4) (v w : Int) (s : State) : State :=
  (started ch v w s).setAin ch (measuredRecord ch (rawAt ch v w s) (started ch v w s))

/-- What a trip leaves standing, a conversion that trips its limit leaves standing. -/
theorem TripStable.converted_trips {Q : State → Prop} (K : TripStable Q)
    (trips : limitTrips ch (rawAt ch v w s) (started ch v w s))
    (made : Q (Machine.handTrip (directTrip ch s) (limited ch v w s))) : Q (converted ch v w s) :=
  TripStable.fatigueStep ch K _ (measured_trips ch _ _ K trips made)

/-- The direct limit trips the machine (R155, R161, R163). -/
theorem limit_trips (h : (s.analog[ch]).ready = true ∨ 49 ≤ (s.analog[ch]).settle)
    (trips : limitTrips ch (rawAt ch v w s) (started ch v w s)) (none : s.heldTrips = []) :
    (convert ch v w s).mode = .tripped ∧ (convert ch v w s).trip.field = .deEnergised
      ∧ ((s.act.analog[ch]).action = .both → (convert ch v w s).trip.brake = .deEnergised)
      ∧ (s.trip.queue.length < 32 → ∃ r ∈ (convert ch v w s).trip.queue, r.cause = .direct ch
          ∧ r.action = (s.act.analog[ch]).action ∧ r.firstOut = decide (s.mode ≠ .tripped) ∧ r.frame = Option.none
          ∧ r.mode = s.mode ∧ r.number = s.trip.next ∧ r.minutes = s.attrs.minutes ∧ r.time = s.now % 4294967296) := by
  have tripped : Tripped (converted ch v w s) :=
    tripped_stable.converted_trips trips (handTrip_tripped ..)
  rw [convert_tripped h (by rw [tripped.1]; exact Mode.noConfusion)]
  refine ⟨tripped.1, tripped.2, fun both => ?_, fun room => ?_⟩
  · exact brakeOff_stable.converted_trips trips (handTrip_brakeOff both none)
  · have held := handTrip_holds (directTrip ch s) (s := limited ch v w s) none room
    exact ⟨_, (recordHeld_stable _).converted_trips trips held, rfl, rfl, rfl, rfl, rfl, rfl, rfl, rfl⟩

/-! The fatigue cycle (R153). -/

theorem fatigueRecord_same {c : AnalogCfg} {x : Int} {r : AinRun} (h : (fatigueRecord c x r).high = r.high) :
    fatigueRecord c x r = r :=
  show { r with high := (fatigueRecord c x r).high } = r by rw [h]

/-- The channel's state after the fatigue step. -/
theorem converted_high (x : Int) (hx : x = scaledOf s.act.analog[ch] (rawAt ch v w s)) :
    ((converted ch v w s).analog[ch]).high = (fatigueRecord s.act.analog[ch] x s.analog[ch]).high := by
  have high := (directRecord_keeps s.act.analog[ch] (rawAt ch v w s)
    (readRecord s.act.analog[ch] (rawAt ch v w s) (startRecord s.analog[ch]))).2.2.2.2
  have same : (readRecord s.act.analog[ch] (rawAt ch v w s) (startRecord s.analog[ch])).high = (s.analog[ch]).high :=
    (startRecord_keeps s.analog[ch]).2.2
  rw [converted_record, ← hx]
  unfold fatigueRecord
  rw [high, same]

theorem high_of_role {c : AnalogCfg} {x : Int} {r : AinRun} (away : c.role ≠ .boom) :
    (fatigueRecord c x r).high = r.high := if_neg away

theorem high_of_low {c : AnalogCfg} {x : Int} {r : AinRun} (boom : c.role = .boom) (low : r.high = false) :
    (fatigueRecord c x r).high = decide (c.fatigue < x) := by
  show (if c.role = .boom then _ else _) = _
  rw [if_pos boom, if_neg (by rw [low]; exact Bool.false_ne_true)]

theorem high_of_high {c : AnalogCfg} {x : Int} {r : AinRun} (boom : c.role = .boom) (high : r.high = true) :
    (fatigueRecord c x r).high = !decide (x < c.reset) := by
  show (if c.role = .boom then _ else _) = _
  rw [if_pos boom, if_pos high]

/-- The fatigue step of a conversion ends a cycle. -/
theorem cycleEnds_measured (x : Int) : cycleEnds ch (measured ch (rawAt ch v w s) (started ch v w s)) x ↔
    (s.act.analog[ch]).role = .boom ∧ (s.analog[ch]).high = true ∧ x < (s.act.analog[ch]).reset := by
  have act : (measured ch (rawAt ch v w s) (started ch v w s)).act = s.act := measured_act ..
  have high : ((measured ch (rawAt ch v w s) (started ch v w s)).analog[ch]).high = (s.analog[ch]).high := by
    rw [measured_record]
    refine (directRecord_keeps ..).2.2.2.2.trans ?_
    show ((started ch v w s).analog[ch]).high = _
    rw [started_record]
    exact (startRecord_keeps _).2.2
  unfold cycleEnds
  rw [act, high]

theorem measured_attrs : (measured ch (rawAt ch v w s) (started ch v w s)).attrs = s.attrs :=
  (measured_kept ch (rawAt ch v w s) (started ch v w s)).attrs

theorem converted_attrs_still {x : Int} (hx : x = scaledOf s.act.analog[ch] (rawAt ch v w s))
    (h : ¬((s.act.analog[ch]).role = .boom ∧ (s.analog[ch]).high = true ∧ x < (s.act.analog[ch]).reset)) :
    (converted ch v w s).attrs = s.attrs := by
  unfold converted
  rw [readyConversion_eq, fatigueStep_still _ _ fun k => h ((cycleEnds_measured x).mp (by rw [hx]; exact k))]
  exact measured_attrs

theorem fatigueStep_gains {x : Int} {m : State} (ends : cycleEnds ch m x) :
    ∃ u : State, fatigueStep ch x m = gain boomFatigue 1 u ∧ u.attrs = m.attrs ∧ u.act = m.act :=
  ⟨_, fatigueStep_ends ch m ends, rfl, rfl⟩

/-- A conversion that ends a cycle counts it for BOOM_FATIGUE. -/
theorem converted_gains {x : Int} (hx : x = scaledOf s.act.analog[ch] (rawAt ch v w s))
    (h : (s.act.analog[ch]).role = .boom ∧ (s.analog[ch]).high = true ∧ x < (s.act.analog[ch]).reset) :
    ∃ u : State, converted ch v w s = gain boomFatigue 1 u ∧ u.attrs = s.attrs ∧ u.act = s.act := by
  obtain ⟨u, gains, attrs, act⟩ := fatigueStep_gains ((cycleEnds_measured (v := v) (w := w) x).mpr h)
  refine ⟨u, ?_, attrs.trans measured_attrs, act.trans (measured_act ..)⟩
  rw [← gains, hx]
  unfold converted
  rw [readyConversion_eq]
  rfl

end Channel

end Sys2Proof.Machine
end

section
/-! The direct limit and the boom fatigue cycle. -/

namespace Sys2Proof.Proofs

open Sys2Proof.Machine

variable {ch : Fin 4} {v w : Int} {s : State}

/-- The direct limit of a conversion that is not discarded, the first part of O50. -/
theorem conversion_limit (h : (s.analog[ch]).ready = true ∨ 49 ≤ (s.analog[ch]).settle) {c : AnalogCfg} {n : Nat}
    (hc : c = s.act.analog[ch]) (hn : n = rawAt ch v w s) {t : State} (ht : t = finish (convert ch v w s)) :
    (c.limitOn = false →
        (t.analog[ch]).beyond = (s.analog[ch]).beyond ∧ (t.analog[ch]).limitMark = (s.analog[ch]).limitMark)
      ∧ (c.limitOn = true → ∀ b, b = (if c.dir = .above then decide (c.rawLimit ≤ n) else decide (n ≤ c.rawLimit)) →
          (b = false → (t.analog[ch]).beyond = 0 ∧ (t.analog[ch]).limitMark = false)
          ∧ (b = true → (t.analog[ch]).beyond = min c.persistence ((s.analog[ch]).beyond + 1))
          ∧ (b = true → c.persistence ≤ (s.analog[ch]).beyond + 1 → (s.analog[ch]).limitMark = false →
              s.heldTrips = [] →
              (t.analog[ch]).limitMark = true ∧ t.mode = .tripped ∧ t.trip.field = .deEnergised
                ∧ (c.action = .both → t.trip.brake = .deEnergised)
                ∧ (s.trip.queue.length < 32 → ∃ r ∈ t.trip.queue, r.cause = .direct ch ∧ r.action = c.action
                    ∧ r.firstOut = decide (s.mode ≠ .tripped) ∧ r.frame = none ∧ r.mode = s.mode
                    ∧ r.number = s.trip.next ∧ r.minutes = s.attrs.minutes ∧ r.time = s.now % 4294967296))
          ∧ (b = true → (s.analog[ch]).limitMark = true →
              (t.analog[ch]).limitMark = true
                ∧ (s.pointsOn (16 + ch.val) = [] → s.pointsOn 63 = [] → s.mode ≠ .init → t.trip = s.trip))
          ∧ (b = true → (s.analog[ch]).beyond + 1 < c.persistence →
              (t.analog[ch]).limitMark = (s.analog[ch]).limitMark)) := by
  subst hc hn
  have record : t.analog[ch] = (converted ch v w s).analog[ch] := by
    rw [ht]
    show (finish _).analog[ch] = _
    rw [show (finish (convert ch v w s)).analog = (converted ch v w s).analog from
      (finish_analog _).trans (convert_kept h).analog]
  obtain ⟨beyond, mark⟩ := converted_limit (ch := ch) (v := v) (w := w) (s := s)
  rw [← record] at beyond mark
  refine ⟨fun off => ?_, fun on b hb => ?_⟩
  · rw [directRecord_off off] at beyond mark
    exact ⟨beyond, mark⟩
  rw [← beyondLimit_eq] at hb
  refine ⟨fun inside => ?_, fun out => ?_, fun out long clear none => ?_, fun out held => ⟨?_, fun own wear away => ?_⟩,
    fun out short => ?_⟩
  · rw [directRecord_inside on (hb.symm.trans inside)] at beyond mark
    exact ⟨beyond, mark⟩
  · rw [directRecord_beyond on (hb.symm.trans out)] at beyond
    exact beyond
  · have trips := limit_trips h (limitTrips_started.mpr ⟨on, hb.symm.trans out, long, clear⟩) none
    rw [directRecord_beyond on (hb.symm.trans out)] at mark
    rw [ht, finish_mode, finish_trip, ← ht]
    exact ⟨by rw [mark]; exact Bool.or_eq_true_iff.mpr (.inr (decide_eq_true long)), trips⟩
  · rw [directRecord_beyond on (hb.symm.trans out)] at mark
    rw [mark, held]
    rfl
  · have quiet : ¬limitTrips ch (rawAt ch v w s) (started ch v w s) := fun k => by
      have clear := (limitTrips_started.mp k).2.2.2
      rw [held] at clear
      exact Bool.noConfusion clear
    have frame := converted_unwatched quiet own wear
    rw [ht, finish_trip, convert_tripped h (by rw [frame]; exact away), frame]
  · rw [directRecord_beyond on (hb.symm.trans out)] at mark
    rw [mark]
    show (_ || decide _) = _
    rw [decide_eq_false (by omega), Bool.or_false]

/-- The fatigue cycle of a conversion that is not discarded, the second part of O50. -/
theorem conversion_cycles (h : (s.analog[ch]).ready = true ∨ 49 ≤ (s.analog[ch]).settle) {c : AnalogCfg}
    (hc : c = s.act.analog[ch]) {x : Int} (hx : x = scaledOf c (rawAt ch v w s)) {t : State}
    (ht : t = finish (convert ch v w s)) :
    (c.role = .none → (t.analog[ch]).high = (s.analog[ch]).high ∧ t.attrs = s.attrs)
      ∧ (c.role = .boom → (s.analog[ch]).high = false →
          ((t.analog[ch]).high = true ↔ c.fatigue < x) ∧ t.attrs = s.attrs)
      ∧ (c.role = .boom → (s.analog[ch]).high = true →
          (c.reset ≤ x → (t.analog[ch]).high = true ∧ t.attrs = s.attrs)
          ∧ (x < c.reset →
              (t.analog[ch]).high = false ∧ t.attrs = { s.attrs with recs := t.attrs.recs }
                ∧ (∀ i : Fin 13, i ≠ 7 → t.attrs.recs[i] = s.attrs.recs[i])
                ∧ (t.attrs.recs[(7 : Fin 13)]).raw
                    = min 281474976710655 ((s.attrs.recs[(7 : Fin 13)]).raw + 1)
                ∧ (t.attrs.recs[(7 : Fin 13)]).norm
                    = min (s.attrs.recs[(7 : Fin 13)]).norm (max 1 (min 100 (100
                        - quotient (99 * (t.attrs.recs[(7 : Fin 13)]).raw) (s.act.attrs[(7 : Fin 13)]).life)))
                ∧ ((t.attrs.recs[(7 : Fin 13)]).norm ≠ (s.attrs.recs[(7 : Fin 13)]).norm →
                    t.source 63 = { value := (t.attrs.recs[(7 : Fin 13)]).norm, valid := true }))) := by
  subst hc
  have high : (t.analog[ch]).high = (fatigueRecord s.act.analog[ch] x s.analog[ch]).high := by
    rw [ht, ← converted_high x hx]
    show ((finish _).analog[ch]).high = _
    rw [show (finish (convert ch v w s)).analog = (converted ch v w s).analog from
      (finish_analog _).trans (convert_kept h).analog]
  have attrs : t.attrs = (converted ch v w s).attrs := by
    rw [ht, finish_attrs, (convert_kept h).attrs]
  have source : t.source 63 = (converted ch v w s).source 63 := by
    rw [ht, finish_source, (convert_sources h).kept _ (by decide) (by decide) (by decide)]
  refine ⟨fun away => ⟨?_, ?_⟩, fun boom low => ⟨?_, ?_⟩, fun boom up => ⟨fun above => ⟨?_, ?_⟩, fun below => ?_⟩⟩
  · rw [high, high_of_role (by rw [away]; exact FatRole.noConfusion)]
  · exact attrs.trans (converted_attrs_still hx fun k => by
      rw [away] at k
      exact FatRole.noConfusion k.1)
  · rw [high, high_of_low boom low, decide_eq_true_iff]
  · exact attrs.trans (converted_attrs_still hx fun k => by
      rw [low] at k
      exact Bool.noConfusion k.2.1)
  · rw [high, high_of_high boom up, decide_eq_false (not_lt.mpr above)]
    rfl
  · exact attrs.trans (converted_attrs_still hx fun k => absurd k.2.2 (not_lt.mpr above))
  · obtain ⟨u, gains, same, act⟩ := converted_gains hx ⟨boom, up, below⟩
    rw [attrs, source, gains]
    refine ⟨?_, ?_, fun i other => ?_, ?_, ?_, fun moved => ?_⟩
    · rw [high, high_of_high boom up, decide_eq_true below]
      rfl
    · rw [← same]
      exact gain_attrs ..
    · rw [← same]
      exact gain_other _ _ _ other
    · rw [← same]
      exact gain_raw ..
    · rw [← same, ← act]
      exact gain_norm _ _ _ rfl
    · rw [← same] at moved
      exact gain_source _ _ _ moved

/-- The fatigue step, the last part of O50. -/
theorem fatigue_step (ch : Fin 4) (v : Int) (s o : State) (ho : o = fatigueStep ch v s) :
    ((s.act.analog[ch]).role = .none → o = s)
      ∧ ((s.act.analog[ch]).role = .boom → (s.analog[ch]).high = false →
          ((s.act.analog[ch]).fatigue < v → (o.analog[ch]).high = true ∧ o.attrs = s.attrs)
          ∧ (v ≤ (s.act.analog[ch]).fatigue → o = s))
      ∧ ((s.act.analog[ch]).role = .boom → (s.analog[ch]).high = true →
          (v < (s.act.analog[ch]).reset → (o.analog[ch]).high = false
            ∧ (o.attrs.recs[boomFatigue]).raw = min 281474976710655 ((s.attrs.recs[boomFatigue]).raw + 1))
          ∧ ((s.act.analog[ch]).reset ≤ v → o = s)) := by
  have record : o.analog[ch] = fatigueRecord s.act.analog[ch] v s.analog[ch] := by
    rw [ho]
    rw [show (fatigueStep ch v s).analog = _ from fatigueStep_analog ch s v]
    exact setAin_same ..
  have still (open_ : ¬cycleEnds ch s v)
      (same : (fatigueRecord s.act.analog[ch] v s.analog[ch]).high = (s.analog[ch]).high) : o = s := by
    rw [ho, fatigueStep_still ch s open_, fatigueRecord_same same, setAin_self]
  refine ⟨fun away => ?_, fun boom low => ⟨fun rises => ⟨?_, ?_⟩, fun stays => ?_⟩,
    fun boom up => ⟨fun below => ⟨?_, ?_⟩, fun above => ?_⟩⟩
  · have off : (s.act.analog[ch]).role ≠ .boom := by rw [away]; exact FatRole.noConfusion
    exact still (fun k => off k.1) (high_of_role off)
  · rw [record, high_of_low boom low, decide_eq_true rises]
  · rw [ho, fatigueStep_still ch s fun k => by
      have up := k.2.1
      rw [low] at up
      exact Bool.noConfusion up]
    rfl
  · refine still (fun k => ?_) ?_
    · have up := k.2.1
      rw [low] at up
      exact Bool.noConfusion up
    · rw [high_of_low boom low, decide_eq_false (not_lt.mpr stays), low]
  · rw [record, high_of_high boom up, decide_eq_true below]
    rfl
  · rw [ho, fatigueStep_ends ch s ⟨boom, up, below⟩]
    exact gain_raw ..
  · refine still (fun k => absurd k.2.2 (not_lt.mpr above)) ?_
    rw [high_of_high boom up, decide_eq_false (not_lt.mpr above), up]
    rfl

/-- Settles O50: the record of a conversion is the fatigue step's of the direct limit's, the limit's trip is handed where
the count reaches the persistence with the mark clear, and a fall below the reset level gains one for BOOM_FATIGUE. -/
theorem directLimitAndFatigue : Obligations.DirectLimitAndFatigue := by
  unfold Obligations.DirectLimitAndFatigue
  refine ⟨rawValues, fun ch v w s c n h hc hn => ?_, fatigue_step⟩
  have raw : n = rawAt ch v w s := by rw [hn, hc]; rfl
  obtain ⟨off, on⟩ := conversion_limit h hc raw rfl
  refine ⟨finish (convert ch v w s), rfl, off, on, fun x hx => ?_⟩
  rw [raw] at hx
  exact conversion_cycles h hc hx rfl

end Sys2Proof.Proofs
end

section
/-!
Lemmas for the refutation of O51: a WALK segment that waits with the walk turn at an axis that has no drive (R183).
-/

namespace Sys2Proof.Machine

/-- The machine of `strayTurn`, which has no hoist drive, with the WALK segment of its test waiting to begin. -/
def strayWaiting : State :=
  { strayTurn with
    ctl := { strayTurn.ctl with mode := .testing }
    tester := { strayTurn.tester with status := .inProgress, number := some 1, segment := some 0, phase := some .waiting } }

theorem strayWaiting_begins : strayWaiting.tester.status = .inProgress ∧ strayWaiting.tester.phase = some .waiting
    ∧ strayWaiting.testQueued = false ∧ strayWaiting.tester.secondFinal = none
    ∧ strayWaiting.testChan = some .walk ∧ strayWaiting.chanFresh .walk = true := by decide +kernel

theorem strayWaiting_hoist : strayWaiting.testAxis .walk = .hoist ∧ strayWaiting.driveEntry .hoist = none := by
  decide +kernel

/-- A test Reference for an axis is out only where the axis has a drive. -/
theorem TestRefOut.drive {x : Axis} {v : Int} {q : Nat} {s t : State} (h : TestRefOut x v q t)
    (tables : t.tables = s.tables) : s.driveEntry x ≠ none := by
  obtain ⟨e, entry, -⟩ := h
  unfold State.driveEntry State.act at entry ⊢
  rw [tables] at entry
  rw [entry]
  exact Option.some_ne_none e

end Sys2Proof.Machine
end

section
/-! The refutation of O51. -/

namespace Sys2Proof.Proofs

open Sys2Proof.Machine

/-- Refutes O51: with HOIST for the walk turn and no hoist drive, a WALK segment begins and hands no test Reference. -/
theorem not_testReferencesHanded : ¬ Obligations.TestReferencesHanded := by
  unfold Obligations.TestReferencesHanded
  rintro ⟨begins, -⟩
  obtain ⟨status, phase, queued, second, chan, fresh⟩ := strayWaiting_begins
  obtain ⟨t, -, -, -, -, -, out, rest⟩ := begins strayWaiting .walk status phase queued second chan fresh
  rw [strayWaiting_hoist.1] at out
  exact out.drive (congrArg State.tables rest :) strayWaiting_hoist.2

end Sys2Proof.Proofs
end

section
/-!
Rules of the ends of a test segment: the final test References, the poll of OUT after them, and what the ending of a test
leaves (R184 to R186, R189, R190).
-/

namespace Sys2Proof.Machine

/-! The final References. -/

theorem handTest_rest (x : Axis) (v : Int) (q : Nat) (s : State) :
    handTest x v q s = { s with ring := (handTest x v q s).ring } := by
  unfold handTest handTestRef joinInsert
  split
  · rw [chooseIfIdle_rest]
  · rfl

theorem secondFinal_rest (s : State) : secondFinal s = { s with
    ring := (secondFinal s).ring
    tester := { s.tester with secondFinal := (secondFinal s).tester.secondFinal } } := by
  unfold secondFinal
  split
  · split
    · rfl
    · rw [handTest_rest]
  · rfl

theorem segmentBegin_idle {s : State} (h : s.tester.status ≠ .inProgress) : segmentBegin s = s :=
  if_neg fun k => h k.1

/-- The poll of OUT once no test is in progress builds at most the second final Reference. -/
theorem testPoll_idle {s : State} (h : s.tester.status ≠ .inProgress) : testPoll s = secondFinal s := by
  have status : (secondFinal s).tester.status = s.tester.status := by rw [secondFinal_rest]
  exact segmentBegin_idle (by rw [status]; exact h)

theorem finalTest_tester (c : Chan) (s : State) : (finalTest c s).tester = { s.tester with
    walkTurn := (finalTest c s).tester.walkTurn, secondFinal := (finalTest c s).tester.secondFinal } := by
  unfold finalTest
  dsimp only
  rw [handTest_tester]
  split <;> rfl

/-! The ending of a test. -/

/-- The segment of a test in TESTING is over in `b`, and the test's number and log are those of `s`. -/
structure SegmentOver (s b : State) : Prop where
  mode : b.mode = .testing
  held : b.heldTrips = []
  phase : b.tester.phase = none
  number : b.tester.number = s.tester.number
  pointer : b.tester.pointer = s.tester.pointer
  log : b.tester.log = s.tester.log
  minutes : b.attrs.minutes = s.attrs.minutes

theorem SegmentOver.finalTest {s a : State} (h : SegmentOver s a) (c : Chan) : SegmentOver s (finalTest c a) := by
  have rest := finalTest_rest c a
  have tester := finalTest_tester c a
  generalize Machine.finalTest c a = b at rest tester ⊢
  refine ⟨?_, ?_, ?_, ?_, ?_, ?_, ?_⟩
  · rw [rest]; exact h.mode
  · rw [rest]; exact h.held
  · rw [tester]; exact h.phase
  · rw [tester]; exact h.number
  · rw [tester]; exact h.pointer
  · rw [tester]; exact h.log
  · rw [rest]; exact h.minutes

theorem SegmentOver.completed {s b : State} (h : SegmentOver s b) (n : Nat) :
    SegmentOver s (oweStatus { b with tester := { b.tester with completed := n } }) :=
  ⟨h.mode, h.held, h.phase, h.number, h.pointer, h.log, h.minutes⟩

/-- The tester once an ended test's second final Reference is built, or is left to be. -/
theorem polled_tester {d : State} (h : d.tester.status ≠ .inProgress) :
    (finish (testPoll d)).tester = { d.tester with secondFinal := (secondFinal d).tester.secondFinal } := by
  rw [finish_tester, testPoll_idle h, secondFinal_rest]

theorem polled_rest {d : State} (h : d.tester.status ≠ .inProgress) :
    (finish (testPoll d)).mode = d.mode ∧ (finish (testPoll d)).attrs = d.attrs := by
  rw [finish_mode, finish_attrs, testPoll_idle h, secondFinal_rest]
  exact ⟨rfl, rfl⟩

/-- A test that ends with its segment over takes its descriptor with the results as they are (R189, R190). -/
theorem SegmentOver.ends {s b : State} (h : SegmentOver s b) {st : TestStatus} (done : st ≠ .inProgress)
    (failing : Option Chan) :
    TestEnded s (finish (testPoll (endTest st failing b))) st failing b.tester.results
      ∧ (finish (testPoll (endTest st failing b))).attrs = b.attrs
      ∧ (finish (testPoll (endTest st failing b))).tester.completed = b.tester.completed := by
  have completed : (endTest st failing b).tester.completed = b.tester.completed := by
    unfold endTest
    dsimp only
    rw [if_pos (by exact h.mode), (parked_from_testing (by exact h.mode) (by exact h.held) rfl).2]
    rfl
  obtain ⟨⟨rs, results, mode, stopped⟩, rest⟩ := endTest_ended st failing h.mode h.held rfl
  have attrs : (endTest st failing b).attrs = b.attrs := (congrArg State.attrs rest :)
  rw [results.2 (.inl h.phase)] at stopped
  generalize endTest st failing b = d at stopped mode attrs completed
  have ended : d.tester.status ≠ .inProgress := by rw [stopped.1]; exact done
  have tester := polled_tester ended
  obtain ⟨same, kept⟩ := polled_rest ended
  refine ⟨⟨same.trans mode, ?_⟩, kept.trans attrs, by rw [tester]; exact completed⟩
  unfold TestStopped at stopped ⊢
  rw [h.number, h.pointer, h.log, h.minutes] at stopped
  rw [tester]
  exact stopped

/-- The final Reference of a segment at whose end the test ends (R185). -/
theorem SegmentOver.final_out {s a b : State} {c : Chan} (h : SegmentOver s b)
    (turn : a.tester.walkTurn = s.tester.walkTurn) (tables : a.tables = s.tables) (ring : a.ring = s.ring)
    (ringOut : b.ring = (Machine.finalTest c a).ring) (tablesOut : b.tables = s.tables)
    (second : b.tester.secondFinal = (Machine.finalTest c a).tester.secondFinal) {st : TestStatus} (done : st ≠ .inProgress)
    (failing : Option Chan) : FinalReferenceOut s c (finish (testPoll (endTest st failing b))) := by
  obtain ⟨queue, config, final, status⟩ := endTest_quiet st failing h.mode h.held
  refine finalTest_out turn tables (by rw [ring]) (by rw [ring]) (queue.trans ringOut) (config.trans tablesOut)
    (final.trans second) (segmentBegin_secondFinal (.inl ?_))
  rw [secondFinal_rest]
  show (endTest st failing b).tester.status ≠ .inProgress
  rw [status]
  exact done

/-! A segment that begins, or ends the test, leaves the count of those completed. -/

theorem segmentBegin_completed {s : State} (mode : s.mode = .testing) (none : s.heldTrips = []) :
    (segmentBegin s).tester.completed = s.tester.completed := by
  unfold segmentBegin
  split
  · unfold beginSegment
    split
    · rfl
    · split
      · unfold periodicTest
        dsimp only
        rw [handTest_tester]
        split <;> rfl
      · unfold endTest
        dsimp only
        rw [if_pos (by exact mode), (parked_from_testing (by exact mode) (by exact none) rfl).2]
        rfl
  · rfl

/-! The slip's record (R185, R173). -/

theorem measure_record (c : Chan) (slip : Nat) (s : State) :
    ((measure c slip s).attrs.recs[marginOf c]).raw = slip ∧ ((measure c slip s).attrs.recs[marginOf c]).never = false
      ∧ ((measure c slip s).attrs.recs[marginOf c]).norm
          = max 1 (min 100 (100 - quotient (99 * slip) (s.act.test.slip.get c))) := by
  have level : levelChan (marginOf c) = some c := by cases c <;> rfl
  unfold measure
  dsimp only
  rw [setNorm_same]
  refine ⟨rfl, rfl, ?_⟩
  show s.workedNorm _ _ = _
  unfold State.workedNorm
  rw [level]
  rfl

/-- With no point on its source, the slip changes the wear records and that source alone. -/
theorem measure_unwatched (c : Chan) (slip : Nat) {s : State} (h : s.pointsOn (56 + (marginOf c).val) = []) :
    measure c slip s = { s with
      attrs := (measure c slip s).attrs, alarm := { s.alarm with sources := (measure c slip s).alarm.sources } } :=
  setNorm_unwatched _ _ _ _ h

theorem measure_minutes (c : Chan) (slip : Nat) (s : State) : (measure c slip s).attrs.minutes = s.attrs.minutes := by
  unfold measure
  dsimp only
  rw [setNorm_attrs]

/-! The arrival in RAMP (R184). -/

theorem torqueReached_iff (s : State) (x : Axis) : s.torqueReached x = true ↔
    if isCam x then (s.act.test.torque : Int) ≤ (s.feedback.get x).current
    else (s.feedback.get x).current ≤ -(s.act.test.torque : Int) := by
  unfold State.torqueReached
  dsimp only
  split <;> exact decide_eq_true_iff

theorem slipPosition_eq (s : State) (x : Axis) : s.slipPosition x =
    if isCam x then (s.feedback.get x).turns * 3600 + (s.feedback.get x).position else (s.feedback.get x).position := rfl

theorem slipPositions_chan (s : State) (x : Axis) : s.slipPositions (chanOf x) =
    if chanOf x = .walk then ⟨s.slipPosition .walkLeft, s.slipPosition .walkRight⟩ else ⟨s.slipPosition x, 0⟩ := by
  cases x <;> rfl

theorem testArrival_idle {x : Axis} {s : State}
    (h : s.segmentRuns (chanOf x) = false ∨ s.tester.phase ≠ some .ramp ∨ ¬s.torqueReached x = true) :
    testArrival x s = s := by
  unfold testArrival
  dsimp only
  refine if_neg ?_
  rintro ⟨runs, ramp, reached⟩
  rcases h with stopped | other | short
  · rw [stopped] at runs
    exact Bool.noConfusion runs
  · exact other ramp
  · exact short reached

theorem testArrival_marks {x : Axis} {s : State} (runs : s.segmentRuns (chanOf x) = true)
    (ramp : s.tester.phase = some .ramp) (reached : s.torqueReached x = true) : testArrival x s =
      if (s.tester.reached.set x true).all (chanOf x) then
        enterHold (chanOf x) { s with tester := { s.tester with reached := s.tester.reached.set x true } }
      else { s with tester := { s.tester with reached := s.tester.reached.set x true } } :=
  if_pos ⟨runs, ramp, reached⟩

end Sys2Proof.Machine
end

section
/-!
Lemmas for the obligation on the ends of test segments: the ramp timeout, the hold timer's expiry with its slip, and the
ends of a suspension (R184 to R186, R188, R189).
-/

namespace Sys2Proof.Machine

/-! The ramp timeout (R184). -/

/-- The machine with a segment recorded as over without reaching the torque. -/
def torqueFailed (c : Chan) (s : State) : State := recordSegment { chan := c, slip := none, outcome := .noTorque } s

theorem segmentRuns_of {s : State} {c : Chan} (status : s.tester.status = .inProgress)
    (phase : s.tester.phase = some .ramp ∨ s.tester.phase = some .hold) (chan : s.testChan = some c) :
    s.segmentRuns c = true := by
  unfold State.segmentRuns
  rw [status, chan]
  rcases phase with ramp | hold
  · rw [ramp]
    exact (beq_iff_eq (a := some c)).mpr rfl
  · rw [hold]
    exact (beq_iff_eq (a := some c)).mpr rfl

theorem rampOut_fails {s : State} {c : Chan} (chan : s.testChan = some c) (status : s.tester.status = .inProgress)
    (ramp : s.tester.phase = some .ramp) (out : s.expired s.tester.tRamp = true) :
    rampOut s = testPoll (endTest .failedNoTorque (some c) (finalTest c (torqueFailed c s))) := by
  unfold rampOut
  rw [chan]
  exact if_pos ⟨segmentRuns_of status (.inl ramp) chan, ramp, out⟩

theorem ramp_times_out {s : State} {c : Chan} (mode : s.mode = .testing) (held : s.heldTrips = [])
    (chan : s.testChan = some c) (status : s.tester.status = .inProgress) (ramp : s.tester.phase = some .ramp)
    (out : s.expired s.tester.tRamp = true) : ∃ t, exec .rampTimeout s = .next t
      ∧ FinalReferenceOut s c t
      ∧ TestEnded s t .failedNoTorque (some c)
          (s.tester.results ++ [{ chan := c, slip := none, outcome := .noTorque }])
      ∧ t.attrs = s.attrs := by
  have record : SegmentOver s (torqueFailed c s) := ⟨mode, held, rfl, rfl, rfl, rfl, rfl⟩
  have handed := record.finalTest c
  have rest := finalTest_rest c (torqueFailed c s)
  have results : (finalTest c (torqueFailed c s)).tester.results
      = s.tester.results ++ [{ chan := c, slip := none, outcome := .noTorque }] := by
    rw [finalTest_tester]
    rfl
  have tables : (finalTest c (torqueFailed c s)).tables = s.tables := by rw [rest]; rfl
  have attrs : (finalTest c (torqueFailed c s)).attrs = s.attrs := by rw [rest]; rfl
  have final := handed.final_out (c := c) (a := torqueFailed c s) rfl rfl rfl rfl tables rfl
    (st := .failedNoTorque) TestStatus.noConfusion (some c)
  obtain ⟨ended, kept, -⟩ := handed.ends (st := .failedNoTorque) TestStatus.noConfusion (some c)
  rw [results] at ended
  refine ⟨finish (rampOut s), rfl, ?_⟩
  rw [rampOut_fails chan status ramp out]
  exact ⟨final, ended, kept.trans attrs⟩

/-! The hold timer's expiry (R185). -/

/-- The machine with a segment's slip measured and its result recorded. -/
def segmentEnd (c : Chan) (slip : Nat) (o : SegOutcome) (s : State) : State :=
  recordSegment { chan := c, slip := some slip, outcome := o }
    (measure c slip { s with tester := { s.tester with tPeriod := none, tHold := none } })

/-- What the measuring and recording of a segment leave. -/
structure SegmentMeasured (s : State) (c : Chan) (slip : Nat) (o : SegOutcome) (a : State) : Prop where
  isOver : SegmentOver s a
  turn : a.tester.walkTurn = s.tester.walkTurn
  completed : a.tester.completed = s.tester.completed
  segment : a.tester.segment = s.tester.segment
  count : a.tester.count = s.tester.count
  status : a.tester.status = s.tester.status
  results : a.tester.results = s.tester.results ++ [{ chan := c, slip := some slip, outcome := o }]
  tables : a.tables = s.tables
  ring : a.ring = s.ring
  raw : (a.attrs.recs[marginOf c]).raw = slip
  never : (a.attrs.recs[marginOf c]).never = false
  norm : (a.attrs.recs[marginOf c]).norm = max 1 (min 100 (100 - quotient (99 * slip) (s.act.test.slip.get c)))

theorem segmentEnd_measured {s : State} {c : Chan} (slip : Nat) (o : SegOutcome) (mode : s.mode = .testing)
    (held : s.heldTrips = []) (quiet : s.pointsOn (56 + (marginOf c).val) = []) :
    SegmentMeasured s c slip o (segmentEnd c slip o s) := by
  set s0 : State := { s with tester := { s.tester with tPeriod := none, tHold := none } } with hs
  have only := measure_unwatched c slip (s := s0) quiet
  have minutes := measure_minutes c slip s0
  obtain ⟨raw, never, norm⟩ := measure_record c slip s0
  unfold segmentEnd recordSegment
  rw [← hs]
  generalize measure c slip s0 = m at only minutes raw never norm
  have tester : m.tester = s0.tester := by rw [only]
  have now : m.mode = s.mode := by rw [only]
  have trips : m.heldTrips = s.heldTrips := by rw [only]
  have config : m.tables = s.tables := by rw [only]
  have queue : m.ring = s.ring := by rw [only]
  refine ⟨⟨now.trans mode, trips.trans held, rfl, ?_, ?_, ?_, minutes⟩, ?_, ?_, ?_, ?_, ?_, ?_, config, queue, raw,
    never, norm⟩
  all_goals
    dsimp only
    rw [tester]

/-- The machine with a segment's final Reference handed. -/
def segmentHanded (c : Chan) (slip : Nat) (o : SegOutcome) (s : State) : State := finalTest c (segmentEnd c slip o s)

theorem holdOut_measures {s : State} {c : Chan} {p : Pair Nat} (chan : s.testChan = some c)
    (status : s.tester.status = .inProgress) (hold : s.tester.phase = some .hold) (start : s.tester.start = some p)
    (out : s.expired s.tester.tHold = true) (quiet : s.pointsOn (56 + (marginOf c).val) = []) {slip : Nat}
    (hslip : slip = slipOf c (s.slipPositions c) p) : holdOut s =
      if slip ≤ s.act.test.slip.get c then testPoll (passSegment (segmentHanded c slip .pass s))
      else testPoll (endTest .failedSlip (some c) (segmentHanded c slip .fail s)) := by
  have runs : (measure c slip { s with tester := { s.tester with tPeriod := none, tHold := none } }).testRuns = true := by
    rw [measure_unwatched c slip (by exact quiet)]
    show (s.tester.status == .inProgress || _) = true
    rw [status]
    rfl
  unfold holdOut
  rw [chan, start]
  dsimp only
  rw [if_pos ⟨segmentRuns_of status (.inr hold) chan, hold, out⟩]
  unfold endHold
  dsimp only
  rw [← hslip, if_pos runs]
  unfold segmentHanded segmentEnd
  by_cases within : slip ≤ s.act.test.slip.get c
  · rw [if_pos within, decide_eq_true within]
    rfl
  · rw [if_neg within, decide_eq_false within]
    rfl

section Held

variable {s : State} {c : Chan} {slip : Nat} {o : SegOutcome}

/-- What the final Reference leaves of a segment measured. -/
theorem SegmentMeasured.handed (h : SegmentMeasured s c slip o (segmentEnd c slip o s)) :
    (segmentHanded c slip o s).tables = s.tables
      ∧ (segmentHanded c slip o s).attrs = (segmentEnd c slip o s).attrs
      ∧ (segmentHanded c slip o s).tester.results
          = s.tester.results ++ [{ chan := c, slip := some slip, outcome := o }]
      ∧ (segmentHanded c slip o s).tester.completed = s.tester.completed
      ∧ (segmentHanded c slip o s).tester.segment = s.tester.segment
      ∧ (segmentHanded c slip o s).tester.count = s.tester.count
      ∧ (segmentHanded c slip o s).tester.status = s.tester.status
      ∧ (segmentHanded c slip o s).tester.number = s.tester.number := by
  have rest := finalTest_rest c (segmentEnd c slip o s)
  have tester := finalTest_tester c (segmentEnd c slip o s)
  unfold segmentHanded
  refine ⟨?_, ?_, ?_, ?_, ?_, ?_, ?_, ?_⟩
  · rw [rest]; exact h.tables
  · rw [rest]
  · rw [tester]; exact h.results
  · rw [tester]; exact h.completed
  · rw [tester]; exact h.segment
  · rw [tester]; exact h.count
  · rw [tester]; exact h.status
  · rw [tester]; exact h.isOver.number

/-- A slip beyond the limit ends the test (R185). -/
theorem slip_fails (h : SegmentMeasured s c slip .fail (segmentEnd c slip .fail s)) {t : State}
    (ht : t = finish (testPoll (endTest .failedSlip (some c) (segmentHanded c slip .fail s)))) :
    FinalReferenceOut s c t ∧ t.attrs = (segmentEnd c slip .fail s).attrs
      ∧ TestEnded s t .failedSlip (some c)
          (s.tester.results ++ [{ chan := c, slip := some slip, outcome := .fail }]) := by
  obtain ⟨tables, attrs, results, -⟩ := h.handed
  have handed : SegmentOver s (segmentHanded c slip .fail s) := h.isOver.finalTest c
  have final := handed.final_out (c := c) (a := segmentEnd c slip .fail s) h.turn h.tables h.ring rfl tables rfl
    (st := .failedSlip) TestStatus.noConfusion (some c)
  obtain ⟨ended, kept, -⟩ := handed.ends (st := .failedSlip) TestStatus.noConfusion (some c)
  rw [results] at ended
  rw [ht]
  exact ⟨final, kept.trans attrs, ended⟩

/-- The machine with one more segment completed. -/
def oneCompleted (b : State) : State :=
  oweStatus { b with tester := { b.tester with completed := b.tester.completed + 1 } }

theorem passSegment_last {b : State} {i : Nat} (segment : b.tester.segment = some i) (last : b.tester.count ≤ i + 1) :
    passSegment b = endTest .passed none (oneCompleted b) := by
  unfold passSegment
  dsimp only
  rw [show (oweStatus { b with tester := { b.tester with completed := b.tester.completed + 1 } }).tester.segment
    = some i from segment]
  exact if_neg (not_lt.mpr last)

/-- The machine with the next segment waiting. -/
def nextWaits (i : Nat) (b : State) : State :=
  { oneCompleted b with tester := { (oneCompleted b).tester with segment := some (i + 1), phase := some .waiting } }

theorem passSegment_more {b : State} {i : Nat} (segment : b.tester.segment = some i) (more : i + 1 < b.tester.count) :
    passSegment b = nextWaits i b := by
  unfold passSegment
  dsimp only
  rw [show (oweStatus { b with tester := { b.tester with completed := b.tester.completed + 1 } }).tester.segment
    = some i from segment]
  exact if_pos more

theorem nextWaits_queued {i : Nat} {b : State} (h : b.testQueued = true) : (nextWaits i b).testQueued = true := h

/-- What the poll of OUT leaves with the next segment waiting (R185, R186). -/
theorem nextWaits_out {a b : State} (i : Nat) (turn : a.tester.walkTurn = s.tester.walkTurn)
    (tables : a.tables = s.tables) (ring : a.ring = s.ring) (ringOut : b.ring = (finalTest c a).ring)
    (tablesOut : b.tables = s.tables) (second : b.tester.secondFinal = (finalTest c a).tester.secondFinal)
    (mode : b.mode = .testing) (held : b.heldTrips = []) :
    FinalReferenceOut s c (finish (testPoll (nextWaits i b)))
      ∧ (finish (testPoll (nextWaits i b))).attrs = b.attrs
      ∧ (finish (testPoll (nextWaits i b))).tester.completed = b.tester.completed + 1 := by
  have final := secondFinal_rest (nextWaits i b)
  have testing : (secondFinal (nextWaits i b)).mode = .testing := by rw [final]; exact mode
  have none : (secondFinal (nextWaits i b)).heldTrips = [] := by rw [final]; exact held
  refine ⟨?_, ?_, ?_⟩
  · exact finalTest_out turn tables (by rw [ring]) (by rw [ring]) ringOut tablesOut second
      (segmentBegin_secondFinal (.inr ⟨testing, none⟩))
  · rw [finish_attrs, (QueueKept.testPoll (nextWaits i b)).attrs]
    rfl
  · rw [finish_tester]
    show (segmentBegin (secondFinal (nextWaits i b))).tester.completed = _
    rw [segmentBegin_completed testing none, final]
    rfl

/-- A last segment within the limit ends the test PASSED (R185). -/
theorem last_passes (h : SegmentMeasured s c slip .pass (segmentEnd c slip .pass s)) {i : Nat}
    (segment : s.tester.segment = some i) (last : s.tester.count ≤ i + 1) {t : State}
    (ht : t = finish (testPoll (passSegment (segmentHanded c slip .pass s)))) :
    FinalReferenceOut s c t ∧ t.attrs = (segmentEnd c slip .pass s).attrs
      ∧ t.tester.completed = s.tester.completed + 1
      ∧ TestEnded s t .passed none
          (s.tester.results ++ [{ chan := c, slip := some slip, outcome := .pass }]) := by
  obtain ⟨tables, attrs, results, completed, segments, count, -⟩ := h.handed
  have handed : SegmentOver s (segmentHanded c slip .pass s) := h.isOver.finalTest c
  have counted : SegmentOver s (oneCompleted (segmentHanded c slip .pass s)) := handed.completed _
  have final := counted.final_out (c := c) (a := segmentEnd c slip .pass s) h.turn h.tables h.ring rfl tables rfl
    (st := .passed) TestStatus.noConfusion none
  obtain ⟨ended, kept, done⟩ := counted.ends (st := .passed) TestStatus.noConfusion none
  rw [passSegment_last (segments.trans segment) (by rw [count]; exact last)] at ht
  have same : (oneCompleted (segmentHanded c slip .pass s)).tester.results
      = s.tester.results ++ [{ chan := c, slip := some slip, outcome := .pass }] := results
  rw [same] at ended
  rw [ht]
  refine ⟨final, kept.trans attrs, done.trans ?_, ended⟩
  show (segmentHanded c slip .pass s).tester.completed + 1 = _
  rw [completed]

/-- A segment within the limit that is not the last leaves the next waiting (R185, R186). -/
theorem more_waits (h : SegmentMeasured s c slip .pass (segmentEnd c slip .pass s)) {i : Nat}
    (segment : s.tester.segment = some i) (more : i + 1 < s.tester.count) {t : State}
    (ht : t = finish (testPoll (passSegment (segmentHanded c slip .pass s)))) :
    FinalReferenceOut s c t ∧ t.attrs = (segmentEnd c slip .pass s).attrs
      ∧ t.tester.completed = s.tester.completed + 1 := by
  obtain ⟨tables, attrs, results, completed, segments, count, -⟩ := h.handed
  have handed : SegmentOver s (segmentHanded c slip .pass s) := h.isOver.finalTest c
  rw [passSegment_more (segments.trans segment) (by rw [count]; exact more)] at ht
  obtain ⟨final, same, counted⟩ := nextWaits_out (c := c) i h.turn h.tables h.ring
    (b := segmentHanded c slip .pass s) rfl tables rfl handed.mode handed.held
  rw [ht]
  exact ⟨final, same.trans attrs, counted.trans (by rw [completed])⟩

theorem finalTest_queued {a : State} {e : Fin 16} (entry : a.driveEntry (a.testAxis c) = some e)
    (sending : a.ring.sending ≠ none) : (finalTest c a).testQueued = true := by
  unfold finalTest
  dsimp only
  split
  · exact handTest_busy_queued _ _ _ (by exact entry) (by exact sending)
  · exact handTest_busy_queued _ _ _ entry sending

/-- While OUT is sending, the next segment waits as it was left (R186). -/
theorem more_waits_busy (h : SegmentMeasured s c slip .pass (segmentEnd c slip .pass s)) {i : Nat}
    (segment : s.tester.segment = some i) (more : i + 1 < s.tester.count) (sending : s.ring.sending ≠ none)
    {e : Fin 16} (entry : s.driveEntry (s.testAxis c) = some e) (status : s.tester.status = .inProgress) {t : State}
    (ht : t = finish (testPoll (passSegment (segmentHanded c slip .pass s)))) :
    t.tester.segment = some (i + 1) ∧ t.tester.phase = some .waiting ∧ t.tester.status = .inProgress
      ∧ t.tester.number = s.tester.number ∧ t.mode = .testing
      ∧ t.tester.results = s.tester.results ++ [{ chan := c, slip := some slip, outcome := .pass }] := by
  obtain ⟨-, -, results, -, segments, count, kept, number⟩ := h.handed
  have handed : SegmentOver s (segmentHanded c slip .pass s) := h.isOver.finalTest c
  rw [passSegment_more (segments.trans segment) (by rw [count]; exact more)] at ht
  have axis : (segmentEnd c slip .pass s).testAxis c = s.testAxis c := by
    unfold State.testAxis
    rw [h.turn]
  have queued : (segmentHanded c slip .pass s).testQueued = true :=
    finalTest_queued (e := e) (by
      rw [axis]
      unfold State.driveEntry State.act at entry ⊢
      rw [h.tables]
      exact entry) (by rw [h.ring]; exact sending)
  have mode : (segmentHanded c slip .pass s).mode = .testing := handed.mode
  generalize segmentHanded c slip .pass s = b at results kept number mode queued ht
  rw [testPoll_queued (nextWaits_queued queued)] at ht
  rw [ht, finish_tester, finish_mode]
  exact ⟨rfl, rfl, kept.trans status, number, mode, results⟩

end Held

/-! The ends of a suspension (R188). -/

theorem beginSegment_fresh {s : State} {c : Chan} (chan : s.testChan = some c) (fresh : s.chanFresh c = true) :
    beginSegment s = periodicTest c { s with tester := { s.tester with
      phase := some .ramp, reached := ⟨false, false⟩, start := none, tHold := none
      tRamp := some (s.now + 2000), tPeriod := some (s.now + 50) } } := by
  unfold beginSegment
  rw [chan]
  dsimp only
  rw [if_pos fresh]
  rfl

theorem periodicTest_tester (c : Chan) (s : State) :
    (periodicTest c s).tester = { s.tester with walkTurn := (periodicTest c s).tester.walkTurn }
      ∧ (periodicTest c s).mode = s.mode := by
  unfold periodicTest
  dsimp only
  rw [handTest_rest]
  split <;> exact ⟨rfl, rfl⟩

end Sys2Proof.Machine
end

section
/-! The ends of test segments. -/

namespace Sys2Proof.Proofs

open Sys2Proof.Machine

/-- The arrival in RAMP, the first part of O52. -/
theorem ramp_arrival (x : Axis) (s t : State) (c : Chan) (reached : Prop) (marks : Pair Bool) (pos : Axis → Nat)
    (hc : c = chanOf x) (ht : t = testArrival x s) (hm : marks = s.tester.reached.set x true)
    (hr : reached ↔ if isCam x then (s.act.test.torque : Int) ≤ (s.feedback.get x).current
               else (s.feedback.get x).current ≤ -(s.act.test.torque : Int))
    (hpos : ∀ y, pos y = if isCam y then (s.feedback.get y).turns * 3600 + (s.feedback.get y).position
                  else (s.feedback.get y).position) :
    ((s.segmentRuns c = false ∨ s.tester.phase ≠ some .ramp ∨ ¬reached) → t = s)
    ∧ (s.segmentRuns c = true → s.tester.phase = some .ramp → reached →
        (marks.all c = false → t = { s with tester := { s.tester with reached := marks } })
        ∧ (marks.all c = true →
            t = { s with tester := { s.tester with
              reached := marks, phase := some .hold, tRamp := none, tHold := some (s.now + s.act.test.hold)
              start := some (if c = .walk then ⟨pos .walkLeft, pos .walkRight⟩ else ⟨pos x, 0⟩) } })) := by
  subst hc hm
  rw [← torqueReached_iff] at hr
  have position : (if chanOf x = .walk then (⟨pos .walkLeft, pos .walkRight⟩ : Pair Nat) else ⟨pos x, 0⟩)
      = s.slipPositions (chanOf x) := by
    rw [slipPositions_chan, hpos, hpos, hpos, slipPosition_eq, slipPosition_eq, slipPosition_eq]
  rw [position, ht]
  refine ⟨fun idle => testArrival_idle (idle.imp_right fun k => k.imp_right fun short r => short (hr.mpr r)),
    fun runs ramp r => ⟨fun some => ?_, fun all => ?_⟩⟩
  · rw [testArrival_marks runs ramp (hr.mp r), if_neg (by rw [some]; exact Bool.false_ne_true)]
  · rw [testArrival_marks runs ramp (hr.mp r), if_pos all]
    rfl

theorem slip_positions (s : State) (x : Axis) (n : Nat)
    (hn : n = (if isCam x then (s.feedback.get x).turns * 3600 + (s.feedback.get x).position
             else (s.feedback.get x).position)) :
    (x = .hoist ∨ x = .drag ∨ x = .swing → s.slipPositions (chanOf x) = ⟨n, 0⟩)
      ∧ (x = .walkLeft → (s.slipPositions .walk).first = n) ∧ (x = .walkRight → (s.slipPositions .walk).second = n) := by
  rw [hn]
  refine ⟨?_, ?_, ?_⟩
  · rintro (rfl | rfl | rfl) <;> rfl
  · rintro rfl
    rfl
  · rintro rfl
    rfl

/-- The expiry of a hold timer, the fourth part of O52. -/
theorem hold_expires (s : State) (c : Chan) (p : Pair Nat) (mode : s.mode = .testing) (held : s.heldTrips = [])
    (chan : s.testChan = some c) (status : s.tester.status = .inProgress) (hold : s.tester.phase = some .hold)
    (start : s.tester.start = some p) (out : s.expired s.tester.tHold = true)
    (quiet : s.pointsOn (56 + (marginOf c).val) = []) {slip : Nat} (hslip : slip = slipOf c (s.slipPositions c) p) :
    ∃ t, exec .holdExpiry s = .next t
      ∧ FinalReferenceOut s c t
      ∧ (t.attrs.recs[marginOf c]).raw = slip
      ∧ (t.attrs.recs[marginOf c]).never = false
      ∧ (t.attrs.recs[marginOf c]).norm
          = max 1 (min 100 (100 - quotient (99 * slip) (s.act.test.slip.get c)))
      ∧ (s.act.test.slip.get c < slip →
          TestEnded s t .failedSlip (some c)
            (s.tester.results ++ [{ chan := c, slip := some slip, outcome := .fail }]))
      ∧ (slip ≤ s.act.test.slip.get c →
          t.tester.completed = s.tester.completed + 1
            ∧ (∀ i e, s.tester.segment = some i → i + 1 < s.tester.count → s.ring.sending ≠ none →
                s.driveEntry (s.testAxis c) = some e →
                t.tester.segment = some (i + 1) ∧ t.tester.phase = some .waiting
                  ∧ t.tester.status = .inProgress ∧ t.tester.number = s.tester.number ∧ t.mode = .testing
                  ∧ t.tester.results = s.tester.results ++
                      [{ chan := c, slip := some slip, outcome := .pass }])
            ∧ ∀ i, s.tester.segment = some i → s.tester.count ≤ i + 1 →
                TestEnded s t .passed none (s.tester.results ++
                  [{ chan := c, slip := some slip, outcome := .pass }])) := by
  have measures := holdOut_measures chan status hold start out quiet hslip
  refine ⟨finish (holdOut s), rfl, ?_⟩
  rw [measures]
  by_cases within : slip ≤ s.act.test.slip.get c
  · have h := segmentEnd_measured slip .pass mode held quiet
    obtain ⟨i, segment⟩ : ∃ i, s.tester.segment = some i := by
      unfold State.testChan at chan
      exact (Option.bind_eq_some_iff.mp chan).imp fun _ k => k.1
    rw [if_pos within]
    generalize ht : finish (testPoll (passSegment (segmentHanded c slip .pass s))) = t
    have whole : FinalReferenceOut s c t ∧ t.attrs = (segmentEnd c slip .pass s).attrs
        ∧ t.tester.completed = s.tester.completed + 1 := by
      by_cases more : i + 1 < s.tester.count
      · exact more_waits h segment more ht.symm
      · obtain ⟨final, attrs, completed, -⟩ := last_passes h segment (not_lt.mp more) ht.symm
        exact ⟨final, attrs, completed⟩
    obtain ⟨final, attrs, completed⟩ := whole
    rw [attrs]
    exact ⟨final, h.raw, h.never, h.norm, fun over_ => absurd within (not_le.mpr over_), fun _ => ⟨completed,
      fun j e sj more sending entry => more_waits_busy h sj more sending entry status ht.symm,
      fun j sj last => (last_passes h sj last ht.symm).2.2.2⟩⟩
  · have h := segmentEnd_measured slip .fail mode held quiet
    rw [if_neg within]
    obtain ⟨final, attrs, ended⟩ := slip_fails h rfl
    rw [attrs]
    exact ⟨final, h.raw, h.never, h.norm, fun _ => ended, fun k => absurd k within⟩

/-- The ends of a suspension, the last part of O52. -/
theorem suspension_ends (s : State) (suspended : s.tester.status = .suspended) :
    (∀ c, s.testChan = some c → s.chanFresh c = true → s.expired s.tester.tResume = true →
        ∃ t, exec .resumeExpiry s = .next t ∧ t.tester.status = .inProgress ∧ t.tester.phase = some .ramp
          ∧ t.tester.tSuspend = none ∧ t.tester.tResume = none ∧ t.tester.tRamp = some (s.now + 2000)
          ∧ t.tester.reached = ⟨false, false⟩ ∧ t.tester.start = none ∧ t.mode = s.mode)
      ∧ (s.mode = .testing → s.heldTrips = [] → s.expired s.tester.tSuspend = true →
          ∃ t, exec .suspendLimitExpiry s = .next t ∧ testAborted s t ∧ t.tester.tResume = none) := by
  refine ⟨fun c chan fresh out => ⟨finish (resumeOut s), rfl, ?_⟩,
    fun mode held out => ⟨finish (suspendOut s), rfl, ?_⟩⟩
  · have resumes : resumeOut s = beginSegment
        (oweStatus { s with tester := { s.tester with status := .inProgress, tResume := none, tSuspend := none } }) :=
      if_pos ⟨suspended, out⟩
    rw [finish_tester, finish_mode, resumes, beginSegment_fresh (by exact chan) (by exact fresh)]
    obtain ⟨tester, mode⟩ := periodicTest_tester c _
    rw [tester, mode]
    exact ⟨rfl, rfl, rfl, rfl, rfl, rfl, rfl, rfl⟩
  · have aborts : suspendOut s = abortTest s := if_pos ⟨suspended, out⟩
    have aborted := (abortTest_aborts mode held).finish
    rw [aborts]
    refine ⟨aborted, ?_⟩
    obtain ⟨⟨rs, -, -, stopped⟩, -⟩ := aborted
    unfold TestStopped at stopped
    obtain ⟨-, -, -, -, -, -, -, -, resume, -⟩ := stopped
    exact resume

/-- Settles O52: a segment that is over hands its final Reference and leaves the test to its ending or to the next
segment, whichever way OUT stands. -/
theorem segmentsEndAndResume : Obligations.SegmentsEndAndResume := by
  unfold Obligations.SegmentsEndAndResume
  exact ⟨ramp_arrival, slip_positions, slipOf_words,
    ⟨fun s c mode held chan status ramp out => ramp_times_out mode held chan status ramp out,
      fun s c p mode held chan status hold start out quiet =>
        hold_expires s c p mode held chan status hold start out quiet rfl⟩, suspension_ends⟩

end Sys2Proof.Proofs
end

section
/-!
Lemmas for the obligation on CONSUME_TRIPS: the records that stay in the queue, and the start-up test that a change of
the queue's length makes in INIT (R32, R33, R165, R166).
-/

namespace Sys2Proof.Machine

/-! The records that stay. -/

/-- The trip record queue begins with given records. -/
def QueueBegins (q : List TripRecord) (s : State) : Prop := q <+: s.trip.queue

/-- A trip appends at most a record of its own (R163). -/
theorem queueBegins_stable (q : List TripRecord) : TripStable (QueueBegins q) where
  view h _ trip := by unfold QueueBegins; rw [trip]; exact h
  trip i s h := by
    unfold QueueBegins
    rw [takeTrip_queue]
    split
    · exact h.trans (List.prefix_append ..)
    · exact h

theorem TripStable.feedAll {Q : State → Prop} (K : TripStable Q) (us : List Update) {s : State} (h : Q s) :
    Q (feedAll us s) :=
  K.view (K.takeUpdates 256 (K.view (t := { s with updates := some us }) h rfl rfl)) rfl rfl

theorem QueueBegins.changeMode {q : List TripRecord} {s : State} (h : QueueBegins q s) (m : Mode) :
    QueueBegins q (changeMode m s) := by
  refine (queueBegins_stable q).drainTrips 256 ?_
  unfold QueueBegins
  rw [modeSteps_trip]
  split
  · exact h
  · exact h

theorem QueueBegins.initTest {q : List TripRecord} {s : State} (h : QueueBegins q s) : QueueBegins q (initTest s) := by
  unfold Machine.initTest updateReason
  split
  · split
    · exact h.changeMode .parked
    · exact h
  · exact h

theorem consume_begins (n : Nat) (s : State) : QueueBegins (s.trip.queue.drop n) (consume n s) := by
  have fed (us : List Update) (b : Bool) (lost : Nat) : QueueBegins (s.trip.queue.drop n) (feedAll us { s with
      trip := { s.trip with queue := s.trip.queue.drop n, notStored := lost }, statusOwed := b }) :=
    (queueBegins_stable _).feedAll us (List.prefix_refl _)
  unfold consume
  dsimp only
  split
  · exact (fed ..).initTest
  · exact fed ..

/-! The points re-armed, from a state that differs in sources no point watches. -/

theorem Rearmed.of_unwatched {u k t : State} (h : Rearmed k t) (tables : k.tables = u.tables) (now : k.now = u.now)
    (points : k.alarm.points = u.alarm.points) (list : k.alarm.list = u.alarm.list)
    (sources : ∀ p : Fin 48, (u.act.points[p]).enabled = true →
      k.source (u.act.points[p]).source = u.source (u.act.points[p]).source) : Rearmed u t := by
  obtain ⟨moved, kept, order⟩ := h
  have act : k.act = u.act := congrArg Tables.active tables
  refine ⟨fun p c r next hc hr enabled arms => ?_, fun p c r hc hr stays => ?_, fun exact_ => ?_⟩
  · have same := sources p (by rw [← hc]; exact enabled)
    rw [← hc] at same
    rw [moved p c r next (by rw [act]; exact hc) (by rw [points]; exact hr) enabled arms, same, now]
  · exact kept p c r (by rw [act]; exact hc) (by rw [points]; exact hr) stays
  · rw [order (by unfold ActiveListExact at exact_ ⊢; rw [list, points]; exact exact_), list]

/-- The test of R33 leaves the sources and the trip records, where no trip is held. -/
theorem initTest_records {w : State} (none : w.mode = .init → w.heldTrips = []) :
    (initTest w).alarm.sources = w.alarm.sources ∧ (initTest w).trip.queue = w.trip.queue
      ∧ (initTest w).trip.notStored = w.trip.notStored ∧ (initTest w).trip.next = w.trip.next := by
  by_cases init : w.mode = .init
  · cases ready : w.startReady with
    | true =>
      obtain ⟨-, -, -, -, -, -, trip, sources, -⟩ := parked_from_init init (none init) (initTest_ready init ready)
      rw [trip]
      exact ⟨sources, rfl, rfl, rfl⟩
    | false =>
      obtain ⟨-, rest⟩ := updateReason_init init
      rw [initTest_waits init ready, rest]
      exact ⟨rfl, rfl, rfl, rfl⟩
  · rw [show initTest w = w from if_neg init]
    exact ⟨rfl, rfl, rfl, rfl⟩

/-- What the records consumed leave of the machine, before the test of R33. -/
structure Consumed (u k : State) (q : List TripRecord) : Prop where
  rest : k = { u with
    trip := { u.trip with queue := q, notStored := if q = [] then 0 else u.trip.notStored }
    alarm := { u.alarm with sources := k.alarm.sources }, statusOwed := k.statusOwed }
  others : ∀ code, code ≠ 54 → code ≠ 55 → k.source code = u.source code

theorem Consumed.watched {u k : State} {q : List TripRecord} (h : Consumed u k q) (h54 : u.pointsOn 54 = [])
    (h55 : u.pointsOn 55 = []) (p : Fin 48) (enabled : (u.act.points[p]).enabled = true) :
    k.source (u.act.points[p]).source = u.source (u.act.points[p]).source := by
  refine h.others _ (fun on => ?_) fun on => ?_
  · have mem := (mem_pointsOn (s := u) 54).mpr ⟨enabled, on⟩
    rw [h54] at mem
    exact List.not_mem_nil mem
  · have mem := (mem_pointsOn (s := u) 55).mpr ⟨enabled, on⟩
    rw [h55] at mem
    exact List.not_mem_nil mem

/-- The conditions of R33. -/
def StartConditions (k : State) : Prop :=
  StationGood k ∧ k.tables.valid = true ∧ ¬RecordsHeld k ∧ ¬BrakeNotSet k ∧ ¬DriveNotFresh k ∧ ¬AnalogSettles k

section Init

variable {u w k : State} {q : List TripRecord} (h : Consumed u w q)
  (hk : k = { u with trip := { u.trip with queue := q, notStored := if q = [] then 0 else u.trip.notStored } })
include h hk

theorem Consumed.conditions : w.startReady = true ↔ StartConditions k := by
  rw [startReady_iff, h.rest, hk]
  rfl

/-- With the conditions of R33 holding the machine is PARKED (R33, R160). -/
theorem Consumed.parks (h54 : u.pointsOn 54 = []) (h55 : u.pointsOn 55 = []) (init : u.mode = .init)
    (none : u.heldTrips = []) (ready : StartConditions k) {t : State} (ht : t = initTest w) :
    t.mode = .parked ∧ t.trip = { k.trip with field := .energised, brake := .energised }
      ∧ t.ctl.reason = .none ∧ t.ctl.slot = Option.none ∧ t.ctl.hold = .none ∧ t.ctl.entryTime = u.now
      ∧ Rearmed u t
      ∧ t = { u with ctl := t.ctl, trip := t.trip, alarm := t.alarm, owed := t.owed, statusOwed := t.statusOwed } := by
  have mode : w.mode = .init := by rw [h.rest]; exact init
  have changes := ht.trans (initTest_ready mode ((h.conditions hk).mpr ready))
  obtain ⟨parked, reason, slot, hold, entry, armed, trip, -, rest⟩ :=
    parked_from_init mode (by rw [h.rest]; exact none) changes
  have now : w.now = u.now := by rw [h.rest]
  have lines : w.trip = k.trip := by rw [h.rest, hk]
  refine ⟨parked, by rw [trip, lines], reason, slot, hold, entry.trans now, ?_, ?_⟩
  · exact armed.of_unwatched (by rw [h.rest]) now (by rw [h.rest]) (by rw [h.rest]) (h.watched h54 h55)
  · have frame := h.rest
    clear ht changes
    generalize t.ctl = c, t.trip = p, t.alarm = a, t.owed = o, t.statusOwed = b at rest ⊢
    rw [rest, frame]

/-- Else the INIT reason is worked out anew (R32). -/
theorem Consumed.waits (init : u.mode = .init) (short : ¬StartConditions k) {t : State} (ht : t = initTest w) :
    t.ctl = { u.ctl with reason := k.workedReason } ∧ t.trip = k.trip
      ∧ t = { u with ctl := t.ctl, trip := t.trip, alarm := { u.alarm with sources := t.alarm.sources }
                     ring := t.ring, owed := t.owed, statusOwed := t.statusOwed } := by
  have mode : w.mode = .init := by rw [h.rest]; exact init
  have unready : w.startReady = false := by
    rw [Bool.eq_false_iff]
    exact fun ready => short ((h.conditions hk).mp ready)
  rw [initTest_waits mode unready] at ht
  obtain ⟨ctl, rest⟩ := updateReason_init mode
  rw [← ht] at ctl rest
  have reason : w.workedReason = k.workedReason := by rw [h.rest, hk]; rfl
  have lines : w.trip = k.trip := by rw [h.rest, hk]
  have record : w.ctl = u.ctl := by rw [h.rest]
  refine ⟨by rw [ctl, reason, record], by rw [rest, lines], ?_⟩
  have frame := h.rest
  have sources : t.alarm = w.alarm := by rw [rest]
  have queue : t.trip = w.trip := by rw [rest]
  have alarm : w.alarm = { u.alarm with sources := w.alarm.sources } := by rw [frame]
  rw [queue, sources, ← alarm]
  generalize t.ctl = c, t.ring = r, t.owed = o, t.statusOwed = b at rest ⊢
  rw [rest]
  generalize w.alarm = a, w.trip = p, w.statusOwed = d at frame ⊢
  rw [frame]

end Init

end Sys2Proof.Machine
end

section
/-! CONSUME_TRIPS. -/

namespace Sys2Proof.Proofs

open Sys2Proof.Machine

theorem exec_consumeTrips {h : Header} {tag : Half} {n : Byte} {s u : State} {f : Frame}
    (hf : f = requestFrame h 12#8 tag [n]) (taken : s.requests f = true) (hu : u = admitted f s) :
    exec (.consumeTrips h tag n) s = .next (finish (answer (s.asker f) .ok
      [byte (min n.toNat u.trip.queue.length), byte (u.trip.queue.length - n.toNat)] false (consume n.toNat u))) := by
  subst hf
  rw [exec_request (r := .consumeTrips n.toNat) rfl rfl rfl hu taken]
  unfold carryOut
  rfl

/-- What an answered consumption leaves where no point watches the two sources. -/
theorem consumed_unwatched {n : Nat} {u t : State} {q : List TripRecord} (hq : q = u.trip.queue.drop n)
    (ends : OnlyRing (consume n u) t) (h54 : u.pointsOn 54 = []) (h55 : u.pointsOn 55 = [])
    (none : u.mode = .init → u.heldTrips = []) :
    t.trip.queue = q ∧ t.trip.notStored = (if q = [] then 0 else u.trip.notStored)
      ∧ t.trip.next = u.trip.next
      ∧ (∀ code, code ≠ 54 → code ≠ 55 → t.source code = u.source code)
      ∧ (q ≠ u.trip.queue → t.source 54 = { value := q.length, valid := true })
      ∧ (q = u.trip.queue → t.source 54 = u.source 54)
      ∧ (t.trip.notStored ≠ u.trip.notStored → t.source 55 = { value := 0, valid := true })
      ∧ (t.trip.notStored = u.trip.notStored → t.source 55 = u.source 55)
      ∧ ((u.mode ≠ .init ∨ q = u.trip.queue) →
          t.trip.field = u.trip.field ∧ t.trip.brake = u.trip.brake
            ∧ t = { u with trip := t.trip, alarm := { u.alarm with sources := t.alarm.sources }, ring := t.ring
                           owed := t.owed, statusOwed := t.statusOwed })
      ∧ (u.mode = .init → q ≠ u.trip.queue →
          ∀ k : State, k = { u with trip := { u.trip with queue := q, notStored := t.trip.notStored } } →
          (StartConditions k →
            t.mode = .parked ∧ t.trip = { k.trip with field := .energised, brake := .energised }
              ∧ t.ctl.reason = .none ∧ t.ctl.slot = Option.none ∧ t.ctl.hold = .none ∧ t.ctl.entryTime = u.now
              ∧ Rearmed u t
              ∧ t = { u with ctl := t.ctl, trip := t.trip, alarm := t.alarm, ring := t.ring, owed := t.owed
                             statusOwed := t.statusOwed })
          ∧ (¬StartConditions k →
            t.ctl = { u.ctl with reason := k.workedReason } ∧ t.trip = k.trip
              ∧ t = { u with ctl := t.ctl, trip := t.trip, alarm := { u.alarm with sources := t.alarm.sources }
                             ring := t.ring, owed := t.owed, statusOwed := t.statusOwed })) := by
  obtain ⟨w, rest, others, length, same, lost, kept, run⟩ := consume_unwatched hq rfl h54 h55
  have h : Consumed u w q := ⟨rest, others⟩
  generalize consume n u = v at ends run
  have held : w.mode = .init → w.heldTrips = [] := by rw [rest]; exact none
  obtain ⟨sources, queue, notStored, next⟩ : v.alarm.sources = w.alarm.sources ∧ v.trip.queue = w.trip.queue
      ∧ v.trip.notStored = w.trip.notStored ∧ v.trip.next = w.trip.next := by
    rw [run]
    split
    · exact initTest_records held
    · exact ⟨rfl, rfl, rfl, rfl⟩
  have trip : t.trip = v.trip := (congrArg State.trip ends :)
  have values (code : Nat) : t.source code = w.source code :=
    (source_congr (congrArg (fun s : State => s.alarm.sources) ends) code).trans (source_congr sources code)
  have lostNow : t.trip.notStored = if q = [] then 0 else u.trip.notStored := by rw [trip, notStored, rest]
  have count : t.trip.notStored = w.trip.notStored := by rw [trip, notStored]
  rw [values, values, count]
  refine ⟨by rw [trip, queue, rest], by rw [rest], by rw [trip, next, rest],
    fun code a b => (values code).trans (others code a b), length, same, lost, kept, fun still => ?_,
    fun init moved k hk => ?_⟩
  · have stays : v = w := by
      rw [run]
      split
      · rename_i moved
        refine if_neg ?_
        rw [rest]
        exact still.resolve_right moved
      · rfl
    rw [stays] at trip ends
    have alarm : t.alarm = w.alarm := (congrArg State.alarm ends :)
    rw [trip, alarm]
    refine ⟨by rw [rest], by rw [rest], ?_⟩
    unfold OnlyRing at ends
    generalize t.ring = r, t.owed = o, t.statusOwed = b at ends ⊢
    rw [ends]
    generalize w.alarm.sources = a, w.statusOwed = d at rest ⊢
    rw [rest]
  · rw [show w.trip.notStored = if q = [] then 0 else u.trip.notStored by rw [rest]] at hk
    rw [if_pos moved] at run
    have ctl : t.ctl = v.ctl := (congrArg State.ctl ends :)
    have alarm : t.alarm = v.alarm := (congrArg State.alarm ends :)
    have mode : t.mode = v.mode := congrArg ModeCtl.mode ctl
    refine ⟨fun ready => ?_, fun short => ?_⟩
    · obtain ⟨parked, lines, reason, slot, hold, entry, armed, frame⟩ := h.parks hk h54 h55 init (none init) ready run
      have rearmed : Rearmed u t := rearmed_congr armed mode (by rw [alarm]) (by rw [alarm])
      refine ⟨mode.trans parked, trip.trans lines, by rw [ctl, reason], by rw [ctl, slot], by rw [ctl, hold],
        by rw [ctl, entry], rearmed, ?_⟩
      rw [ctl, trip, alarm]
      clear rearmed armed
      unfold OnlyRing at ends
      generalize t.ring = r, t.owed = o, t.statusOwed = b at ends ⊢
      rw [ends]
      generalize v.ctl = vc, v.trip = vt, v.alarm = va, v.owed = vo, v.statusOwed = vs at frame ⊢
      rw [frame]
    · obtain ⟨worked, lines, frame⟩ := h.waits hk init short run
      refine ⟨by rw [ctl, worked], trip.trans lines, ?_⟩
      rw [ctl, trip, alarm]
      unfold OnlyRing at ends
      generalize t.ring = r, t.owed = o, t.statusOwed = b at ends ⊢
      rw [ends]
      generalize v.ctl = vc, v.trip = vt, v.alarm.sources = va, v.ring = vr, v.owed = vo, v.statusOwed = vs at frame ⊢
      rw [frame]

/-- Settles O37: the records that stay are the queue's end, which no trip shortens, and what follows the update of the
two sources is at most the test of R33. -/
theorem consumeTrips : Obligations.ConsumeTrips := by
  unfold Obligations.ConsumeTrips
  intro h tag n s u f q hf taken hu hq
  obtain ⟨answered, ends⟩ := answered_onlyRing (rq := s.asker f) (st := .ok) (b := false)
    (results := [byte (min n.toNat u.trip.queue.length), byte (u.trip.queue.length - n.toNat)])
    (w := consume n.toNat u) rfl
  refine ⟨_, exec_consumeTrips hf taken hu, answered, ?_, fun h54 h55 none => consumed_unwatched hq ends h54 h55 none⟩
  rw [show (finish _).trip.queue = _ from congrArg (fun s : State => s.trip.queue) ends, hq]
  exact consume_begins n.toNat u

end Sys2Proof.Proofs
end

section
/-!
Rules of the table fields: the bytes that are a value of a form, and that each decodes to a value with those bytes
(R191, R194, R195).
-/

namespace Sys2Proof.Machine

/-! The bytes of a field. -/

/-- Bytes are a value of a form. -/
def Fits : FieldForm → List Byte → Prop
  | .num n, bs => bs.length = n
  | .name k, bs => ∃ b : Byte, bs = [b] ∧ b.toNat < k
  | .flag, bs => ∃ b : Byte, bs = [b] ∧ b.toNat < 2
  | .modes, bs => ∃ b : Byte, bs = [b] ∧ b.toNat < 128
  | .optName k, bs => bs = [0#8] ∨ ∃ b : Byte, bs = [1#8, b] ∧ b.toNat < k
  | .chans, bs => ∃ l : List Byte, bs = byte l.length :: l ∧ ∀ b ∈ l, b.toNat < 4

theorem encNat_length (n v : Nat) : (encNat n v).length = n := by
  induction n with
  | zero => rfl
  | succ n ih => exact congrArg (· + 1) ih

theorem numField_fits (n v : Nat) : Fits (numField n v).1 (numField n v).2 := encNat_length n v

theorem intField_fits (n : Nat) (v : Int) : Fits (intField n v).1 (intField n v).2 := encNat_length n _

theorem flagField_fits (b : Bool) : Fits (flagField b).1 (flagField b).2 := by
  cases b <;> exact ⟨_, rfl, by decide⟩

theorem nameField_fits {k v : Nat} (small : v < k) (byteSized : k ≤ 256) :
    Fits (nameField k v).1 (nameField k v).2 := by
  refine ⟨byte v, rfl, ?_⟩
  show v % 256 < k
  omega

theorem optField_fits {k : Nat} {v : Option Nat} (small : ∀ n ∈ v, n < k) (byteSized : k ≤ 256) :
    Fits (optField k v).1 (optField k v).2 := by
  cases v with
  | none => exact .inl rfl
  | some n =>
    have below := small n rfl
    refine .inr ⟨byte n, rfl, ?_⟩
    show n % 256 < k
    omega

/-! Numbers. -/

theorem decNat_append (bs : List Byte) (b : Byte) : decNat (bs ++ [b]) = decNat bs * 256 + b.toNat := by
  unfold decNat
  rw [List.foldl_append]
  rfl

theorem decNat_cons (b : Byte) (bs : List Byte) : decNat (b :: bs) = b.toNat * 256 ^ bs.length + decNat bs := by
  induction bs using List.reverseRecOn with
  | nil => simp [decNat]
  | append_singleton bs c ih =>
    rw [← List.cons_append, decNat_append, ih, decNat_append, List.length_append, List.length_singleton, pow_succ]
    ring

theorem decNat_lt (bs : List Byte) : decNat bs < 256 ^ bs.length := by
  induction bs with
  | nil => exact Nat.one_pos
  | cons b bs ih =>
    have small := b.isLt
    rw [decNat_cons, List.length_cons, pow_succ]
    nlinarith [show b.toNat + 1 ≤ 256 from small]

theorem encNat_mod (n v k : Nat) : encNat n (k * 256 ^ n + v) = encNat n v := by
  induction n generalizing k with
  | zero => rfl
  | succ n ih =>
    have split : k * 256 ^ (n + 1) + v = k * 256 * 256 ^ n + v := by ring
    have high : byte ((k * 256 * 256 ^ n + v) / 256 ^ n) = byte (v / 256 ^ n) := by
      rw [Nat.add_comm, Nat.add_mul_div_right _ _ (Nat.pow_pos (by decide)), byte, byte]
      apply BitVec.eq_of_toNat_eq
      rw [BitVec.toNat_ofNat, BitVec.toNat_ofNat]
      omega
    show byte _ :: encNat n _ = byte _ :: encNat n _
    rw [split, high, ih]

/-- A number's bytes read back (R191). -/
theorem encNat_decNat {n : Nat} {bs : List Byte} (h : bs.length = n) : encNat n (decNat bs) = bs := by
  subst h
  induction bs with
  | nil => rfl
  | cons b bs ih =>
    have small := decNat_lt bs
    have high : (b.toNat * 256 ^ bs.length + decNat bs) / 256 ^ bs.length = b.toNat := by
      rw [Nat.add_comm, Nat.add_mul_div_right _ _ (Nat.pow_pos (by decide)), Nat.div_eq_of_lt small, Nat.zero_add]
    rw [decNat_cons]
    show byte _ :: encNat bs.length _ = _
    rw [high, encNat_mod, ih]
    exact congrArg (· :: bs) (BitVec.ofNat_toNat ..)

/-- A signed number's bytes read back (R191). -/
theorem encInt_decInt {n : Nat} {bs : List Byte} (h : bs.length = n) : encInt n (decInt bs) = bs := by
  have small := decNat_lt bs
  have value : (decInt bs % ((256 ^ n : Nat) : Int)).toNat = decNat bs := by
    unfold decInt
    dsimp only
    rw [h] at small ⊢
    split
    · rw [Int.emod_eq_of_lt (by omega) (by omega)]
      rfl
    · rw [Int.sub_emod_right, Int.emod_eq_of_lt (by omega) (by omega)]
      rfl
  unfold encInt
  rw [value]
  exact encNat_decNat h

/-! Names, flags and sets. -/

theorem byte_of_toNat (b : Byte) : byte b.toNat = b := BitVec.ofNat_toNat ..

/-- A name's byte reads back, where the names stand at their codes (R191). -/
theorem name_back {α : Type} {names : List α} {code : α → Nat} (at_ : ∀ i, (h : i < names.length) → code names[i] = i)
    {k : Nat} (count : names.length = k) {bs : List Byte} (fits : Fits (.name k) bs) :
    ∃ x, nameAt names (head bs) = some x ∧ [byte (code x)] = bs := by
  obtain ⟨b, rfl, small⟩ := fits
  have inside : b.toNat < names.length := by rw [count]; exact small
  refine ⟨names[b.toNat], List.getElem?_eq_getElem inside, ?_⟩
  rw [at_ _ inside, byte_of_toNat]

/-- An optional name's bytes read back. -/
theorem opt_back {α : Type} {names : List α} {code : α → Nat} (at_ : ∀ i, (h : i < names.length) → code names[i] = i)
    {k : Nat} (count : names.length = k) {bs : List Byte} (fits : Fits (.optName k) bs) :
    (optField k (((optValue bs).bind (nameAt names)).map code)).2 = bs := by
  rcases fits with rfl | ⟨b, rfl, small⟩
  · rfl
  · obtain ⟨x, named, bytes⟩ := name_back at_ count (bs := [b]) ⟨b, rfl, small⟩
    show optBytes ((((nameAt names b).map code).map fun n => [byte n])) = _
    rw [show nameAt names b = some x from named]
    exact congrArg (1#8 :: ·) bytes

theorem flag_back {bs : List Byte} (fits : Fits .flag bs) : [flagByte (flagValue bs)] = bs := by
  obtain ⟨b, rfl, small⟩ := fits
  have two : b = 0#8 ∨ b = 1#8 := by
    rcases (by omega : b.toNat = 0 ∨ b.toNat = 1) with zero | one
    · exact .inl (BitVec.eq_of_toNat_eq zero)
    · exact .inr (BitVec.eq_of_toNat_eq one)
  rcases two with rfl | rfl <;> rfl

theorem modes_back {bs : List Byte} (fits : Fits .modes bs) :
    [byte ((head bs).extractLsb' 0 7).toNat] = bs := by
  obtain ⟨b, rfl, small⟩ := fits
  refine congrArg (· :: []) (BitVec.eq_of_toNat_eq ?_)
  show (byte ((b.extractLsb' 0 7).toNat)).toNat = b.toNat
  rw [byte, BitVec.toNat_ofNat, BitVec.extractLsb'_toNat, Nat.shiftRight_zero]
  omega

/-- A list of channels reads back. -/
theorem chans_back {bs : List Byte} (fits : Fits .chans bs) :
    listBytes (((bs.drop 1).filterMap (nameAt allChans)).map fun x => [byte (chanPos x)]) = bs := by
  obtain ⟨l, rfl, small⟩ := fits
  have named (l : List Byte) (small : ∀ b ∈ l, b.toNat < 4) :
      ((l.filterMap (nameAt allChans)).map fun x => [byte (chanPos x)]) = l.map fun b => [b] := by
    induction l with
    | nil => rfl
    | cons b l ih =>
      obtain ⟨x, at_, bytes⟩ := name_back (names := allChans) (code := chanPos) (k := 4) (by decide) rfl (bs := [b])
        ⟨b, rfl, small b List.mem_cons_self⟩
      rw [List.filterMap_cons_some (show nameAt allChans b = some x from at_), List.map_cons, List.map_cons, bytes,
        ih fun c mem => small c (List.mem_cons_of_mem _ mem)]
  have flat (l : List Byte) : (l.map fun b => [b]).flatten = l := by
    induction l with
    | nil => rfl
    | cons b l ih => exact congrArg (b :: ·) ih
  show listBytes ((l.filterMap (nameAt allChans)).map fun x => [byte (chanPos x)]) = _
  rw [named l small]
  unfold listBytes
  rw [List.length_map, flat]

/-- A matrix entry's bytes read back, 65535 as BARRED. -/
theorem matrix_back {bs : List Byte} (fits : Fits (.num 2) bs) : (matrixField (matrixEntryOf bs)).2 = bs := by
  have value : (matrixEntryOf bs).getD 65535 = decNat bs := by
    unfold matrixEntryOf
    split
    · rename_i barred
      exact barred.symm
    · rfl
  show encNat 2 ((matrixEntryOf bs).getD 65535) = bs
  rw [value]
  exact encNat_decNat fits

/-! What a write leaves of a field's form (R195). -/

/-- Bits of bytes below 128 are below 128. -/
theorem modes_fit {a b : Byte} (ha : a.toNat < 128) (hb : b.toNat < 128) :
    (a ||| b).toNat < 128 ∧ (a &&& ~~~b).toNat < 128 ∧ (a ^^^ b).toNat < 128 := by
  refine ⟨?_, ?_, ?_⟩
  · rw [BitVec.toNat_or]
    exact Nat.or_lt_two_pow (n := 7) ha hb
  · rw [BitVec.toNat_and]
    exact lt_of_le_of_lt Nat.and_le_left ha
  · rw [BitVec.toNat_xor]
    exact Nat.xor_lt_two_pow (n := 7) ha hb

theorem carries_fits {f : FieldForm} {bs : List Byte} (h : Carries 0 f bs) : Fits f bs := by
  cases f with
  | num n => exact h
  | name k => exact h
  | flag =>
    obtain ⟨b, eq, small⟩ := h
    exact ⟨b, eq, small rfl⟩
  | modes => exact h
  | optName k => exact h
  | chans =>
    obtain ⟨l, eq, -, small⟩ := h
    exact ⟨l, eq, small⟩

/-- A marked field holds a value of its form after the write. -/
theorem fieldBecomes_fits {mode : Nat} {f : FieldForm} {old carried new : List Byte} (fits : Fits f old)
    (carries : Carries mode f carried) (becomes : FieldBecomes mode f old carried new) : Fits f new := by
  rcases becomes with ⟨write, rfl⟩ | ⟨rfl, flag⟩ | ⟨rfl, modes⟩
  · subst write
    exact carries_fits carries
  · obtain ⟨b, rfl, small⟩ := fits
    rcases flag with ⟨-, rfl⟩ | ⟨-, rfl⟩ | ⟨-, rfl⟩
    · exact ⟨1#8, rfl, by decide⟩
    · exact ⟨0#8, rfl, by decide⟩
    · refine ⟨b ^^^ 1#8, rfl, ?_⟩
      rw [BitVec.toNat_xor]
      exact Nat.xor_lt_two_pow (n := 1) small (by decide)
  · obtain ⟨b, rfl, small⟩ := fits
    obtain ⟨c, rfl, below⟩ := carries
    obtain ⟨set, clear, toggle⟩ := modes_fit small below
    rcases modes with ⟨-, rfl⟩ | ⟨-, rfl⟩ | ⟨-, rfl⟩
    · exact ⟨_, rfl, set⟩
    · exact ⟨_, rfl, clear⟩
    · exact ⟨_, rfl, toggle⟩

/-- Fields hold values of given fields' forms. -/
def FieldsFit (fs : List FieldBytes) (bs : List (List Byte)) : Prop := List.Forall₂ (fun f b => Fits f.1 b) fs bs

/-- After an accepted write every field holds a value of its form. -/
theorem written_fits {mode : Nat} : ∀ {fs : List FieldBytes} {m v : List Byte} {bs : List (List Byte)},
    (∀ f ∈ fs, Fits f.1 f.2) → Written mode fs m v bs → FieldsFit fs bs
  | [], [], _, _, _, h => by
    rw [h.2]
    exact .nil
  | (f, old) :: fs, m :: ms, v, b :: bs, fit, h => by
    have first : Fits f old := fit _ List.mem_cons_self
    have others : ∀ g ∈ fs, Fits g.1 g.2 := fun g mem => fit g (List.mem_cons_of_mem _ mem)
    rcases h with ⟨-, rfl, rest⟩ | ⟨-, carried, left, -, carries, becomes, rest⟩
    · exact .cons first (written_fits others rest)
    · exact .cons (fieldBecomes_fits first carries becomes) (written_fits others rest)

end Sys2Proof.Machine
end

section
/-!
Rules of the table entries: the fields of an entry hold values of their forms,
    field bytes of these forms make an entry,
and the entry reads back those bytes (R194, R195).
-/

namespace Sys2Proof.Machine

/-! The fields of an entry hold values of their forms. -/

theorem StationCfg.fields_fit (c : StationCfg) : ∀ f ∈ c.fields, Fits f.1 f.2 := by
  have role : c.role.code < 4 := by cases c.role <;> decide
  have axis : ∀ n ∈ c.axis.map axisPos, n < 5 := by
    intro n mem
    obtain ⟨x, -, rfl⟩ := Option.map_eq_some_iff.mp mem
    cases x <;> decide
  simp only [fields, List.forall_mem_cons, List.not_mem_nil, false_implies, implies_true, and_true]
  exact ⟨numField_fits .., nameField_fits role (by decide), optField_fits axis (by decide), numField_fits ..⟩

theorem ModeCfg.fields_fit (c : ModeCfg) : ∀ f ∈ c.fields, Fits f.1 f.2 := by
  simp only [fields, List.forall_mem_cons, numField_fits, List.not_mem_nil, false_implies, implies_true, and_true]

theorem BrakeCfg.fields_fit (c : BrakeCfg) : ∀ f ∈ c.fields, Fits f.1 f.2 := by
  simp only [fields, List.forall_mem_cons, numField_fits, List.not_mem_nil, false_implies, implies_true, and_true]

theorem matrixFields_fit (m : PerChan (PerChan (Option Nat))) : ∀ f ∈ matrixFields m, Fits f.1 f.2 := by
  intro f mem
  obtain ⟨p, -, rfl⟩ := List.mem_map.mp mem
  exact numField_fits ..

theorem DragCfg.fields_fit (c : DragCfg) : ∀ f ∈ c.fields, Fits f.1 f.2 := by
  simp only [fields, List.forall_mem_cons, numField_fits, List.not_mem_nil, false_implies, implies_true, and_true]

theorem EnvRow.fields_fit (c : EnvRow) : ∀ f ∈ c.fields, Fits f.1 f.2 := by
  simp only [fields, List.forall_mem_cons, numField_fits, List.not_mem_nil, false_implies, implies_true, and_true]

theorem ZoneCfg.fields_fit (c : ZoneCfg) : ∀ f ∈ c.fields, Fits f.1 f.2 := by
  have kind : Fits (nameField 3 c.kind.code).1 (nameField 3 c.kind.code).2 :=
    nameField_fits (by cases c.kind <;> decide) (by decide)
  simp only [fields, List.forall_mem_cons, numField_fits, kind, List.not_mem_nil, false_implies, implies_true,
      and_true]

theorem WalkCfg.fields_fit (c : WalkCfg) : ∀ f ∈ c.fields, Fits f.1 f.2 := by
  simp only [fields, List.forall_mem_cons, numField_fits, intField_fits, List.not_mem_nil, false_implies,
      implies_true,
    and_true]

theorem SectorCfg.fields_fit (c : SectorCfg) : ∀ f ∈ c.fields, Fits f.1 f.2 := by
  have phase : Fits (nameField 6 c.phase.code).1 (nameField 6 c.phase.code).2 :=
    nameField_fits (by cases c.phase <;> decide) (by decide)
  simp only [fields, List.forall_mem_cons, numField_fits, phase, List.not_mem_nil, false_implies, implies_true,
      and_true]

theorem PointCfg.fields_fit (c : PointCfg) : ∀ f ∈ c.fields, Fits f.1 f.2 := by
  have dir : Fits (nameField 2 c.dir.code).1 (nameField 2 c.dir.code).2 :=
    nameField_fits (by cases c.dir <;> decide) (by decide)
  have cls : Fits (nameField 3 c.cls.code).1 (nameField 3 c.cls.code).2 :=
    nameField_fits (by cases c.cls <;> decide) (by decide)
  have mask : Fits .modes [byte c.mask.toNat] := by
    refine ⟨_, rfl, ?_⟩
    have small := c.mask.isLt
    show c.mask.toNat % 256 < 128
    omega
  have action : Fits (optField 2 (c.action.map TripAction.code)).1 (optField 2 (c.action.map TripAction.code)).2 := by
    refine optField_fits (fun n mem => ?_) (by decide)
    obtain ⟨x, -, rfl⟩ := Option.map_eq_some_iff.mp mem
    cases x <;> decide
  simp only [fields, List.forall_mem_cons, numField_fits, intField_fits, flagField_fits, dir, cls, mask, action,
    List.not_mem_nil, false_implies, implies_true, and_true]

theorem AnalogCfg.fields_fit (c : AnalogCfg) : ∀ f ∈ c.fields, Fits f.1 f.2 := by
  have ref : Fits (nameField 2 c.ref.code).1 (nameField 2 c.ref.code).2 :=
    nameField_fits (by cases c.ref <;> decide) (by decide)
  have dir : Fits (nameField 2 c.dir.code).1 (nameField 2 c.dir.code).2 :=
    nameField_fits (by cases c.dir <;> decide) (by decide)
  have action : Fits (nameField 2 c.action.code).1 (nameField 2 c.action.code).2 :=
    nameField_fits (by cases c.action <;> decide) (by decide)
  have role : Fits (nameField 2 c.role.code).1 (nameField 2 c.role.code).2 :=
    nameField_fits (by cases c.role <;> decide) (by decide)
  simp only [fields, List.forall_mem_cons, numField_fits, intField_fits, flagField_fits, ref, dir, action, role,
    List.not_mem_nil, false_implies, implies_true, and_true]

theorem AttrCfg.fields_fit (c : AttrCfg) : ∀ f ∈ c.fields, Fits f.1 f.2 := by
  have cls : Fits (nameField 2 c.cls.code).1 (nameField 2 c.cls.code).2 :=
    nameField_fits (by cases c.cls <;> decide) (by decide)
  simp only [fields, List.forall_mem_cons, numField_fits, cls, List.not_mem_nil, false_implies, implies_true,
      and_true]

theorem TestCfg.fields_fit (c : TestCfg) : ∀ f ∈ c.fields, Fits f.1 f.2 := by
  have policy : Fits (nameField 2 c.policy.code).1 (nameField 2 c.policy.code).2 :=
    nameField_fits (by cases c.policy <;> decide) (by decide)
  have segments : Fits .chans (listBytes (c.segments.map fun x => [byte (chanPos x)])) := by
    refine ⟨c.segments.map fun x => byte (chanPos x), ?_, fun b mem => ?_⟩
    · unfold listBytes
      rw [List.length_map, List.length_map]
      refine congrArg (_ :: ·) ?_
      induction c.segments with
      | nil => rfl
      | cons x l ih => exact congrArg (byte (chanPos x) :: ·) ih
    · obtain ⟨x, -, rfl⟩ := List.mem_map.mp mem
      cases x <;> decide
  simp only [fields, List.forall_mem_cons, numField_fits, policy, segments, List.not_mem_nil, false_implies,
      implies_true,
    and_true]

theorem OptionsCfg.fields_fit (c : OptionsCfg) : ∀ f ∈ c.fields, Fits f.1 f.2 := by
  simp only [fields, List.forall_mem_cons, numField_fits, flagField_fits, List.not_mem_nil, false_implies,
      implies_true,
    and_true]

/-- The fields of every entry of every table hold values of their forms. -/
theorem entryFields_fit {a : TableSet} {t e : Nat} {fs : List FieldBytes} (h : entryFields a t e = some fs) :
    ∀ f ∈ fs, Fits f.1 f.2 := by
  have of_map {α : Type} {o : Option α} {g : α → List FieldBytes} (fit : ∀ c, ∀ f ∈ g c, Fits f.1 f.2)
      (h : o.map g = some fs) : ∀ f ∈ fs, Fits f.1 f.2 := by
    obtain ⟨c, -, rfl⟩ := Option.map_eq_some_iff.mp h
    exact fit c
  have of_head {l : List FieldBytes} (fit : ∀ f ∈ l, Fits f.1 f.2) {r : Option (List FieldBytes)}
      (rest : r = some fs → ∀ f ∈ fs, Fits f.1 f.2) (h : (if e = 0 then some l else r) = some fs) :
      ∀ f ∈ fs, Fits f.1 f.2 := by
    split at h
    · rw [← Option.some.inj h]
      exact fit
    · exact rest h
  have absent : (none : Option (List FieldBytes)) = some fs → ∀ f ∈ fs, Fits f.1 f.2 := fun k => nomatch k
  unfold entryFields at h
  split at h
  · exact of_map StationCfg.fields_fit h
  · exact of_head a.mode.fields_fit absent h
  · exact of_head (matrixFields_fit a.matrix) (of_map fun c => (a.brake.get c).fields_fit) h
  · exact of_head a.drag.fields_fit (of_map EnvRow.fields_fit) h
  · exact of_map ZoneCfg.fields_fit h
  · exact of_head a.walk.fields_fit (of_map SectorCfg.fields_fit) h
  · exact of_map PointCfg.fields_fit h
  · exact of_map AnalogCfg.fields_fit h
  · exact of_map AttrCfg.fields_fit h
  · exact of_head a.test.fields_fit absent h
  · exact of_head a.options.fields_fit absent h
  · exact nomatch h

/-! Field bytes of these forms make an entry that reads back those bytes. -/

section Back

variable {bs : List (List Byte)}

theorem num_back {n v : Nat} {b : List Byte} (h : Fits (numField n v).1 b) : encNat n (decNat b) = b :=
  encNat_decNat h

theorem int_back {n : Nat} {v : Int} {b : List Byte} (h : Fits (intField n v).1 b) : encInt n (decInt b) = b :=
  encInt_decInt h

theorem stationOf_back {c₀ : StationCfg} (h : FieldsFit c₀.fields bs) :
    ∃ c, stationOf bs = some c ∧ c.fields.map Prod.snd = bs := by
  unfold FieldsFit StationCfg.fields at h
  simp only [List.forall₂_cons_left_iff, List.forall₂_nil_left_iff] at h
  obtain ⟨n, _, fn, ⟨r, _, fr, ⟨a, _, fa, ⟨t, _, ft, rfl, rfl⟩, rfl⟩, rfl⟩, rfl⟩ := h
  obtain ⟨role, roleAt, roleBytes⟩ := name_back (names := roleNames) (code := Role.code) (by decide) rfl fr
  have aBytes := opt_back (names := allAxes) (code := axisPos) (k := 5) (by decide) rfl fa
  refine ⟨{ number := decNat n, role := role, axis := (optValue a).bind (nameAt allAxes), timeout := decNat t }, by
    unfold stationOf
    dsimp only
    rw [roleAt]
    rfl, ?_⟩
  show [encNat 1 (decNat n), [byte role.code], (optField 5 (((optValue a).bind (nameAt allAxes)).map axisPos)).2,
      encNat 2 (decNat t)] = _
  rw [num_back fn, roleBytes, aBytes, num_back ft]

theorem modeOf_back {c₀ : ModeCfg} (h : FieldsFit c₀.fields bs) :
    ∃ c, modeOf bs = some c ∧ c.fields.map Prod.snd = bs := by
  unfold FieldsFit ModeCfg.fields at h
  simp only [List.forall₂_cons_left_iff, List.forall₂_nil_left_iff] at h
  obtain ⟨p, _, fp, ⟨d, _, fd, ⟨w, _, fw, ⟨h, _, fh, ⟨g, _, fg, ⟨s, _, fs, ⟨l, _, fl, ⟨r, _, fr, ⟨k, _, fk, rfl,
      rfl⟩, rfl⟩, rfl⟩, rfl⟩, rfl⟩, rfl⟩, rfl⟩, rfl⟩, rfl⟩ := h
  refine ⟨{ parkedDwell := decNat p, digDwell := decNat d, walkingDwell := decNat w,
            cap := ⟨decNat h, decNat g, decNat s, decNat l, decNat r⟩, parkCode := decNat k }, rfl, ?_⟩
  show [encNat 2 (decNat p), encNat 2 (decNat d), encNat 2 (decNat w), encNat 2 (decNat h), encNat 2 (decNat g),
      encNat 2 (decNat s), encNat 2 (decNat l), encNat 2 (decNat r), encNat 1 (decNat k)] = _
  rw [num_back fp, num_back fd, num_back fw, num_back fh, num_back fg, num_back fs, num_back fl, num_back fr,
      num_back fk]

theorem brakeOf_back {c₀ : BrakeCfg} (h : FieldsFit c₀.fields bs) :
    ∃ c, brakeOf bs = some c ∧ c.fields.map Prod.snd = bs := by
  unfold FieldsFit BrakeCfg.fields at h
  simp only [List.forall₂_cons_left_iff, List.forall₂_nil_left_iff] at h
  obtain ⟨a, _, fa, ⟨b, _, fb, ⟨c, _, fc, ⟨d, _, fd, ⟨e, _, fe, ⟨f, _, ff, ⟨g, _, fg, ⟨k, _, fk, rfl, rfl⟩, rfl⟩,
      rfl⟩, rfl⟩, rfl⟩, rfl⟩, rfl⟩, rfl⟩ := h
  refine ⟨{ minSet := decNat a, minRelease := decNat b, prove := decNat c, releaseConfirm := decNat d,
            setConfirm := decNat e, proving := decNat f, band := decNat g, autoset := decNat k }, rfl, ?_⟩
  show [encNat 2 (decNat a), encNat 2 (decNat b), encNat 2 (decNat c), encNat 2 (decNat d), encNat 2 (decNat e),
      encNat 1 (decNat f), encNat 1 (decNat g), encNat 2 (decNat k)] = _
  rw [num_back fa, num_back fb, num_back fc, num_back fd, num_back fe, num_back ff, num_back fg, num_back fk]

theorem dragOf_back {c₀ : DragCfg} (h : FieldsFit c₀.fields bs) :
    ∃ c, dragOf bs = some c ∧ c.fields.map Prod.snd = bs := by
  unfold FieldsFit DragCfg.fields at h
  simp only [List.forall₂_cons_left_iff, List.forall₂_nil_left_iff] at h
  obtain ⟨a, _, fa, ⟨b, _, fb, ⟨c, _, fc, ⟨d, _, fd, ⟨e, _, fe, rfl, rfl⟩, rfl⟩, rfl⟩, rfl⟩, rfl⟩ := h
  refine ⟨{ rows := decNat a, dragMin := decNat b, dragMax := decNat c, band := decNat d, slow := decNat e }, rfl, ?_⟩
  show [encNat 1 (decNat a), encNat 2 (decNat b), encNat 2 (decNat c), encNat 2 (decNat d), encNat 2 (decNat e)] = _
  rw [num_back fa, num_back fb, num_back fc, num_back fd, num_back fe]

theorem rowOf_back {c₀ : EnvRow} (h : FieldsFit c₀.fields bs) :
    ∃ c, rowOf bs = some c ∧ c.fields.map Prod.snd = bs := by
  unfold FieldsFit EnvRow.fields at h
  simp only [List.forall₂_cons_left_iff, List.forall₂_nil_left_iff] at h
  obtain ⟨a, _, fa, ⟨b, _, fb, ⟨c, _, fc, ⟨d, _, fd, ⟨e, _, fe, rfl, rfl⟩, rfl⟩, rfl⟩, rfl⟩, rfl⟩ := h
  refine ⟨{ dragStart := decNat a, hoistMin := decNat b, hoistMax := decNat c, band := decNat d, slow := decNat e },
      rfl, ?_⟩
  show [encNat 2 (decNat a), encNat 2 (decNat b), encNat 2 (decNat c), encNat 2 (decNat d), encNat 2 (decNat e)] = _
  rw [num_back fa, num_back fb, num_back fc, num_back fd, num_back fe]

theorem zoneOf_back {c₀ : ZoneCfg} (h : FieldsFit c₀.fields bs) :
    ∃ c, zoneOf bs = some c ∧ c.fields.map Prod.snd = bs := by
  unfold FieldsFit ZoneCfg.fields at h
  simp only [List.forall₂_cons_left_iff, List.forall₂_nil_left_iff] at h
  obtain ⟨k, _, fk, ⟨a, _, fa, ⟨b, _, fb, ⟨c, _, fc, ⟨d, _, fd, rfl, rfl⟩, rfl⟩, rfl⟩, rfl⟩, rfl⟩ := h
  obtain ⟨kind, kindAt, kindBytes⟩ := name_back (names := zoneNames) (code := ZoneKind.code) (by decide) rfl fk
  refine ⟨{ kind := kind, start := decNat a, stop := decNat b, slow := decNat c, band := decNat d }, by
    unfold zoneOf
    dsimp only
    rw [kindAt]
    rfl, ?_⟩
  show [[byte kind.code], encNat 2 (decNat a), encNat 2 (decNat b), encNat 2 (decNat c), encNat 2 (decNat d)] = _
  rw [kindBytes, num_back fa, num_back fb, num_back fc, num_back fd]

theorem walkOf_back {c₀ : WalkCfg} (h : FieldsFit c₀.fields bs) :
    ∃ c, walkOf bs = some c ∧ c.fields.map Prod.snd = bs := by
  unfold FieldsFit WalkCfg.fields at h
  simp only [List.forall₂_cons_left_iff, List.forall₂_nil_left_iff] at h
  obtain ⟨a, _, fa, ⟨b, _, fb, ⟨c, _, fc, ⟨d, _, fd, ⟨e, _, fe, ⟨f, _, ff, ⟨g, _, fg, ⟨i, _, fi, ⟨j, _, fj, ⟨k, _,
      fk, ⟨l, _, fl, ⟨m, _, fm, ⟨n, _, fn, ⟨o, _, fo, ⟨p, _, fp, ⟨q, _, fq, ⟨r, _, fr, rfl, rfl⟩, rfl⟩, rfl⟩, rfl⟩,
      rfl⟩, rfl⟩, rfl⟩, rfl⟩, rfl⟩, rfl⟩, rfl⟩, rfl⟩, rfl⟩, rfl⟩, rfl⟩, rfl⟩, rfl⟩ := h
  refine ⟨{ sectors := decNat a, trimLimit := decNat b, trimPercent := decNat c, tripLimit := decNat d,
            reversal := decNat e, stride := decNat f, heading := decNat g, headingTol := decNat i, grounded := decNat j,
            slack := decNat k, boomChannel := decNat l, boomMin := decInt m, boomMax := decInt n, inclChannel := decNat o,
            inclLimit := decNat p, prepConfirm := decNat q, prepTimeout := decNat r }, rfl, ?_⟩
  show [encNat 1 (decNat a), encNat 2 (decNat b), encNat 1 (decNat c), encNat 2 (decNat d), encNat 2 (decNat e),
      encNat 1 (decNat f), encNat 2 (decNat g), encNat 2 (decNat i), encNat 2 (decNat j), encNat 2 (decNat k),
      encNat 1 (decNat l), encInt 2 (decInt m), encInt 2 (decInt n), encNat 1 (decNat o), encNat 2 (decNat p),
      encNat 2 (decNat q), encNat 3 (decNat r)] = _
  rw [num_back fa, num_back fb, num_back fc, num_back fd, num_back fe, num_back ff, num_back fg, num_back fi,
      num_back fj, num_back fk, num_back fl, int_back fm, int_back fn, num_back fo, num_back fp, num_back fq,
      num_back fr]

theorem sectorOf_back {c₀ : SectorCfg} (h : FieldsFit c₀.fields bs) :
    ∃ c, sectorOf bs = some c ∧ c.fields.map Prod.snd = bs := by
  unfold FieldsFit SectorCfg.fields at h
  simp only [List.forall₂_cons_left_iff, List.forall₂_nil_left_iff] at h
  obtain ⟨a, _, fa, ⟨p, _, fp, ⟨c, _, fc, rfl, rfl⟩, rfl⟩, rfl⟩ := h
  obtain ⟨phase, phaseAt, phaseBytes⟩ := name_back (names := phaseNames) (code := Phase.code) (by decide) rfl fp
  refine ⟨{ start := decNat a, phase := phase, cap := decNat c }, by
    unfold sectorOf
    dsimp only
    rw [phaseAt]
    rfl, ?_⟩
  show [encNat 2 (decNat a), [byte phase.code], encNat 2 (decNat c)] = _
  rw [num_back fa, phaseBytes, num_back fc]

theorem pointOf_back {c₀ : PointCfg} (h : FieldsFit c₀.fields bs) :
    ∃ c, pointOf bs = some c ∧ c.fields.map Prod.snd = bs := by
  unfold FieldsFit PointCfg.fields at h
  simp only [List.forall₂_cons_left_iff, List.forall₂_nil_left_iff] at h
  obtain ⟨e, _, fe, ⟨s, _, fs, ⟨d, _, fd, ⟨a, _, fa, ⟨b, _, fb, ⟨o, _, fo, ⟨k, _, fk, ⟨l, _, fl, ⟨m, _, fm, ⟨t, _,
      ft, rfl, rfl⟩, rfl⟩, rfl⟩, rfl⟩, rfl⟩, rfl⟩, rfl⟩, rfl⟩, rfl⟩, rfl⟩ := h
  obtain ⟨dir, dirAt, dirBytes⟩ := name_back (names := dirNames) (code := Dir.code) (by decide) rfl fd
  obtain ⟨cls, clsAt, clsBytes⟩ := name_back (names := classNames) (code := PClass.code) (by decide) rfl fk
  have tBytes := opt_back (names := actionNames) (code := TripAction.code) (k := 2) (by decide) rfl ft
  refine ⟨{ enabled := flagValue e, source := decNat s, dir := dir, setThr := decInt a, clearThr := decInt b,
            onDelay := decNat o, cls := cls, latching := flagValue l, mask := (head m).extractLsb' 0 7,
            action := (optValue t).bind (nameAt actionNames) }, by
    unfold pointOf
    dsimp only
    rw [dirAt, clsAt]
    rfl, ?_⟩
  show [[flagByte (flagValue e)], encNat 1 (decNat s), [byte dir.code], encInt 5 (decInt a), encInt 5 (decInt b),
      encNat 2 (decNat o), [byte cls.code], [flagByte (flagValue l)], [byte ((head m).extractLsb' 0 7).toNat],
      (optField 2 (((optValue t).bind (nameAt actionNames)).map TripAction.code)).2] = _
  rw [flag_back fe, num_back fs, dirBytes, int_back fa, int_back fb, num_back fo, clsBytes, flag_back fl,
      modes_back fm, tBytes]

theorem analogOf_back {c₀ : AnalogCfg} (h : FieldsFit c₀.fields bs) :
    ∃ c, analogOf bs = some c ∧ c.fields.map Prod.snd = bs := by
  unfold FieldsFit AnalogCfg.fields at h
  simp only [List.forall₂_cons_left_iff, List.forall₂_nil_left_iff] at h
  obtain ⟨r, _, fr, ⟨g, _, fg, ⟨o, _, fo, ⟨e, _, fe, ⟨d, _, fd, ⟨l, _, fl, ⟨p, _, fp, ⟨a, _, fa, ⟨k, _, fk, ⟨x, _,
      fx, ⟨y, _, fy, rfl, rfl⟩, rfl⟩, rfl⟩, rfl⟩, rfl⟩, rfl⟩, rfl⟩, rfl⟩, rfl⟩, rfl⟩, rfl⟩ := h
  obtain ⟨ref, refAt, refBytes⟩ := name_back (names := refNames) (code := RefSel.code) (by decide) rfl fr
  obtain ⟨dir, dirAt, dirBytes⟩ := name_back (names := dirNames) (code := Dir.code) (by decide) rfl fd
  obtain ⟨action, actionAt, actionBytes⟩ :=
    name_back (names := actionNames) (code := TripAction.code) (by decide) rfl fa
  obtain ⟨role, roleAt, roleBytes⟩ := name_back (names := fatNames) (code := FatRole.code) (by decide) rfl fk
  refine ⟨{ ref := ref, gain := decInt g, offset := decInt o, limitOn := flagValue e, dir := dir,
            rawLimit := decNat l, persistence := decNat p, action := action, role := role, fatigue := decInt x,
            reset := decInt y }, by
    unfold analogOf
    dsimp only
    rw [refAt, dirAt, actionAt, roleAt]
    rfl, ?_⟩
  show [[byte ref.code], encInt 2 (decInt g), encInt 2 (decInt o), [flagByte (flagValue e)], [byte dir.code],
      encNat 2 (decNat l), encNat 1 (decNat p), [byte action.code], [byte role.code], encInt 3 (decInt x),
      encInt 3 (decInt y)] = _
  rw [refBytes, int_back fg, int_back fo, flag_back fe, dirBytes, num_back fl, num_back fp, actionBytes, roleBytes,
      int_back fx, int_back fy]

theorem attrOf_back {c₀ : AttrCfg} (h : FieldsFit c₀.fields bs) :
    ∃ c, attrOf bs = some c ∧ c.fields.map Prod.snd = bs := by
  unfold FieldsFit AttrCfg.fields at h
  simp only [List.forall₂_cons_left_iff, List.forall₂_nil_left_iff] at h
  obtain ⟨l, _, fl, ⟨t, _, ft, ⟨c, _, fc, rfl, rfl⟩, rfl⟩, rfl⟩ := h
  obtain ⟨cls, clsAt, clsBytes⟩ := name_back (names := attrClassNames) (code := AttrClass.code) (by decide) rfl fc
  refine ⟨{ life := decNat l, threshold := decNat t, cls := cls }, by
    unfold attrOf
    dsimp only
    rw [clsAt]
    rfl, ?_⟩
  show [encNat 6 (decNat l), encNat 1 (decNat t), [byte cls.code]] = _
  rw [num_back fl, num_back ft, clsBytes]

theorem testOf_back {c₀ : TestCfg} (h : FieldsFit c₀.fields bs) :
    ∃ c, testOf bs = some c ∧ c.fields.map Prod.snd = bs := by
  unfold FieldsFit TestCfg.fields at h
  simp only [List.forall₂_cons_left_iff, List.forall₂_nil_left_iff] at h
  obtain ⟨l, _, fl, ⟨t, _, ft, ⟨k, _, fk, ⟨a, _, fa, ⟨b, _, fb, ⟨c, _, fc, ⟨d, _, fd, ⟨p, _, fp, rfl, rfl⟩, rfl⟩,
      rfl⟩, rfl⟩, rfl⟩, rfl⟩, rfl⟩, rfl⟩ := h
  obtain ⟨policy, policyAt, policyBytes⟩ := name_back (names := policyNames) (code := Policy.code) (by decide) rfl fp
  refine ⟨{ segments := (l.drop 1).filterMap (nameAt allChans), torque := decNat t, hold := decNat k,
            slip := ⟨decNat a, decNat b, decNat c, decNat d⟩, policy := policy }, by
    unfold testOf
    dsimp only
    rw [policyAt]
    rfl, ?_⟩
  show [listBytes (((l.drop 1).filterMap (nameAt allChans)).map fun x => [byte (chanPos x)]), encNat 1 (decNat t),
      encNat 2 (decNat k), encNat 2 (decNat a), encNat 2 (decNat b), encNat 2 (decNat c), encNat 2 (decNat d),
      [byte policy.code]] = _
  rw [chans_back fl, num_back ft, num_back fk, num_back fa, num_back fb, num_back fc, num_back fd, policyBytes]

theorem optionsOf_back {c₀ : OptionsCfg} (h : FieldsFit c₀.fields bs) :
    ∃ c, optionsOf bs = some c ∧ c.fields.map Prod.snd = bs := by
  unfold FieldsFit OptionsCfg.fields at h
  simp only [List.forall₂_cons_left_iff, List.forall₂_nil_left_iff] at h
  obtain ⟨k, _, fk, ⟨g, _, fg, ⟨l, _, fl, ⟨a, _, fa, ⟨b, _, fb, ⟨c, _, fc, rfl, rfl⟩, rfl⟩, rfl⟩, rfl⟩, rfl⟩,
      rfl⟩ := h
  refine ⟨{ tripHold := flagValue k, generalCall := flagValue g, life := decNat l, tightLevel := decNat a,
            onset := decNat b, tightTorque := decNat c }, rfl, ?_⟩
  show [[flagByte (flagValue k)], [flagByte (flagValue g)], encNat 1 (decNat l), encNat 2 (decNat a),
      encNat 2 (decNat b), encNat 2 (decNat c)] = _
  rw [flag_back fk, flag_back fg, num_back fl, num_back fa, num_back fb, num_back fc]

end Back

end Sys2Proof.Machine
end

section
/-!
Lemmas for the obligation on staging edits: an entry written reads back its bytes, and every other entry is as before
(R194, R195).
-/

namespace Sys2Proof.Machine

/-! The brake matrix. -/

theorem matrixOf_back {m : PerChan (PerChan (Option Nat))} {bs : List (List Byte)} (h : FieldsFit (matrixFields m) bs) :
    ∃ n, matrixOf m bs = some n ∧ (matrixFields n).map Prod.snd = bs := by
  unfold FieldsFit matrixFields matrixPairs at h
  simp only [List.map_cons, List.map_nil, List.forall₂_cons_left_iff, List.forall₂_nil_left_iff] at h
  obtain ⟨a, _, fa, ⟨b, _, fb, ⟨c, _, fc, ⟨d, _, fd, ⟨e, _, fe, ⟨f, _, ff, ⟨g, _, fg, ⟨i, _, fi, ⟨j, _, fj, ⟨k, _,
      fk, ⟨l, _, fl, ⟨o, _, fo, rfl, rfl⟩, rfl⟩, rfl⟩, rfl⟩, rfl⟩, rfl⟩, rfl⟩, rfl⟩, rfl⟩, rfl⟩, rfl⟩, rfl⟩ := h
  refine ⟨_, if_pos rfl, ?_⟩
  show [(matrixField (matrixEntryOf a)).2, (matrixField (matrixEntryOf b)).2, (matrixField (matrixEntryOf c)).2,
    (matrixField (matrixEntryOf d)).2, (matrixField (matrixEntryOf e)).2, (matrixField (matrixEntryOf f)).2,
    (matrixField (matrixEntryOf g)).2, (matrixField (matrixEntryOf i)).2, (matrixField (matrixEntryOf j)).2,
    (matrixField (matrixEntryOf k)).2, (matrixField (matrixEntryOf l)).2, (matrixField (matrixEntryOf o)).2] = _
  rw [matrix_back fa, matrix_back fb, matrix_back fc, matrix_back fd, matrix_back fe, matrix_back ff, matrix_back fg,
    matrix_back fi, matrix_back fj, matrix_back fk, matrix_back fl, matrix_back fo]

/-! The entries of the other tables. -/

theorem entryFields_stations (a : TableSet) (v : Vector StationCfg 16) {t : Nat} (other : t ≠ 1) (e : Nat) :
    entryFields { a with stations := v } t e = entryFields a t e := by
  unfold entryFields
  split
  case h_1 => exact absurd rfl other
  all_goals rfl

theorem entryFields_mode (a : TableSet) (v : ModeCfg) {t : Nat} (other : t ≠ 2) (e : Nat) :
    entryFields { a with mode := v } t e = entryFields a t e := by
  unfold entryFields
  split
  case h_2 => exact absurd rfl other
  all_goals rfl

theorem entryFields_brakes (a : TableSet) (v : PerChan (PerChan (Option Nat))) (w : PerChan BrakeCfg) {t : Nat} (other : t ≠ 3) (e : Nat) :
    entryFields { a with matrix := v, brake := w } t e = entryFields a t e := by
  unfold entryFields
  split
  case h_3 => exact absurd rfl other
  all_goals rfl

theorem entryFields_envelope (a : TableSet) (v : DragCfg) (w : Vector EnvRow 32) {t : Nat} (other : t ≠ 4) (e : Nat) :
    entryFields { a with drag := v, rows := w } t e = entryFields a t e := by
  unfold entryFields
  split
  case h_4 => exact absurd rfl other
  all_goals rfl

theorem entryFields_zones (a : TableSet) (v : Vector ZoneCfg 8) {t : Nat} (other : t ≠ 5) (e : Nat) :
    entryFields { a with zones := v } t e = entryFields a t e := by
  unfold entryFields
  split
  case h_5 => exact absurd rfl other
  all_goals rfl

theorem entryFields_walk (a : TableSet) (v : WalkCfg) (w : Vector SectorCfg 8) {t : Nat} (other : t ≠ 6) (e : Nat) :
    entryFields { a with walk := v, sectors := w } t e = entryFields a t e := by
  unfold entryFields
  split
  case h_6 => exact absurd rfl other
  all_goals rfl

theorem entryFields_points (a : TableSet) (v : Vector PointCfg 48) {t : Nat} (other : t ≠ 7) (e : Nat) :
    entryFields { a with points := v } t e = entryFields a t e := by
  unfold entryFields
  split
  case h_7 => exact absurd rfl other
  all_goals rfl

theorem entryFields_analog (a : TableSet) (v : Vector AnalogCfg 4) {t : Nat} (other : t ≠ 8) (e : Nat) :
    entryFields { a with analog := v } t e = entryFields a t e := by
  unfold entryFields
  split
  case h_8 => exact absurd rfl other
  all_goals rfl

theorem entryFields_attrs (a : TableSet) (v : Vector AttrCfg 13) {t : Nat} (other : t ≠ 9) (e : Nat) :
    entryFields { a with attrs := v } t e = entryFields a t e := by
  unfold entryFields
  split
  case h_9 => exact absurd rfl other
  all_goals rfl

theorem entryFields_test (a : TableSet) (v : TestCfg) {t : Nat} (other : t ≠ 10) (e : Nat) :
    entryFields { a with test := v } t e = entryFields a t e := by
  unfold entryFields
  split
  case h_10 => exact absurd rfl other
  all_goals rfl

theorem entryFields_options (a : TableSet) (v : OptionsCfg) {t : Nat} (other : t ≠ 11) (e : Nat) :
    entryFields { a with options := v } t e = entryFields a t e := by
  unfold entryFields
  split
  case h_11 => exact absurd rfl other
  all_goals rfl

/-! The entries of a vector, counting from 1. -/

theorem nth1_some {α : Type} {k : Nat} {v : Vector α k} {e : Nat} {c : α} (h : nth1 v e = some c) :
    e ≠ 0 ∧ e - 1 < k ∧ ∀ e', e' ≠ 0 → nth1 v e' = v[e' - 1]? := by
  cases e with
  | zero => exact nomatch h
  | succ n =>
    obtain ⟨inside, -⟩ := Vector.getElem?_eq_some_iff.mp h
    refine ⟨Nat.succ_ne_zero n, inside, fun e' some => ?_⟩
    cases e' with
    | zero => exact absurd rfl some
    | succ m => rfl

theorem nth1_of_ne_zero {α : Type} {k : Nat} (v : Vector α k) {e : Nat} (h : e ≠ 0) : nth1 v e = v[e - 1]? := by
  cases e with
  | zero => exact absurd rfl h
  | succ m => rfl

theorem nth1_set_same {α : Type} {k : Nat} {v : Vector α k} {e : Nat} {c : α} (h : nth1 v e = some c) (d : α) :
    nth1 (v.setIfInBounds (e - 1) d) e = some d := by
  obtain ⟨some, inside, -⟩ := nth1_some h
  rw [nth1_of_ne_zero _ some, Vector.getElem?_setIfInBounds_self_of_lt inside]

theorem nth1_set_other {α : Type} {k : Nat} (v : Vector α k) {e e' : Nat} (some : e ≠ 0) (other : e' ≠ e) (d : α) :
    nth1 (v.setIfInBounds (e - 1) d) e' = nth1 v e' := by
  cases e' with
  | zero => rfl
  | succ m => exact Vector.getElem?_setIfInBounds_ne (by omega)

/-! An entry written. -/

/-- The bytes written into an entry read back, and every other entry is as before. -/
def EntryBack (a : TableSet) (t e : Nat) (bs : List (List Byte)) : Prop :=
  ∃ n, setEntry a t e bs = some n
    ∧ (entryFields n t e).map (fun gs => gs.map Prod.snd) = some bs
    ∧ ∀ t' e', (t' ≠ t ∨ e' ≠ e) → entryFields n t' e' = entryFields a t' e'

section Back

variable {a n : TableSet} {t e : Nat} {bs : List (List Byte)} {α : Type} {fields : α → List FieldBytes} {c : α}

theorem EntryBack.of_set (set : setEntry a t e bs = some n) (bytes : (fields c).map Prod.snd = bs)
    (read : entryFields n t e = some (fields c)) (entries : ∀ e', e' ≠ e → entryFields n t e' = entryFields a t e')
    (tables : ∀ t', t' ≠ t → ∀ e', entryFields n t' e' = entryFields a t' e') : EntryBack a t e bs := by
  refine ⟨n, set, ?_, fun t' e' other => ?_⟩
  · rw [read]
    exact congrArg some bytes
  · by_cases same : t' = t
    · rw [same]
      exact entries e' (other.resolve_left fun k => k same)
    · exact tables t' same e'

/-- An entry of a table whose entries, but for 0, are the members of a vector. -/
theorem EntryBack.of_vector {k : Nat} {v : Vector α k} {put : Vector α k → TableSet} {d : α} (found : nth1 v e = some d)
    (bytes : (fields c).map Prod.snd = bs) (set : setEntry a t e bs = some (put (v.setIfInBounds (e - 1) c)))
    (read : ∀ w e', e' ≠ 0 → entryFields (put w) t e' = (nth1 w e').map fields)
    (zero : ∀ w, entryFields (put w) t 0 = entryFields a t 0) (whole : put v = a)
    (tables : ∀ w t', t' ≠ t → ∀ e', entryFields (put w) t' e' = entryFields a t' e') : EntryBack a t e bs := by
  obtain ⟨some, -⟩ := nth1_some found
  refine .of_set set bytes ?_ (fun e' other => ?_) (tables _)
  · rw [read _ _ some, nth1_set_same found]
    rfl
  · by_cases head : e' = 0
    · rw [head]
      exact zero _
    · rw [read _ _ head, nth1_set_other v some other, ← read _ _ head, whole]

end Back

/-- Different entries of the brake table stand for different channels. -/
theorem chanOfEntry_inj {e e' : Nat} {x : Chan} (h : chanOfEntry e = some x) (h' : chanOfEntry e' = some x) : e = e' := by
  have at_ {n : Nat} (k : chanOfEntry n = some x) : n = chanPos x + 1 := by
    unfold chanOfEntry at k
    split at k <;> cases k <;> rfl
  rw [at_ h, at_ h']

section Tables

variable {a : TableSet} {e : Nat} {bs : List (List Byte)} {fs : List FieldBytes}

theorem stations_back (h : entryFields a 1 e = some fs) (fit : FieldsFit fs bs) : EntryBack a 1 e bs := by
  obtain ⟨d, found, rfl⟩ := Option.map_eq_some_iff.mp h
  obtain ⟨c, made, bytes⟩ := stationOf_back fit
  exact .of_vector (put := fun w => { a with stations := w }) found bytes
    (by show (stationOf bs).map _ = _; rw [made]; rfl) (fun _ _ _ => rfl) (fun _ => rfl) rfl
    fun w _ other e' => entryFields_stations a w other e'

theorem mode_back (h : entryFields a 2 e = some fs) (fit : FieldsFit fs bs) : EntryBack a 2 e bs := by
  obtain ⟨rfl, same⟩ := Option.ite_none_right_eq_some.mp h
  obtain ⟨c, made, bytes⟩ := modeOf_back (Option.some.inj same ▸ fit)
  exact .of_set (n := { a with mode := c }) (by show (modeOf bs).map _ = _; rw [made]; rfl) bytes rfl
    (fun e' other => (if_neg other).trans (if_neg other).symm) fun _ other e' => entryFields_mode a c other e'

theorem brakes_back (h : entryFields a 3 e = some fs) (fit : FieldsFit fs bs) : EntryBack a 3 e bs := by
  by_cases head : e = 0
  · subst head
    obtain ⟨m, made, bytes⟩ := matrixOf_back (Option.some.inj h ▸ fit)
    exact .of_set (n := { a with matrix := m }) (by show (matrixOf a.matrix bs).map _ = _; rw [made]; rfl) bytes rfl
      (fun e' other => (if_neg other).trans (if_neg other).symm) fun _ other e' => entryFields_brakes a m a.brake other e'
  · have entry := (if_neg head).symm.trans h
    obtain ⟨x, chan, rfl⟩ := Option.map_eq_some_iff.mp entry
    obtain ⟨c, made, bytes⟩ := brakeOf_back fit
    refine .of_set (n := { a with brake := a.brake.set x c }) (fields := BrakeCfg.fields) (c := c) ?_ bytes ?_
      (fun e' other => ?_) fun _ other e' => entryFields_brakes a a.matrix _ other e'
    · show (if e = 0 then _ else (chanOfEntry e).bind fun x => (brakeOf bs).map fun c => _) = _
      rw [if_neg head, chan, made]
      rfl
    · show (if e = 0 then _ else (chanOfEntry e).map fun c' => ((a.brake.set x c).get c').fields) = _
      rw [if_neg head, chan]
      exact congrArg (fun c => some (BrakeCfg.fields c)) (PerChan.get_set_same ..)
    · show (if e' = 0 then _ else (chanOfEntry e').map fun c' => ((a.brake.set x c).get c').fields)
        = (if e' = 0 then _ else (chanOfEntry e').map fun c' => (a.brake.get c').fields)
      split
      · rfl
      · cases at_ : chanOfEntry e' with
        | none => rfl
        | some y =>
          have differ : x ≠ y := fun same => other (chanOfEntry_inj at_ (same ▸ chan))
          exact congrArg (fun c => some (BrakeCfg.fields c)) (PerChan.get_set_ne _ _ differ)

theorem envelope_back (h : entryFields a 4 e = some fs) (fit : FieldsFit fs bs) : EntryBack a 4 e bs := by
  by_cases head : e = 0
  · subst head
    obtain ⟨c, made, bytes⟩ := dragOf_back (Option.some.inj h ▸ fit)
    exact .of_set (n := { a with drag := c }) (by show (dragOf bs).map _ = _; rw [made]; rfl) bytes rfl
      (fun e' other => (if_neg other).trans (if_neg other).symm) fun _ other e' => entryFields_envelope a c a.rows other e'
  · have entry := (if_neg head).symm.trans h
    obtain ⟨d, found, rfl⟩ := Option.map_eq_some_iff.mp entry
    obtain ⟨c, made, bytes⟩ := rowOf_back fit
    refine .of_vector (put := fun w => { a with rows := w }) found bytes ?_ (fun _ _ some => if_neg some)
      (fun _ => rfl) rfl fun w _ other e' => entryFields_envelope a a.drag w other e'
    show (if e = 0 then _ else (rowOf bs).map _) = _
    rw [if_neg head, made]
    rfl

theorem zones_back (h : entryFields a 5 e = some fs) (fit : FieldsFit fs bs) : EntryBack a 5 e bs := by
  obtain ⟨d, found, rfl⟩ := Option.map_eq_some_iff.mp h
  obtain ⟨c, made, bytes⟩ := zoneOf_back fit
  exact .of_vector (put := fun w => { a with zones := w }) found bytes
    (by show (zoneOf bs).map _ = _; rw [made]; rfl) (fun _ _ _ => rfl) (fun _ => rfl) rfl
    fun w _ other e' => entryFields_zones a w other e'

theorem walk_back (h : entryFields a 6 e = some fs) (fit : FieldsFit fs bs) : EntryBack a 6 e bs := by
  by_cases head : e = 0
  · subst head
    obtain ⟨c, made, bytes⟩ := walkOf_back (Option.some.inj h ▸ fit)
    exact .of_set (n := { a with walk := c }) (by show (walkOf bs).map _ = _; rw [made]; rfl) bytes rfl
      (fun e' other => (if_neg other).trans (if_neg other).symm) fun _ other e' => entryFields_walk a c a.sectors other e'
  · have entry := (if_neg head).symm.trans h
    obtain ⟨d, found, rfl⟩ := Option.map_eq_some_iff.mp entry
    obtain ⟨c, made, bytes⟩ := sectorOf_back fit
    refine .of_vector (put := fun w => { a with sectors := w }) found bytes ?_ (fun _ _ some => if_neg some)
      (fun _ => rfl) rfl fun w _ other e' => entryFields_walk a a.walk w other e'
    show (if e = 0 then _ else (sectorOf bs).map _) = _
    rw [if_neg head, made]
    rfl

theorem points_back (h : entryFields a 7 e = some fs) (fit : FieldsFit fs bs) : EntryBack a 7 e bs := by
  obtain ⟨d, found, rfl⟩ := Option.map_eq_some_iff.mp h
  obtain ⟨c, made, bytes⟩ := pointOf_back fit
  exact .of_vector (put := fun w => { a with points := w }) found bytes
    (by show (pointOf bs).map _ = _; rw [made]; rfl) (fun _ _ _ => rfl) (fun _ => rfl) rfl
    fun w _ other e' => entryFields_points a w other e'

theorem analog_back (h : entryFields a 8 e = some fs) (fit : FieldsFit fs bs) : EntryBack a 8 e bs := by
  obtain ⟨d, found, rfl⟩ := Option.map_eq_some_iff.mp h
  obtain ⟨inside, -⟩ := Vector.getElem?_eq_some_iff.mp found
  obtain ⟨c, made, bytes⟩ := analogOf_back fit
  refine .of_set (n := { a with analog := a.analog.setIfInBounds e c }) (fields := AnalogCfg.fields) (c := c)
    (by show (analogOf bs).map _ = _; rw [made]; rfl) bytes ?_ (fun e' other => ?_)
    fun _ other e' => entryFields_analog a _ other e'
  · show ((a.analog.setIfInBounds e c)[e]?).map AnalogCfg.fields = _
    rw [Vector.getElem?_setIfInBounds_self_of_lt inside]
    rfl
  · show ((a.analog.setIfInBounds e c)[e']?).map AnalogCfg.fields = _
    rw [Vector.getElem?_setIfInBounds_ne other.symm]
    rfl

theorem attrs_back (h : entryFields a 9 e = some fs) (fit : FieldsFit fs bs) : EntryBack a 9 e bs := by
  obtain ⟨d, found, rfl⟩ := Option.map_eq_some_iff.mp h
  obtain ⟨c, made, bytes⟩ := attrOf_back fit
  exact .of_vector (put := fun w => { a with attrs := w }) found bytes
    (by show (attrOf bs).map _ = _; rw [made]; rfl) (fun _ _ _ => rfl) (fun _ => rfl) rfl
    fun w _ other e' => entryFields_attrs a w other e'

theorem test_back (h : entryFields a 10 e = some fs) (fit : FieldsFit fs bs) : EntryBack a 10 e bs := by
  obtain ⟨rfl, same⟩ := Option.ite_none_right_eq_some.mp h
  obtain ⟨c, made, bytes⟩ := testOf_back (Option.some.inj same ▸ fit)
  exact .of_set (n := { a with test := c }) (by show (testOf bs).map _ = _; rw [made]; rfl) bytes rfl
    (fun e' other => (if_neg other).trans (if_neg other).symm) fun _ other e' => entryFields_test a c other e'

theorem options_back (h : entryFields a 11 e = some fs) (fit : FieldsFit fs bs) : EntryBack a 11 e bs := by
  obtain ⟨rfl, same⟩ := Option.ite_none_right_eq_some.mp h
  obtain ⟨c, made, bytes⟩ := optionsOf_back (Option.some.inj same ▸ fit)
  exact .of_set (n := { a with options := c }) (by show (optionsOf bs).map _ = _; rw [made]; rfl) bytes rfl
    (fun e' other => (if_neg other).trans (if_neg other).symm) fun _ other e' => entryFields_options a c other e'

/-- The bytes written into an entry of a table read back, and every other entry is as before (R194, R195). -/
theorem setEntry_back {t : Nat} (h : entryFields a t e = some fs) (fit : FieldsFit fs bs) : EntryBack a t e bs := by
  have read := h
  unfold entryFields at read
  split at read
  · exact stations_back h fit
  · exact mode_back h fit
  · exact brakes_back h fit
  · exact envelope_back h fit
  · exact zones_back h fit
  · exact walk_back h fit
  · exact points_back h fit
  · exact analog_back h fit
  · exact attrs_back h fit
  · exact test_back h fit
  · exact options_back h fit
  · exact nomatch read

end Tables

end Sys2Proof.Machine
end

section
/-! Staging edits. -/

namespace Sys2Proof.Proofs

open Sys2Proof.Machine

/-- A write is accepted exactly when its mode and values fit the entry's fields (R195). -/
theorem writeFields_iff (fs : List FieldBytes) (m v : List Byte) (w : Byte) (bs : List (List Byte))
    (marks : m.length = fs.length) :
    writeFields fs (m ++ w :: v) = some bs ↔ w.toNat < 4 ∧ Written w.toNat fs m v bs := by
  unfold writeFields
  dsimp only
  rw [← marks, List.drop_left, List.take_left]
  dsimp only
  by_cases mode : w.toNat < 4
  · rw [if_pos ((nameOk_iff 4 w).mpr mode), applyFields_iff mode]
    exact (and_iff_right mode).symm
  · rw [if_neg fun k => mode ((nameOk_iff 4 w).mp k)]
    exact ⟨(fun k => nomatch k), fun k => absurd k.1 mode⟩

/-- The fields an accepted write leaves hold values of their forms. -/
theorem writeFields_fit {fs : List FieldBytes} {rest : List Byte} {bs : List (List Byte)}
    (fit : ∀ f ∈ fs, Fits f.1 f.2) (h : writeFields fs rest = some bs) : FieldsFit fs bs := by
  unfold writeFields at h
  dsimp only at h
  split at h
  · rename_i mode values _
    by_cases small : nameOk 4 mode = true
    · rw [if_pos small] at h
      exact written_fits fit ((applyFields_iff ((nameOk_iff 4 mode).mp small) ..).mp h)
    · rw [if_neg small] at h
      exact nomatch h
  · exact nomatch h

section Requests

variable {h : Header} {tag : Half} {t e w : Byte} {m v : List Byte} {s u : State} {f : Frame}

theorem exec_writeTable (hf : f = requestFrame h 3#8 tag (t :: e :: (m ++ w :: v))) (taken : s.requests f = true)
    (hu : u = admitted f s) : exec (.writeTable h tag t e m w v) s = .next (finish (answer (s.asker f)
      (writeTable t.toNat e.toNat (m ++ w :: v) u).1 [] false (writeTable t.toNat e.toNat (m ++ w :: v) u).2)) := by
  subst hf
  rw [exec_request (r := .writeTable t.toNat e.toNat (m ++ w :: v)) rfl rfl rfl hu taken]
  unfold carryOut
  rfl

/-- What an answered WRITE_TABLE leaves, by what the write came to. -/
theorem writeTable_answers (hf : f = requestFrame h 3#8 tag (t :: e :: (m ++ w :: v))) (taken : s.requests f = true)
    (hu : u = admitted f s) {st : Status} {x : State}
    (wrote : writeTable t.toNat e.toNat (m ++ w :: v) u = (st, x)) :
    ∃ y, exec (.writeTable h tag t e m w v) s = .next y ∧ Answered (s.asker f) st [] y ∧ OnlyRing x y := by
  obtain ⟨answered, rest⟩ := answered_onlyRing (rq := s.asker f) (st := st) (results := []) (b := false) (w := x) rfl
  exact ⟨_, by rw [exec_writeTable hf taken hu, wrote], answered, rest⟩

theorem exec_copyActive (hf : f = requestFrame h 4#8 tag []) (taken : s.requests f = true) (hu : u = admitted f s) :
    exec (.copyActiveToStaging h tag) s = .next (finish (answer (s.asker f) .ok [] false
      { u with tables := { u.tables with staging := u.tables.active } })) := by
  subst hf
  rw [exec_request (r := .copyActiveToStaging) rfl rfl rfl hu taken]
  unfold carryOut
  rfl

end Requests

/-- Settles O32: a write that fits leaves fields of their forms, which each codec reads back, and the vectors and the
brake records are set at the one entry. -/
theorem stagingEdits : Obligations.StagingEdits := by
  unfold Obligations.StagingEdits
  refine ⟨fun h tag t e w m v s u f fs bs n hf taken hu entry written set => ?_,
    fun h tag t e w m v s u f hf taken hu absent => ?_,
    fun h tag t e w m v s u f fs hf taken hu entry misfit => ?_, fun fs m v w bs => writeFields_iff fs m v w bs,
    fun a t e fs rest bs entry written =>
      setEntry_back entry (writeFields_fit (entryFields_fit entry) written), fun h tag s u f hf taken hu => ?_⟩
  · obtain ⟨x, run, answered, rest⟩ := writeTable_answers hf taken hu (st := .ok)
      (x := { u with tables := { u.tables with staging := n } }) (by
        unfold writeTable
        rw [entry]
        dsimp only
        rw [written]
        show (match setEntry u.tables.staging t.toNat e.toNat bs with | some t => _ | none => _) = _
        rw [set])
    exact ⟨x, run, answered, rest⟩
  · exact writeTable_answers hf taken hu (st := .badIndex) (x := u) (by
      unfold writeTable
      rw [absent])
  · exact writeTable_answers hf taken hu (st := .badRequest) (x := u) (by
      unfold writeTable
      rw [entry]
      dsimp only
      rw [misfit]
      rfl)
  · obtain ⟨answered, rest⟩ := answered_onlyRing (rq := s.asker f) (st := .ok) (results := []) (b := false)
      (w := { u with tables := { u.tables with staging := u.tables.active } }) rfl
    exact ⟨_, exec_copyActive hf taken hu, answered, rest⟩

end Sys2Proof.Proofs
end

section
/-!
What a source handed to the alarm unit, and the trips it may raise, leave of the notices owed and of the brake tester:
no point leaves the owed set, and outside TESTING the tester keeps its record (R141, R157, R189).
-/

namespace Sys2Proof.Machine

/-- No point leaves the owed set, and outside TESTING the tester keeps its record and the mode is not TESTING after. -/
structure EventLeaves (s t : State) : Prop where
  owed : ∀ p : Fin 48, s.owed[p] = true → t.owed[p] = true
  tester : s.mode ≠ .testing → t.mode ≠ .testing ∧ t.tester = s.tester

namespace EventLeaves

theorem of_eq {s t : State} (owed : t.owed = s.owed) (mode : t.mode = s.mode) (tester : t.tester = s.tester) :
    EventLeaves s t :=
  ⟨fun p h => by rw [owed]; exact h, fun h => ⟨by rw [mode]; exact h, tester⟩⟩

theorem refl (s : State) : EventLeaves s s := of_eq rfl rfl rfl

theorem trans {a b c : State} (h : EventLeaves a b) (k : EventLeaves b c) : EventLeaves a c where
  owed p o := k.owed p (h.owed p o)
  tester m := by
    obtain ⟨mode, same⟩ := h.tester m
    obtain ⟨mode', same'⟩ := k.tester mode
    exact ⟨mode', same'.trans same⟩

theorem foldl {β : Type} {f : State → β → State} (h : ∀ s b, EventLeaves s (f s b)) (l : List β) :
    ∀ s, EventLeaves s (l.foldl f s) := by
  induction l with
  | nil => exact refl
  | cons b l ih => exact fun s => (h s b).trans (ih _)

theorem setPoint (p : Fin 48) (st : PState) (m : Bool) (timer : Option Nat) (s : State) :
    EventLeaves s (setPoint p st m timer s) := by
  unfold Machine.setPoint
  dsimp only
  split
  · exact refl s
  · refine ⟨fun q o => ?_, fun h => ⟨h, rfl⟩⟩
    show (s.owed.set p true)[q.val] = true
    rw [Vector.getElem_set]
    split
    · rfl
    · exact o

theorem activatePoint (trig : Option (List Byte)) (p : Fin 48) (s : State) :
    EventLeaves s (activatePoint trig p s) := by
  unfold Machine.activatePoint
  dsimp only
  split
  · exact (setPoint ..).trans (of_eq rfl rfl rfl)
  · exact setPoint ..

theorem evalPoint (trig : Option (List Byte)) (p : Fin 48) (s : State) : EventLeaves s (evalPoint trig p s) := by
  unfold Machine.evalPoint
  dsimp only
  repeat' split
  all_goals first | exact refl s | exact activatePoint trig p s | exact setPoint ..

theorem feedHeld (code : Nat) (v : Int) (ok : Bool) (trig : Option (List Byte)) (s : State) :
    EventLeaves s (feedHeld code v ok trig s) := by
  unfold Machine.feedHeld
  split
  · exact of_eq rfl rfl rfl
  · have fed : EventLeaves s (s.setSource code v ok) := of_eq rfl rfl rfl
    exact fed.trans (foldl (fun s p => evalPoint trig p s) _ _)

theorem rearmPoints (s : State) : EventLeaves s (rearmPoints s) := by
  refine foldl (fun s p => ?_) _ s
  rw [rearmPoint_eq]
  split
  · exact setPoint ..
  · exact refl s

theorem modeSteps {new : Mode} (walking : new ≠ .walking) (testing : new ≠ .testing) (s : State) :
    EventLeaves s (modeSteps new s) := by
  have begun : EventLeaves s (entered new s) :=
    ⟨fun p o => by rw [entered_eq]; exact o, fun _ => ⟨by rw [entered_mode]; exact testing, by rw [entered_eq]⟩⟩
  have walked (u : State) : EventLeaves u (walkModeChange s.mode new u) := by
    rw [walkModeChange_eq _ walking]
    exact of_eq rfl rfl rfl
  have ended (u : State) : EventLeaves u (tightModeChange s.mode u) := by
    unfold tightModeChange
    split
    · have cleared : EventLeaves u (clearEpisode u) := of_eq rfl rfl rfl
      exact cleared.trans (feedHeld ..)
    · exact refl u
  have worked : EventLeaves s (reworked new s) := ((begun.trans (rearmPoints _)).trans (walked _)).trans (ended _)
  have energised (u : State) t : EventLeaves u { u with trip := t } := of_eq rfl rfl rfl
  have owed (u : State) : EventLeaves u (oweStatus u) := of_eq rfl rfl rfl
  rw [modeSteps_eq]
  split
  · exact (worked.trans (energised _ _)).trans (owed _)
  · exact worked.trans (owed _)

theorem tripSetAll (s : State) : EventLeaves s (tripSetAll s) := by
  refine foldl (fun s c => ?_) _ s
  rw [(tripChannel_only c s).frame]
  exact of_eq rfl rfl rfl

theorem appendRecord (r : TripRecord) (s : State) : EventLeaves s (appendRecord r s) := by
  have unit t : EventLeaves s (oweStatus { s with trip := t }) := of_eq rfl rfl rfl
  unfold Machine.appendRecord
  dsimp only
  split
  · exact (unit _).trans (feedHeld ..)
  · split
    · exact (unit _).trans (feedHeld ..)
    · exact of_eq rfl rfl rfl

theorem takeTrip (t : TripIn) (s : State) : EventLeaves s (takeTrip t s) := by
  have lines (u : State) : EventLeaves u (deEnergise t.action u) := of_eq rfl rfl rfl
  unfold Machine.takeTrip
  split
  · exact (lines s).trans (appendRecord ..)
  · unfold firstTrip
    dsimp only
    have set := ((modeSteps (new := .tripped) nofun nofun s).trans (lines _)).trans (tripSetAll _)
    split
    · rename_i testing
      have ended (u : State) (same : u.owed = (Machine.tripSetAll (deEnergise t.action (Machine.modeSteps .tripped s))).owed) :
          EventLeaves s (Machine.appendRecord (capture t true s) u) :=
        ⟨fun p o => (appendRecord _ u).owed p (by rw [same]; exact set.owed p o), fun h => absurd testing h⟩
      exact ended _ rfl
    · exact set.trans (appendRecord ..)

theorem drainTrips (n : Nat) : ∀ s, EventLeaves s (drainTrips n s) := by
  induction n with
  | zero => exact fun s => of_eq rfl rfl rfl
  | succ n ih =>
    intro s
    unfold Machine.drainTrips
    split
    · exact refl s
    · have held (ts : List TripIn) : EventLeaves s { s with heldTrips := ts } := of_eq rfl rfl rfl
      exact ((held _).trans (takeTrip _ _)).trans (ih _)

theorem changeMode {new : Mode} (walking : new ≠ .walking) (testing : new ≠ .testing) (s : State) :
    EventLeaves s (changeMode new s) :=
  (modeSteps walking testing s).trans (drainTrips 256 _)

theorem takeUpdate (u : Update) (s : State) : EventLeaves s (takeUpdate u s) := by
  have set : EventLeaves s (s.setSource u.code u.value u.valid) := of_eq rfl rfl rfl
  exact set.trans (foldl (fun s p => (evalPoint u.trig p s).trans (drainTrips 256 _)) _ _)

theorem takeUpdates (n : Nat) : ∀ s, EventLeaves s (takeUpdates n s) := by
  induction n with
  | zero => exact refl
  | succ n ih =>
    intro s
    unfold Machine.takeUpdates
    split
    · have waits (us : Option (List Update)) : EventLeaves s { s with updates := us } := of_eq rfl rfl rfl
      exact ((waits _).trans (takeUpdate ..)).trans (ih _)
    · exact refl s

theorem feed (code : Nat) (v : Int) (ok : Bool) (trig : Option (List Byte)) (s : State) :
    EventLeaves s (feed code v ok trig s) := by
  have waits (us : Option (List Update)) : EventLeaves s { s with updates := us } := of_eq rfl rfl rfl
  have ends (u : State) (us : Option (List Update)) : EventLeaves u { u with updates := us } := of_eq rfl rfl rfl
  exact ((waits _).trans (takeUpdates 256 _)).trans (ends _ _)

theorem initTest (s : State) : EventLeaves s (initTest s) := by
  unfold Machine.initTest
  split
  · split
    · exact changeMode (new := .parked) nofun nofun s
    · unfold updateReason
      split <;> exact of_eq rfl rfl rfl
  · exact refl s

end EventLeaves

end Sys2Proof.Machine
end

section
/-!
Lemmas for the obligation on ACTIVATE: the steps of the installation, what all of them leave standing, and the notices
of the points (R18, R144, R197).
-/

namespace Sys2Proof.Machine

/-! The notices of the points. -/

/-- The Alarm Notice of a point waits or is being sent. -/
def NoticeOut (p : Fin 48) (t : State) : Prop :=
  (∃ e ∈ t.ring.ins, e.cls = .alarm p) ∨ ∃ g, t.ring.sending = some (.inserted (.alarm p) g)

theorem NoticeOut.of_inserted {p : Fin 48} {dst : Byte} {kind : BitVec 4} {payload : List Byte} {t : State}
    (h : Inserted (.alarm p) dst kind payload t) : NoticeOut p t := by
  rcases h with ⟨e, mem, cls, -⟩ | ⟨f, out, -⟩
  · exact .inl ⟨e, mem, cls⟩
  · exact .inr ⟨f, out⟩

/-- A point is in the owed set (R141). -/
def PointOwed (p : Fin 48) (s : State) : Prop := s.owed[p] = true

theorem buildNotices_alarm (p : Fin 48) (n : Nat) : ∀ s : State, PointOwed p s →
    PointOwed p (buildNotices n s) ∨ NoticeOut p (buildNotices n s) := by
  induction n with
  | zero => exact fun _ h => .inl h
  | succ n ih =>
    intro s h
    have status : (buildStatus s).owed = s.owed := by
      unfold buildStatus joinInsert
      rw [chooseIfIdle_rest]
    have alarm (q : Fin 48) : (buildAlarm q s).owed = s.owed.set q false := by
      unfold buildAlarm joinInsert
      rw [chooseIfIdle_rest]
    unfold buildNotices buildOne
    split
    · split
      · exact ih _ (by unfold PointOwed; rw [status]; exact h)
      · cases next : s.alarmBuildable with
        | some q =>
          by_cases same : q = p
          · subst same
            exact .inr (.of_inserted (buildNotices_inserted n _
              (joinInsert_self (s := { s with owed := s.owed.set q false }) rfl)))
          · refine ih _ ?_
            unfold PointOwed
            rw [alarm]
            exact (Vector.getElem_set_ne q.isLt p.isLt fun e => same (Fin.ext e)).trans h
        | none => exact ih s h
    · exact ih s h

/-- At the end of a command the Alarm Notice of a point that was owed is owed or out (R18). -/
theorem finish_alarmNotice {p : Fin 48} {s : State} (h : PointOwed p s) :
    PointOwed p (finish s) ∨ NoticeOut p (finish s) :=
  buildNotices_alarm p 16 s h

/-! The steps. -/

/-- Step 1 of ACTIVATE: the staging tables in force (R197). -/
def switched (u : State) : State :=
  { u with tables := { active := u.tables.staging, staging := u.tables.staging, valid := true, committed := false } }

/-- The running state of every entry taken (R21). -/
def placed (u : State) : State := (List.finRange 16).foldl (installStation u.act) (switched u)

/-- What the entries that left FRESH hand, handed (R21, R23). -/
def leftFresh (u : State) : State :=
  ((List.finRange 16).filter fun e => renumbered u.act (switched u).act e && (switched u).entryFresh e).foldl
    (leaveFresh u.act) (placed u)

/-- The points reset, and the freshness of the entries renumbered handed (R144, R124). -/
def rehanded (u : State) : State :=
  (List.finRange 16).foldl (fun s e => installSource u.act e s) (installPoints (leftFresh u))

/-- The analog channels installed (R147). -/
def resettled (u : State) : State :=
  (List.finRange 4).foldl (fun s ch => installAnalog ch (u.act.analog[ch]) (s.act.analog[ch]) s) (rehanded u)

/-- Every normalised value worked out again (R173). -/
def renormed (u : State) : State := (List.finRange 13).foldl (fun s i => renorm i s) (resettled u)

theorem install_eq (u : State) : install u = initTest (renormed u) := rfl

/-! What the steps leave standing. -/

/-- What every step of the installation after the stations' leaves standing. -/
structure Installs (s t : State) : Prop where
  now : t.now = s.now
  stations : t.stations = s.stations
  feedback : t.feedback = s.feedback
  tables : t.tables = s.tables
  store : t.store = s.store
  rest : RestKept s t
  queue : s.trip.queue <+: t.trip.queue
  tester : s.mode ≠ .testing → t.mode ≠ .testing ∧ t.tester = s.tester

namespace Installs

theorem trans {a b c : State} (h : Installs a b) (k : Installs b c) : Installs a c where
  now := k.now.trans h.now
  stations := k.stations.trans h.stations
  feedback := k.feedback.trans h.feedback
  tables := k.tables.trans h.tables
  store := k.store.trans h.store
  rest := h.rest.trans k.rest
  queue := h.queue.trans k.queue
  tester m := by
    obtain ⟨mode, same⟩ := h.tester m
    obtain ⟨mode', same'⟩ := k.tester mode
    exact ⟨mode', same'.trans same⟩

/-- A step that writes the sensors, the points, the analog channels or the records of wear and level alone. -/
theorem of_records {s t : State} (h : t = { s with sensors := t.sensors, alarm := t.alarm, analog := t.analog
                                                   attrs := t.attrs, owed := t.owed, statusOwed := t.statusOwed }) :
    Installs s t := by
  rw [h]
  exact ⟨rfl, rfl, rfl, rfl, rfl, .of_eq rfl, List.prefix_refl _, fun m => ⟨m, rfl⟩⟩

theorem refl (s : State) : Installs s s := of_records rfl

theorem foldl {β : Type} {f : State → β → State} (h : ∀ s b, Installs s (f s b)) (l : List β) :
    ∀ s, Installs s (l.foldl f s) := by
  induction l with
  | nil => exact refl
  | cons b l ih => exact fun s => (h s b).trans (ih _)

theorem of_event {s t : State} (kept : TripKept s t) (rest : RestKept s t) (queue : QueueBegins s.trip.queue t)
    (leaves : EventLeaves s t) : Installs s t :=
  ⟨kept.now, kept.stations, kept.feedback, kept.tables, kept.store, rest, queue, leaves.tester⟩

theorem feed (code : Nat) (v : Int) (ok : Bool) (trig : Option (List Byte)) (s : State) :
    Installs s (feed code v ok trig s) :=
  of_event (feed_kept ..) (RestKept.feed ..)
    ((queueBegins_stable _).feed code v ok trig (s := s) (show s.trip.queue <+: s.trip.queue from List.prefix_refl _))
    (EventLeaves.feed ..)

theorem initTest (s : State) : Installs s (initTest s) :=
  of_event (initTest_kept s) (RestKept.initTest s)
    (QueueBegins.initTest (show s.trip.queue <+: s.trip.queue from List.prefix_refl _)) (EventLeaves.initTest s)

theorem dropSensor (e ch : Fin 16) (s : State) : Installs s (dropSensor e ch s) := by
  unfold Machine.dropSensor
  dsimp only
  split
  · have marked (v : Vector Sensor 16) : Installs s { s with sensors := v } := of_records rfl
    exact (marked _).trans (feed ..)
  · exact refl s

theorem leaveFresh (old : TableSet) (s : State) (e : Fin 16) : Installs s (leaveFresh old s e) := by
  have axis (x : Axis) (s : State) : Installs s (dropAxis x s) := ((feed ..).trans (feed ..)).trans (feed ..)
  have skew (x : Axis) (s : State) : Installs s (skewAgain x s) := by
    unfold skewAgain
    split
    · exact feed ..
    · exact refl s
  have sensors : Installs s (dropSensors e s) := foldl (fun s ch => dropSensor e ch s) _ s
  exact sensors.trans (foldl (fun s x => (axis x s).trans (skew x _)) _ _)

theorem installSource (old : TableSet) (e : Fin 16) (s : State) : Installs s (installSource old e s) := by
  unfold Machine.installSource
  split
  · split <;> exact feed ..
  · exact refl s

theorem installAnalog (ch : Fin 4) (old new : AnalogCfg) (s : State) : Installs s (installAnalog ch old new s) := by
  have set (r : AinRun) : Installs s (s.setAin ch r) := of_records rfl
  unfold Machine.installAnalog
  split
  · exact (set _).trans (feed ..)
  · exact set _

theorem renorm (i : Fin 13) (s : State) : Installs s (renorm i s) := by
  have put (r : AttrRun) : Installs s (putAttr i r s) := of_records rfl
  unfold Machine.renorm
  dsimp only
  rw [setNorm_eq]
  split
  · exact put _
  · exact (put _).trans (feed ..)

theorem leftFresh (u : State) : Installs (placed u) (leftFresh u) := foldl (leaveFresh u.act) _ _

theorem installPoints (s : State) : Installs s (installPoints s) := by
  have reset a o b : Installs s { s with alarm := a, owed := o, statusOwed := b } := of_records rfl
  exact reset _ _ _

theorem rehanded (u : State) : Installs (Machine.leftFresh u) (rehanded u) :=
  (installPoints _).trans (foldl (fun s e => installSource u.act e s) _ _)

theorem resettled (u : State) : Installs (Machine.rehanded u) (resettled u) :=
  foldl (fun s ch => installAnalog ch _ _ s) _ _

theorem renormed (u : State) : Installs (Machine.resettled u) (renormed u) := foldl (fun s i => renorm i s) _ _

theorem install (u : State) : Installs (placed u) (install u) := by
  rw [install_eq]
  exact (((leftFresh u).trans (rehanded u)).trans (resettled u)).trans ((renormed u).trans (initTest _))

end Installs

/-! The running states of the stations. -/

theorem installStation_same (old : TableSet) (s : State) (e : Fin 16) :
    (installStation old s e).stations[e] =
      if renumbered old s.act e then
        (if (s.act.stations[e]).number = 0 then none else some (startedStation s.now (s.act.stations[e]).timeout))
      else s.stations[e] := by
  unfold installStation
  dsimp only
  split
  · exact Vector.getElem_set_self ..
  · rfl

theorem installStation_other (old : TableSet) (s : State) {e d : Fin 16} (h : d ≠ e) :
    (installStation old s d).stations[e] = s.stations[e] := by
  unfold installStation
  dsimp only
  split
  · exact Vector.getElem_set_ne d.isLt e.isLt fun same => h (Fin.ext same)
  · rfl

theorem installStation_rest (old : TableSet) (s : State) (e : Fin 16) :
    installStation old s e = { s with stations := (installStation old s e).stations } := by
  unfold installStation
  dsimp only
  split <;> rfl

theorem foldl_installStation_rest (old : TableSet) (l : List (Fin 16)) : ∀ s : State,
    l.foldl (installStation old) s = { s with stations := (l.foldl (installStation old) s).stations } := by
  induction l with
  | nil => exact fun _ => rfl
  | cons e l ih =>
    intro s
    rw [List.foldl_cons, ih, installStation_rest]

theorem placed_rest (u : State) : placed u = { switched u with stations := (placed u).stations } :=
  foldl_installStation_rest ..

/-- A part of the state that one round of a fold writes, and the other rounds leave. -/
theorem foldl_part {α β : Type} {f : State → α → State} {part : State → β} {P : State → Prop} {value : β → β} {a : α}
    (keep : ∀ s b, P s → P (f s b)) (same : ∀ s, P s → part (f s a) = value (part s))
    (other : ∀ s b, b ≠ a → part (f s b) = part s) {l : List α} (n : l.Nodup) (ha : a ∈ l) :
    ∀ s, P s → part (l.foldl f s) = value (part s) := by
  have rest : ∀ l : List α, a ∉ l → ∀ s, part (l.foldl f s) = part s := by
    intro l
    induction l with
    | nil => exact fun _ _ => rfl
    | cons b l ih =>
      intro h s
      rw [List.foldl_cons, ih (fun m => h (List.mem_cons_of_mem b m)), other]
      exact fun e => h (e ▸ List.mem_cons_self)
  induction l with
  | nil => cases ha
  | cons b l ih =>
    intro s hs
    rw [List.foldl_cons]
    rw [List.nodup_cons] at n
    by_cases e : b = a
    · subst e
      rw [rest l n.1, same s hs]
    · rw [ih n.2 ((List.mem_cons.mp ha).resolve_left fun h => e h.symm) _ (keep s b hs), other s b e]

theorem placed_station (u : State) (e : Fin 16) : (placed u).stations[e] =
    if (u.act.stations[e]).number = (u.tables.staging.stations[e]).number then u.stations[e]
    else if (u.tables.staging.stations[e]).number = 0 then none
      else some (startedStation u.now (u.tables.staging.stations[e]).timeout) := by
  have written := foldl_part (f := installStation u.act) (part := fun s : State => s.stations[e])
    (P := fun s => s.act = u.tables.staging ∧ s.now = u.now) (a := e)
    (value := fun r => if renumbered u.act u.tables.staging e then
        (if (u.tables.staging.stations[e]).number = 0 then none
          else some (startedStation u.now (u.tables.staging.stations[e]).timeout)) else r)
    (fun s d h => by rw [installStation_rest]; exact h)
    (fun s h => by obtain ⟨act, now⟩ := h; rw [← act, ← now]; exact installStation_same u.act s e)
    (fun s d h => installStation_other u.act s h) (List.nodup_finRange 16) (List.mem_finRange e) (switched u) ⟨rfl, rfl⟩
  refine (show (placed u).stations[e] = _ from written).trans ?_
  unfold renumbered
  by_cases same : (u.act.stations[e]).number = (u.tables.staging.stations[e]).number
  · rw [if_pos same, if_neg (by rw [same]; simp)]
    rfl
  · rw [if_neg same, if_pos (by simpa using same)]

end Sys2Proof.Machine
end

section
/-!
Lemmas for the obligation on ACTIVATE: the analog channels, the records of wear and level, and the sources of both
(R147, R149, R172, R173).
-/

namespace Sys2Proof.Machine

/-! What the steps before those of the channels leave. -/

/-- The source of an analog channel or of a record of wear or level (R124). -/
def ChannelOrRecord (c : Nat) : Prop := (16 ≤ c ∧ c ≤ 19) ∨ (56 ≤ c ∧ c ≤ 68)

/-- A step that leaves the analog channels, the records and the sources of both. -/
structure Hands (s t : State) : Prop where
  analog : t.analog = s.analog
  attrs : t.attrs = s.attrs
  source : ∀ c, ChannelOrRecord c → t.source c = s.source c

namespace Hands

theorem trans {a b c : State} (h : Hands a b) (k : Hands b c) : Hands a c :=
  ⟨k.analog.trans h.analog, k.attrs.trans h.attrs, fun n o => (k.source n o).trans (h.source n o)⟩

theorem of_eq {s t : State} (analog : t.analog = s.analog) (attrs : t.attrs = s.attrs)
    (sources : t.alarm.sources = s.alarm.sources) : Hands s t :=
  ⟨analog, attrs, fun c _ => source_congr sources c⟩

theorem refl (s : State) : Hands s s := of_eq rfl rfl rfl

theorem foldl {β : Type} {f : State → β → State} (h : ∀ s b, Hands s (f s b)) (l : List β) :
    ∀ s, Hands s (l.foldl f s) := by
  induction l with
  | nil => exact refl
  | cons b l ih => exact fun s => (h s b).trans (ih _)

theorem feed {code : Nat} (pos : 1 ≤ code) (other : ¬ChannelOrRecord code) (v : Int) (ok : Bool)
    (trig : Option (List Byte)) (s : State) : Hands s (feed code v ok trig s) where
  analog := (feed_kept ..).analog
  attrs := (feed_kept ..).attrs
  source c h := by
    have ne : c ≠ code := fun e => other (e ▸ h)
    unfold ChannelOrRecord at h
    exact feed_sources pos ne (by omega) (by omega) (by omega)

theorem leaveFresh (old : TableSet) (s : State) (e : Fin 16) : Hands s (leaveFresh old s e) := by
  have sensor (s : State) (ch : Fin 16) : Hands s (dropSensor e ch s) := by
    have low := ch.isLt
    unfold dropSensor
    dsimp only
    split
    · have marked (v : Vector Sensor 16) : Hands s { s with sensors := v } := of_eq rfl rfl rfl
      exact (marked _).trans (feed (by unfold sensorSource; omega) (by unfold ChannelOrRecord sensorSource; omega) ..)
    · exact refl s
  have axis (x : Axis) (s : State) : Hands s (dropAxis x s) := by
    have low : 1 ≤ axisSource x ∧ axisSource x ≤ 13 := by cases x <;> decide
    unfold dropAxis
    dsimp only
    refine ((feed ?_ ?_ ..).trans (feed ?_ ?_ ..)).trans (feed ?_ ?_ ..)
    all_goals first
      | omega
      | unfold ChannelOrRecord; omega
  have skew (x : Axis) (s : State) : Hands s (skewAgain x s) := by
    unfold skewAgain
    split
    · exact feed (by decide) (by unfold ChannelOrRecord; omega) ..
    · exact refl s
  have sensors : Hands s (dropSensors e s) := foldl sensor _ s
  exact sensors.trans (foldl (fun s x => (axis x s).trans (skew x _)) _ _)

theorem installSource (old : TableSet) (e : Fin 16) (s : State) : Hands s (installSource old e s) := by
  have low := e.isLt
  have pos : 1 ≤ freshSource e := by unfold freshSource; omega
  have other : ¬ChannelOrRecord (freshSource e) := by unfold ChannelOrRecord freshSource; omega
  unfold Machine.installSource
  split
  · split <;> exact feed pos other ..
  · exact refl s

theorem rehanded (u : State) : Hands u (rehanded u) := by
  have stations : Hands u (placed u) := by
    rw [placed_rest]
    exact of_eq rfl rfl rfl
  have left : Hands (placed u) (leftFresh u) := foldl (Hands.leaveFresh u.act) _ _
  have reset (s : State) a o b (same : a.sources = s.alarm.sources) :
      Hands s { s with alarm := a, owed := o, statusOwed := b } := of_eq rfl rfl same
  have points : Hands (leftFresh u) (installPoints (leftFresh u)) := reset _ _ _ _ rfl
  exact ((stations.trans left).trans points).trans (foldl (fun s e => installSource u.act e s) _ _)

end Hands

theorem placed_act (u : State) : (placed u).act = u.tables.staging := by
  rw [placed_rest]
  rfl

theorem rehanded_act (u : State) : (rehanded u).act = u.tables.staging :=
  (congrArg Tables.active ((Installs.leftFresh u).trans (Installs.rehanded u)).tables).trans (placed_act u)

theorem resettled_act (u : State) : (resettled u).act = u.tables.staging :=
  (congrArg Tables.active (Installs.resettled u).tables).trans (rehanded_act u)

/-! The analog channels. -/

/-- The entries of a channel differ in what its scale depends on (R147). -/
def ScaleChanged (o n : AnalogCfg) : Prop := o.ref ≠ n.ref ∨ o.gain ≠ n.gain ∨ o.offset ≠ n.offset

/-- They differ in the direct limit (R147). -/
def LimitChanged (o n : AnalogCfg) : Prop :=
  o.limitOn ≠ n.limitOn ∨ o.dir ≠ n.dir ∨ o.rawLimit ≠ n.rawLimit ∨ o.persistence ≠ n.persistence

/-- They differ in the fatigue cycle (R147). -/
def FatigueChanged (o n : AnalogCfg) : Prop := o.role ≠ n.role ∨ o.fatigue ≠ n.fatigue ∨ o.reset ≠ n.reset

/-- A channel whose scale stands, less the counts and marks that the new entry resets (R147). -/
def ainKept (limit fatigue : Bool) (r : AinRun) : AinRun :=
  { r with beyond := if limit then 0 else r.beyond, limitMark := if limit then false else r.limitMark
           high := if fatigue then false else r.high }

theorem installAnalog_anew (ch : Fin 4) {o n : AnalogCfg} (s : State) (h : ScaleChanged o n) :
    installAnalog ch o n s = feed (16 + ch.val) 0 false none (s.setAin ch resetAin) := if_pos h

theorem installAnalog_kept (ch : Fin 4) {o n : AnalogCfg} (s : State) (h : ¬ScaleChanged o n) {limit fatigue : Bool}
    (hl : limit = true ↔ LimitChanged o n) (hf : fatigue = true ↔ FatigueChanged o n) :
    installAnalog ch o n s = s.setAin ch (ainKept limit fatigue s.analog[ch]) := by
  have limited (a b : AinRun) : (if o.limitOn ≠ n.limitOn ∨ o.dir ≠ n.dir ∨ o.rawLimit ≠ n.rawLimit
      ∨ o.persistence ≠ n.persistence then a else b) = if limit then a else b := if_congr hl.symm rfl rfl
  have fatigued (a b : AinRun) : (if o.role ≠ n.role ∨ o.fatigue ≠ n.fatigue ∨ o.reset ≠ n.reset then a else b)
      = if fatigue then a else b := if_congr hf.symm rfl rfl
  refine (if_neg h).trans ?_
  dsimp only
  rw [limited, fatigued]
  cases limit <;> cases fatigue <;> rfl

/-- What a channel shows: its record and its source. -/
def ainShown (ch : Fin 4) (s : State) : AinRun × Source := (s.analog[ch], s.source (16 + ch.val))

theorem ainShown_of {ch : Fin 4} {s : State} {a : AinRun × Source} (h : ainShown ch s = a) :
    s.analog[ch] = a.1 ∧ s.source (16 + ch.val) = a.2 := ⟨congrArg Prod.fst h, congrArg Prod.snd h⟩

theorem installAnalog_other {ch d : Fin 4} (h : d ≠ ch) (o n : AnalogCfg) (s : State) :
    ainShown ch (installAnalog d o n s) = ainShown ch s := by
  have high := ch.isLt
  have apart : ch.val ≠ d.val := fun e => h (Fin.ext e.symm)
  have set (r : AinRun) : ainShown ch (s.setAin d r) = ainShown ch s :=
    Prod.ext (setAin_other (ch := d) (s := s) (Ne.symm h) r) rfl
  unfold installAnalog
  split
  · refine Eq.trans (Prod.ext ?_ ?_) (set resetAin)
    · exact congrArg (fun v : Vector AinRun 4 => v[ch]) (feed_kept ..).analog
    · exact feed_sources (by omega) (by omega) (by omega) (by omega) (by omega)
  · exact set _

theorem Hands.ainShown {s t : State} (h : Hands s t) (ch : Fin 4) : ainShown ch t = ainShown ch s := by
  have low := ch.isLt
  unfold Machine.ainShown
  rw [h.analog, h.source _ (by unfold ChannelOrRecord; omega)]

theorem renorm_ainShown (ch : Fin 4) (i : Fin 13) (s : State) : ainShown ch (renorm i s) = ainShown ch s := by
  have low := ch.isLt
  unfold renorm
  dsimp only
  rw [setNorm_eq]
  split
  · rfl
  · refine Prod.ext ?_ ?_
    · exact congrArg (fun v : Vector AinRun 4 => v[ch]) (feed_kept ..).analog
    · exact feed_sources (by omega) (by omega) (by omega) (by omega) (by omega)

theorem initTest_ainShown (ch : Fin 4) (s : State) : ainShown ch (initTest s) = ainShown ch s := by
  have low := ch.isLt
  unfold ainShown
  rw [(initTest_kept s).analog, (initTest_sources s).kept _ (by omega) (by omega) (by omega)]

theorem keeps_part {α β : Type} {f : State → α → State} {part : State → β} (h : ∀ s a, part (f s a) = part s)
    (l : List α) : ∀ s, part (l.foldl f s) = part s := by
  induction l with
  | nil => exact fun _ => rfl
  | cons a l ih => exact fun s => (ih _).trans (h s a)

theorem install_ainShown (ch : Fin 4) (u : State) : ainShown ch (install u) = ainShown ch (resettled u) := by
  rw [install_eq, initTest_ainShown]
  exact keeps_part (f := fun s i => renorm i s) (fun s i => renorm_ainShown ch i s) _ _

/-- What an installed channel shows is what its own entry makes of it. -/
theorem install_channel {ch : Fin 4} {u : State} {value : AinRun × Source → AinRun × Source}
    (same : ∀ s, ainShown ch (installAnalog ch u.act.analog[ch] u.tables.staging.analog[ch] s) = value (ainShown ch s)) :
    ainShown ch (install u) = value (ainShown ch u) := by
  rw [install_ainShown, ← (Hands.rehanded u).ainShown ch]
  exact foldl_part (P := fun s => s.act = u.tables.staging)
    (fun s d act => (congrArg Tables.active (Installs.installAnalog d _ _ s).tables).trans act)
    (fun s act => by rw [act]; exact same s) (fun s d h => installAnalog_other h _ _ s) (List.nodup_finRange 4)
    (List.mem_finRange ch) _ (rehanded_act u)

theorem install_channel_anew {ch : Fin 4} {u : State}
    (h : ScaleChanged u.act.analog[ch] u.tables.staging.analog[ch]) :
    (install u).analog[ch] = resetAin
      ∧ (install u).source (16 + ch.val) = { value := (u.source (16 + ch.val)).value, valid := false } := by
  have low := ch.isLt
  have shown := install_channel (u := u) (value := fun a => (resetAin, { value := a.2.value, valid := false }))
    fun s => by
      rw [installAnalog_anew ch s h]
      refine Prod.ext ?_ ?_
      · refine (congrArg (fun v : Vector AinRun 4 => v[ch]) (feed_kept ..).analog).trans ?_
        exact setAin_same (s := s) ..
      · exact feed_source_same (by omega) (by omega) (by omega) (by omega) (by omega) ..
  exact ainShown_of shown

theorem install_channel_kept {ch : Fin 4} {u : State}
    (h : ¬ScaleChanged u.act.analog[ch] u.tables.staging.analog[ch]) {limit fatigue : Bool}
    (hl : limit = true ↔ LimitChanged u.act.analog[ch] u.tables.staging.analog[ch])
    (hf : fatigue = true ↔ FatigueChanged u.act.analog[ch] u.tables.staging.analog[ch]) :
    (install u).analog[ch] = ainKept limit fatigue u.analog[ch]
      ∧ (install u).source (16 + ch.val) = u.source (16 + ch.val) := by
  have shown := install_channel (u := u) (value := fun a => (ainKept limit fatigue a.1, a.2)) fun s => by
    rw [installAnalog_kept ch s h hl hf]
    exact Prod.ext (setAin_same (s := s) ..) rfl
  exact ainShown_of shown

/-! The records of wear and level. -/

/-- The normalised value of a record under a table set (R173). -/
def normUnder (tables : TableSet) (i : Fin 13) (r : AttrRun) : Nat :=
  match levelChan i with
  | some c => if r.never then 100 else normalise r.raw (tables.test.slip.get c)
  | none => min r.norm (normalise r.raw (tables.attrs[i]).life)

theorem workedNorm_under {s : State} {tables : TableSet} (act : s.act = tables) (i : Fin 13) (r : AttrRun) :
    s.workedNorm i r = normUnder tables i r := by
  rw [← act]
  rfl

/-- What a record shows: itself and its source. -/
def recordShown (i : Fin 13) (s : State) : AttrRun × Source := (s.attrs.recs[i], s.source (56 + i.val))

/-- What a record shows once its normalised value is worked out again. -/
def reworkedRecord (tables : TableSet) (i : Fin 13) (a : AttrRun × Source) : AttrRun × Source :=
  (normed a.1 (normUnder tables i a.1),
    if normUnder tables i a.1 = a.1.norm then a.2 else { value := normUnder tables i a.1, valid := true })

theorem renorm_same {i : Fin 13} {s : State} {tables : TableSet} (act : s.act = tables) :
    recordShown i (renorm i s) = reworkedRecord tables i (recordShown i s) := by
  unfold renorm
  dsimp only
  rw [workedNorm_under act]
  refine Prod.ext (setNorm_same ..) ?_
  show (setNorm ..).source _ = if _ then _ else _
  split
  · rename_i same
    have still : normUnder tables i s.attrs.recs[i] = (s.attrs.recs[i]).norm := same
    rw [setNorm_eq, if_pos still]
    rfl
  · rename_i moved
    exact setNorm_source _ _ _ _ moved

theorem renorm_other {i j : Fin 13} (h : j ≠ i) (s : State) : recordShown i (renorm j s) = recordShown i s := by
  have high := i.isLt
  have apart : i.val ≠ j.val := fun e => h (Fin.ext e.symm)
  unfold renorm
  dsimp only
  refine Prod.ext (setNorm_other _ _ _ _ (Ne.symm h)) ?_
  show (setNorm ..).source _ = s.source _
  rw [setNorm_eq]
  split
  · rfl
  · exact feed_sources (by omega) (by omega) (by omega) (by omega) (by omega)

theorem installAnalog_recordShown (i : Fin 13) (ch : Fin 4) (o n : AnalogCfg) (s : State) :
    recordShown i (installAnalog ch o n s) = recordShown i s := by
  have low := ch.isLt
  unfold installAnalog
  split
  · refine Prod.ext ?_ ?_
    · exact congrArg (fun a : Attrs => a.recs[i]) (feed_kept ..).attrs
    · exact feed_sources (by omega) (by omega) (by omega) (by omega) (by omega)
  · rfl

theorem install_record (i : Fin 13) (u : State) :
    recordShown i (install u) = reworkedRecord u.tables.staging i (recordShown i u) := by
  have high := i.isLt
  have tested : recordShown i (install u) = recordShown i (renormed u) := by
    rw [install_eq]
    unfold recordShown
    rw [(initTest_kept _).attrs, (initTest_sources _).kept _ (by omega) (by omega) (by omega)]
  have handed : recordShown i (rehanded u) = recordShown i u := by
    unfold recordShown
    rw [(Hands.rehanded u).attrs, (Hands.rehanded u).source _ (by unfold ChannelOrRecord; omega)]
  have channels : recordShown i (resettled u) = recordShown i (rehanded u) :=
    keeps_part (f := fun s ch => installAnalog ch _ _ s) (fun s ch => installAnalog_recordShown i ch _ _ s) _ _
  rw [tested, ← handed, ← channels]
  exact foldl_part (P := fun s => s.act = u.tables.staging)
    (fun s d act => (congrArg Tables.active (Installs.renorm d s).tables).trans act)
    (fun s act => renorm_same act) (fun s d h => renorm_other h s) (List.nodup_finRange 13) (List.mem_finRange i) _
    (resettled_act u)

theorem normUnder_level (tables : TableSet) {i : Fin 13} {r : AttrRun} (c : Chan) (h : marginOf c = i) :
    normUnder tables i r = if r.never then 100 else
      max 1 (min 100 (100 - quotient (99 * r.raw) (tables.test.slip.get c))) := by
  subst h
  cases c <;> rfl

theorem normUnder_wear (tables : TableSet) {i : Fin 13} {r : AttrRun} (h : ∀ c, marginOf c ≠ i) :
    normUnder tables i r = min r.norm (max 1 (min 100 (100 - quotient (99 * r.raw) (tables.attrs[i]).life))) := by
  have wear : levelChan i = none := by
    have hoist := h .hoist
    have drag := h .drag
    have swing := h .swing
    have walk := h .walk
    clear h r
    revert hoist drag swing walk
    revert i
    decide
  unfold normUnder
  rw [wear]
  rfl

end Sys2Proof.Machine
end

section
/-!
Lemmas for the obligation on ACTIVATE: in PARKED with no trip held and no point on a source handed after the points'
reset, nothing trips, and every point and the active list are as the reset gives (R21, R23, R123, R144).
-/

namespace Sys2Proof.Machine

/-! An INVALID hand-off. -/

/-- Points and the marks of the notices alone differ. -/
def PointsMove (s t : State) : Prop :=
  t = { s with alarm := { s.alarm with points := t.alarm.points, list := t.alarm.list }, owed := t.owed
               statusOwed := t.statusOwed }

theorem PointsMove.trans {a b c : State} (h : PointsMove a b) (k : PointsMove b c) : PointsMove a c := by
  unfold PointsMove at h k ⊢
  generalize c.alarm.points = p, c.alarm.list = l, c.owed = o, c.statusOwed = d at k ⊢
  rw [k, h]

theorem setPoint_moves (p : Fin 48) (st : PState) (m : Bool) (timer : Option Nat) (s : State) :
    PointsMove s (setPoint p st m timer s) := by
  unfold setPoint
  dsimp only
  split <;> rfl

theorem evalPoint_moves {trig : Option (List Byte)} {p : Fin 48} {s : State}
    (bad : (s.source (s.act.points[p]).source).valid = false) : PointsMove s (evalPoint trig p s) := by
  rw [evalPoint_invalid bad]
  split
  · exact setPoint_moves ..
  · rfl

/-- Points on an INVALID source hand no trip (R130). -/
theorem foldl_drain_moves {trig : Option (List Byte)} (l : List (Fin 48)) : ∀ {s : State}, s.heldTrips = [] →
    (∀ p ∈ l, (s.source (s.act.points[p]).source).valid = false) →
    PointsMove s (l.foldl (fun s p => drain (evalPoint trig p s)) s) := by
  induction l with
  | nil => exact fun _ _ => rfl
  | cons p l ih =>
    intro s none bad
    have moved := evalPoint_moves (trig := trig) (bad p List.mem_cons_self)
    have held : (evalPoint trig p s).heldTrips = [] := (congrArg State.heldTrips moved).trans none
    rw [List.foldl_cons, drain_none held]
    refine moved.trans (ih held fun q mem => ?_)
    have act : (evalPoint trig p s).act = s.act := (congrArg State.act moved :)
    rw [act, source_congr (congrArg (fun s : State => s.alarm.sources) moved)]
    exact bad q (List.mem_cons_of_mem _ mem)

/-- The sensors, the alarm unit and the marks of the notices alone differ. -/
def AlarmMoves (s t : State) : Prop :=
  t = { s with sensors := t.sensors, alarm := t.alarm, owed := t.owed, statusOwed := t.statusOwed }

theorem AlarmMoves.trans {a b c : State} (h : AlarmMoves a b) (k : AlarmMoves b c) : AlarmMoves a c := by
  unfold AlarmMoves at h k ⊢
  generalize c.sensors = p, c.alarm = l, c.owed = o, c.statusOwed = d at k ⊢
  rw [k, h]

/-- A source handed with INVALID changes the alarm unit alone (R123, R130). -/
theorem feed_bad {code : Nat} (pos : 1 ≤ code) (top : code ≤ 79) (v : Int) (trig : Option (List Byte)) {s : State}
    (none : s.heldTrips = []) : AlarmMoves s (feed code v false trig s) := by
  have set : ∀ p ∈ (waiting (some []) s).updatePoints code,
      ((s.setSource code v false).source (s.act.points[p]).source).valid = false := fun p mem => by
    have on : (s.act.points[p]).source = code := ((mem_pointsOn code).mp (mem_updatePoints.mp mem).1).2
    rw [on, setSource_source_same pos top]
  have taken : PointsMove (waiting (some []) (s.setSource code v false))
      (takeUpdate { code := code, value := v, valid := false, trig := trig } (waiting (some []) s)) :=
    foldl_drain_moves _ none set
  rw [feed_eq, takeUpdates_idle (congrArg State.updates taken)]
  unfold PointsMove at taken
  unfold AlarmMoves
  generalize takeUpdate { code := code, value := v, valid := false, trig := trig } (waiting (some []) s) = t at taken ⊢
  generalize t.alarm.points = p, t.alarm.list = l, t.owed = o, t.statusOwed = d at taken
  rw [taken]
  rfl

/-! The steps before the points' reset. -/

/-- The points of a table set watch no source that ACTIVATE hands after their reset, and not the skew (R197). -/
def Spares (tables : TableSet) : Prop :=
  ∀ (p : Fin 48) (n : Nat), (tables.points[p]).enabled = true → n = (tables.points[p]).source →
    n ≠ 36 ∧ (n < 16 ∨ 19 < n) ∧ (n < 38 ∨ 53 < n) ∧ (n < 56 ∨ 68 < n)

theorem Spares.unwatched {s : State} (h : Spares s.act) {code : Nat}
    (handed : code = 36 ∨ (16 ≤ code ∧ code ≤ 19) ∨ (38 ≤ code ∧ code ≤ 53) ∨ (56 ≤ code ∧ code ≤ 68)) :
    s.pointsOn code = [] := by
  rw [List.eq_nil_iff_forall_not_mem]
  intro p mem
  obtain ⟨enabled, source⟩ := (mem_pointsOn code).mp mem
  have apart := h p code enabled source.symm
  omega

section Before

variable {b : State} (none : b.heldTrips = []) (spares : Spares b.act)

include spares in
theorem AlarmMoves.skewAgain {s : State} (h : AlarmMoves b s) (x : Axis) : AlarmMoves b (skewAgain x s) := by
  have act : s.act = b.act := (congrArg State.act h :)
  unfold Machine.skewAgain
  split
  · unfold feedSkew
    rw [feed_unwatched _ _ _ (Spares.unwatched (by rw [act]; exact spares) (.inl rfl))]
    exact h.trans rfl
  · exact h

include none

theorem AlarmMoves.feed_bad {s : State} (h : AlarmMoves b s) {code : Nat} (pos : 1 ≤ code) (top : code ≤ 79) (v : Int)
    (trig : Option (List Byte)) : AlarmMoves b (feed code v false trig s) :=
  h.trans (Machine.feed_bad pos top v trig ((congrArg State.heldTrips h).trans none))

theorem AlarmMoves.dropSensors {s : State} (h : AlarmMoves b s) (e : Fin 16) : AlarmMoves b (dropSensors e s) := by
  refine keeps_foldl (fun s ch k => ?_) _ s h
  have low := ch.isLt
  unfold dropSensor
  dsimp only
  split
  · have marked (v : Vector Sensor 16) : AlarmMoves s { s with sensors := v } := rfl
    exact (k.trans (marked _)).feed_bad none (by unfold sensorSource; omega) (by unfold sensorSource; omega) _ _
  · exact k

theorem AlarmMoves.dropAxis {s : State} (h : AlarmMoves b s) (x : Axis) : AlarmMoves b (dropAxis x s) := by
  have low : 1 ≤ axisSource x ∧ axisSource x ≤ 13 := by cases x <;> decide
  unfold Machine.dropAxis
  exact ((h.feed_bad none (by omega) (by omega) _ _).feed_bad none (by omega) (by omega) _ _).feed_bad none (by omega)
    (by omega) _ _

include spares

theorem AlarmMoves.leaveFresh {s : State} (h : AlarmMoves b s) (old : TableSet) (e : Fin 16) :
    AlarmMoves b (leaveFresh old s e) :=
  keeps_foldl (fun _ x k => (k.dropAxis none x).skewAgain spares x) _ _ (h.dropSensors none e)

end Before

/-! The steps after the points' reset. -/

/-- The sources handed after the points' reset, the analog channels and the records of wear and level alone differ. -/
structure HandsUnwatched (d t : State) : Prop where
  frame : t = { d with alarm := { d.alarm with sources := t.alarm.sources }, analog := t.analog, attrs := t.attrs }
  source : ∀ n, (n < 16 ∨ 19 < n) ∧ (n < 38 ∨ 53 < n) ∧ (n < 56 ∨ 68 < n) → t.source n = d.source n

section After

variable {d : State} (spares : Spares d.act)

theorem HandsUnwatched.records {s : State} (h : HandsUnwatched d s) (a : Vector AinRun 4) (r : Attrs) :
    HandsUnwatched d { s with analog := a, attrs := r } := by
  obtain ⟨frame, source⟩ := h
  refine ⟨?_, source⟩
  generalize s.alarm.sources = v, s.analog = x, s.attrs = y at frame
  rw [frame]

include spares

theorem HandsUnwatched.feed {s : State} (h : HandsUnwatched d s) {code : Nat}
    (handed : (16 ≤ code ∧ code ≤ 19) ∨ (38 ≤ code ∧ code ≤ 53) ∨ (56 ≤ code ∧ code ≤ 68)) (v : Int) (ok : Bool)
    (trig : Option (List Byte)) : HandsUnwatched d (feed code v ok trig s) := by
  obtain ⟨frame, source⟩ := h
  have act : s.act = d.act := (congrArg State.act frame :)
  rw [feed_unwatched _ _ _ (Spares.unwatched (by rw [act]; exact spares) (.inr handed))]
  refine ⟨?_, fun n free => (setSource_source_ne (by omega) (by omega) ..).trans (source n free)⟩
  unfold State.setSource
  generalize s.source code = old
  generalize s.alarm.sources = v, s.analog = x, s.attrs = y at frame
  rw [frame]

theorem HandsUnwatched.installSource {s : State} (h : HandsUnwatched d s) (old : TableSet) (e : Fin 16) :
    HandsUnwatched d (installSource old e s) := by
  have low := e.isLt
  unfold Machine.installSource
  split
  · split <;> exact h.feed spares (by unfold freshSource; omega) _ _ _
  · exact h

theorem HandsUnwatched.installAnalog {s : State} (h : HandsUnwatched d s) (ch : Fin 4) (o n : AnalogCfg) :
    HandsUnwatched d (installAnalog ch o n s) := by
  have low := ch.isLt
  have set (r : AinRun) : HandsUnwatched d (s.setAin ch r) := h.records _ s.attrs
  unfold Machine.installAnalog
  split
  · exact (set _).feed spares (by omega) _ _ _
  · exact set _

theorem HandsUnwatched.renorm {s : State} (h : HandsUnwatched d s) (i : Fin 13) : HandsUnwatched d (renorm i s) := by
  have low := i.isLt
  have put (r : AttrRun) : HandsUnwatched d (putAttr i r s) := h.records s.analog _
  unfold Machine.renorm
  dsimp only
  rw [setNorm_eq]
  split
  · exact put _
  · exact (put _).feed spares (by omega) _ _ _

end After

theorem installPoints_source (s : State) (code : Nat) : (installPoints s).source code = s.source code := by
  have reset a o b (same : a.sources = s.alarm.sources) :
      ({ s with alarm := a, owed := o, statusOwed := b } : State).source code = s.source code := source_congr same code
  exact reset _ _ _ rfl

/-! The installation. -/

section Parked

variable {u : State} (none : u.heldTrips = []) (spares : Spares u.tables.staging)
include none spares

theorem leftFresh_moves : AlarmMoves (placed u) (leftFresh u) := by
  have held : (placed u).heldTrips = [] := by rw [placed_rest]; exact none
  exact keeps_foldl (fun _ e k => k.leaveFresh held (by rw [placed_act]; exact spares) u.act e) _ _ rfl

theorem renormed_unwatched : HandsUnwatched (installPoints (leftFresh u)) (renormed u) := by
  have left := leftFresh_moves none spares
  have act : (leftFresh u).act = u.tables.staging := (congrArg State.act left :).trans (placed_act u)
  have free : Spares (installPoints (leftFresh u)).act := by
    show Spares (leftFresh u).act
    rw [act]
    exact spares
  generalize hd : installPoints (leftFresh u) = d at free ⊢
  have sources : HandsUnwatched d (rehanded u) := by
    unfold rehanded
    rw [hd]
    exact keeps_foldl (fun _ e k => k.installSource free u.act e) _ _ ⟨rfl, fun _ _ => rfl⟩
  have channels : HandsUnwatched d (resettled u) := keeps_foldl (fun _ ch k => k.installAnalog free ch _ _) _ _ sources
  exact keeps_foldl (fun _ i k => k.renorm free i) _ _ channels

/-- The source of a point in use is as it was when the points were reset. -/
theorem renormed_watched {p : Fin 48} (enabled : (u.tables.staging.points[p]).enabled = true) :
    (renormed u).source (u.tables.staging.points[p]).source
      = (leftFresh u).source (u.tables.staging.points[p]).source := by
  obtain ⟨-, source⟩ := renormed_unwatched none spares
  have apart := spares p _ enabled rfl
  rw [source _ (by omega), installPoints_source]

theorem leftFresh_frame :
    leftFresh u = { switched u with stations := (leftFresh u).stations, sensors := (leftFresh u).sensors
                                    alarm := (leftFresh u).alarm, owed := (leftFresh u).owed
                                    statusOwed := (leftFresh u).statusOwed } := by
  have left := leftFresh_moves none spares
  have base := placed_rest u
  unfold AlarmMoves at left
  generalize leftFresh u = t at left ⊢
  generalize placed u = b at left base
  have stations : t.stations = b.stations := by rw [left]
  rw [stations]
  generalize t.sensors = v, t.alarm = a, t.owed = o, t.statusOwed = d at left ⊢
  rw [left]
  generalize b.stations = st at base ⊢
  rw [base]

/-- In PARKED the whole installation leaves the channels, the trip unit, the mode record and the tester, and the points
stand as the reset left them (R144). -/
theorem install_parked (parked : u.mode = .parked) :
    (install u).brakes = u.brakes ∧ (install u).trip = u.trip ∧ (install u).ctl = u.ctl
      ∧ (install u).tester = u.tester ∧ (install u).tight = u.tight ∧ (install u).walk = u.walk
      ∧ (install u).alarm.list = [] ∧ (∀ p, (install u).alarm.points[p] = installPoint (leftFresh u) p)
      ∧ install u = renormed u := by
  have left := leftFresh_frame none spares
  obtain ⟨frame, -⟩ := renormed_unwatched none spares
  have points (p : Fin 48) : (installPoints (leftFresh u)).alarm.points[p] = installPoint (leftFresh u) p :=
    Vector.getElem_ofFn ..
  have reset : installPoints (leftFresh u) = { leftFresh u with
      alarm := (installPoints (leftFresh u)).alarm, owed := (installPoints (leftFresh u)).owed
      statusOwed := (installPoints (leftFresh u)).statusOwed } := rfl
  have list : (installPoints (leftFresh u)).alarm.list = [] := rfl
  generalize installPoints (leftFresh u) = d at frame points reset list
  have ctl : (renormed u).ctl = u.ctl := by rw [frame, reset, left]; rfl
  have run : install u = renormed u := by
    rw [install_eq]
    refine if_neg ?_
    rw [show (renormed u).mode = u.mode from congrArg ModeCtl.mode ctl, parked]
    nofun
  rw [run]
  refine ⟨?_, ?_, ctl, ?_, ?_, ?_, ?_, fun p => ?_, rfl⟩
  · rw [frame, reset, left]; rfl
  · rw [frame, reset, left]; rfl
  · rw [frame, reset, left]; rfl
  · rw [frame, reset, left]; rfl
  · rw [frame, reset, left]; rfl
  · rw [frame]; exact list
  · rw [← points p, frame]

end Parked

end Sys2Proof.Machine
end

section
/-!
Lemmas for the obligation on ACTIVATE: what the answered installation shows, part by part (R197).
-/

namespace Sys2Proof.Machine

/-- What the ring's part of a step leaves of the records an installation writes. -/
theorem onlyRing_records {w t : State} (h : OnlyRing w t) :
    t.stations = w.stations ∧ t.analog = w.analog ∧ t.attrs = w.attrs ∧ t.alarm = w.alarm
      ∧ ∀ code, t.source code = w.source code := by
  unfold OnlyRing at h
  have alarm : t.alarm = w.alarm := (congrArg State.alarm h :)
  exact ⟨(congrArg State.stations h :), (congrArg State.analog h :), (congrArg State.attrs h :), alarm,
    source_congr (by rw [alarm])⟩

/-- The reset of a point in PARKED (R144). -/
theorem installPoint_parked {s : State} {p : Fin 48} {c : PointCfg} {src : Source} (hc : s.act.points[p] = c)
    (parked : s.mode = .parked) (change : s.changeSource p = src) :
    installPoint s p =
      { state := if c.enabled = true ∧ c.mask.getLsbD Mode.parked.code = true then .normal else .disarmed
        mark := false, tDelay := none, tShelf := none, since := none
        chValue := src.value, chValid := src.valid, chTime := s.now } := by
  have armed : s.armed p = c.mask.getLsbD Mode.parked.code := by
    unfold State.armed
    rw [parked, hc]
    rfl
  unfold installPoint
  dsimp only
  rw [change, armed, hc]
  congr 1
  exact if_congr Bool.and_eq_true_iff rfl rfl

section Answered

variable {u t : State} (ends : OnlyRing (install u) t)
include ends

/-- An entry keeps its running state with its number, and is started or lost with a new one (R21). -/
theorem activated_station (e : Fin 16) : t.stations[e] =
    if (u.act.stations[e]).number = (u.tables.staging.stations[e]).number then u.stations[e]
    else if (u.tables.staging.stations[e]).number = 0 then none
      else some (startedStation u.now (u.tables.staging.stations[e]).timeout) := by
  obtain ⟨stations, -⟩ := onlyRing_records ends
  rw [stations, (Installs.install u).stations]
  exact placed_station u e

/-- A channel whose scale changed settles anew (R147, R149). -/
theorem activated_channel_anew {ch : Fin 4} (h : ScaleChanged u.act.analog[ch] u.tables.staging.analog[ch]) :
    t.analog[ch] = resetAin
      ∧ t.source (16 + ch.val) = { value := (u.source (16 + ch.val)).value, valid := false } := by
  obtain ⟨-, analog, -, -, source⟩ := onlyRing_records ends
  rw [source, analog]
  exact install_channel_anew h

/-- Any other channel keeps its record but for what the new entry resets (R147). -/
theorem activated_channel_kept {ch : Fin 4} (h : ¬ScaleChanged u.act.analog[ch] u.tables.staging.analog[ch])
    {limit fatigue : Bool}
    (hl : limit = true ↔ LimitChanged u.act.analog[ch] u.tables.staging.analog[ch])
    (hf : fatigue = true ↔ FatigueChanged u.act.analog[ch] u.tables.staging.analog[ch]) :
    t.analog[ch] = ainKept limit fatigue u.analog[ch] ∧ t.source (16 + ch.val) = u.source (16 + ch.val) := by
  obtain ⟨-, analog, -, -, source⟩ := onlyRing_records ends
  rw [source, analog]
  exact install_channel_kept h hl hf

/-- A record's normalised value is worked out again, and a change is handed (R172, R173). -/
theorem activated_record (i : Fin 13) :
    t.attrs.recs[i] = normed u.attrs.recs[i] (normUnder u.tables.staging i u.attrs.recs[i])
      ∧ (normUnder u.tables.staging i u.attrs.recs[i] ≠ (u.attrs.recs[i]).norm →
          t.source (56 + i.val) = { value := normUnder u.tables.staging i u.attrs.recs[i], valid := true }) := by
  have shown := install_record i u
  obtain ⟨-, -, attrs, -, source⟩ := onlyRing_records ends
  rw [source, attrs]
  clear ends attrs source
  generalize install u = v at shown ⊢
  exact ⟨congrArg Prod.fst shown, fun moved => (congrArg Prod.snd shown).trans (if_neg moved)⟩

/-- In PARKED with the new points' sources spared, every point is as the reset left it (R144). -/
theorem activated_point (none : u.heldTrips = []) (spares : Spares u.tables.staging) (parked : u.mode = .parked)
    (p : Fin 48) {c : PointCfg} (hc : c = u.tables.staging.points[p]) {src : Source}
    (hs : src = if c.enabled then t.source c.source else { value := 0, valid := false }) :
    t.alarm.points[p] =
      { state := if c.enabled = true ∧ c.mask.getLsbD Mode.parked.code = true then .normal else .disarmed
        mark := false, tDelay := Option.none, tShelf := Option.none, since := Option.none
        chValue := src.value, chValid := src.valid, chTime := u.now } := by
  obtain ⟨-, -, -, -, -, -, -, points, run⟩ := install_parked none spares parked
  obtain ⟨-, -, -, alarm, sources⟩ := onlyRing_records ends
  have left := leftFresh_frame none spares
  have act : (leftFresh u).act = u.tables.staging := by rw [left]; rfl
  have now : (leftFresh u).now = u.now := by rw [left]; rfl
  have mode : (leftFresh u).mode = .parked := by rw [left]; exact parked
  have change : (leftFresh u).changeSource p = src := by
    rw [hs, hc]
    unfold State.changeSource
    rw [act]
    by_cases enabled : (u.tables.staging.points[p]).enabled = true
    · rw [if_pos enabled, if_pos enabled, sources, run, renormed_watched none spares enabled]
    · rw [if_neg enabled, if_neg enabled]
      rfl
  have reset := installPoint_parked (c := c) (by rw [act, hc]) mode change
  rw [now] at reset
  rw [← reset, ← points p]
  clear points run left act now mode change reset sources ends
  generalize install u = w at alarm ⊢
  rw [alarm]

end Answered

end Sys2Proof.Machine
end

section
/-!
Lemmas for the obligation on ACTIVATE: the refusals, and the parts of an installation together (R196, R197).
-/

namespace Sys2Proof.Machine

/-! The refusals. -/

theorem activate_elsewhere (rq : Requester) {u : State} (init : u.mode ≠ .init) (parked : u.mode ≠ .parked) :
    activate rq u = answer rq .wrongMode [] false u :=
  if_neg fun h => h.elim init parked

theorem activate_busy (rq : Requester) {u : State} (mode : u.mode = .init ∨ u.mode = .parked)
    (busy : u.store.state ≠ .idle) : activate rq u = answer rq .busy [] false u :=
  (if_pos mode).trans (if_pos ((storeBusy_iff u).mpr busy))

theorem activate_checked (rq : Requester) {u : State} (mode : u.mode = .init ∨ u.mode = .parked)
    (idle : u.store.state = .idle) {a e : Nat} (fails : u.activateFailure = some (a, e)) :
    activate rq u = answer rq .checkFailed [byte a, byte e] false u := by
  unfold activate
  rw [if_pos mode, storeBusy_idle idle, if_neg Bool.false_ne_true, fails]

theorem activate_installs (rq : Requester) {u : State} (mode : u.mode = .init ∨ u.mode = .parked)
    (idle : u.store.state = .idle) (passes : u.activateFailure = none) :
    activate rq u = answer rq .ok [] false (install u) := by
  unfold activate
  rw [if_pos mode, storeBusy_idle idle, if_neg Bool.false_ne_true, passes]

/-! The parts. -/

section Answered

variable {u t : State}

/-- What the ring's part of a step leaves of the rest that an installation leaves standing. -/
theorem onlyRing_installs {b w : State} (h : Installs b w) (ends : OnlyRing w t) :
    t.tables = b.tables ∧ t.feedback = b.feedback ∧ t.store = b.store ∧ b.trip.queue <+: t.trip.queue
      ∧ (∀ c, (b.brakes.get c).state.rests → t.brakes.get c = b.brakes.get c)
      ∧ (b.mode ≠ .testing → t.tester = b.tester) := by
  unfold OnlyRing at ends
  have tester : t.tester = w.tester := (congrArg State.tester ends :)
  have brakes : t.brakes = w.brakes := (congrArg State.brakes ends :)
  have trip : t.trip = w.trip := (congrArg State.trip ends :)
  exact ⟨(congrArg State.tables ends :).trans h.tables, (congrArg State.feedback ends :).trans h.feedback,
    (congrArg State.store ends :).trans h.store, by rw [trip]; exact h.queue,
    fun c r => by rw [brakes]; exact h.rest.kept c r, fun m => tester.trans (h.tester m).2⟩

/-- What an installation leaves standing (R197). -/
theorem activated_stands (ends : OnlyRing (install u) t) (mode : u.mode = .init ∨ u.mode = .parked) :
    t.tables = (switched u).tables ∧ t.feedback = u.feedback ∧ t.tester.log = u.tester.log ∧ t.store = u.store
      ∧ u.trip.queue <+: t.trip.queue
      ∧ ∀ c, (u.brakes.get c).state.rests → t.brakes.get c = u.brakes.get c := by
  obtain ⟨tables, feedback, store, queue, brakes, tester⟩ := onlyRing_installs (Installs.install u) ends
  have frame := placed_rest u
  generalize placed u = b at *
  have outside : b.mode ≠ .testing := by
    rw [frame]
    show u.mode ≠ .testing
    rcases mode with m | m <;> (rw [m]; nofun)
  have log := tester outside
  rw [frame] at tables feedback store queue brakes log
  exact ⟨tables, feedback, congrArg Tester.log log, store, queue, brakes⟩

theorem install_owed (p : Fin 48) (u : State) : PointOwed p (install u) := by
  have reset : PointOwed p (installPoints (leftFresh u)) := Vector.getElem_replicate ..
  generalize hd : installPoints (leftFresh u) = d at reset
  have sources : EventLeaves d (rehanded u) := by
    unfold rehanded
    rw [hd]
    refine EventLeaves.foldl (fun s e => ?_) _ _
    unfold installSource
    split
    · split <;> exact .feed ..
    · exact .refl s
  have channels : EventLeaves (rehanded u) (resettled u) := by
    refine EventLeaves.foldl (fun s ch => ?_) _ _
    have set (r : AinRun) : EventLeaves s (s.setAin ch r) := .of_eq rfl rfl rfl
    unfold installAnalog
    split
    · exact (set _).trans (.feed ..)
    · exact set _
  have records : EventLeaves (resettled u) (renormed u) := by
    refine EventLeaves.foldl (fun s i => ?_) _ _
    have put (r : AttrRun) : EventLeaves s (putAttr i r s) := .of_eq rfl rfl rfl
    unfold renorm
    dsimp only
    rw [setNorm_eq]
    split
    · exact put _
    · exact (put _).trans (.feed ..)
  rw [install_eq]
  exact (((sources.trans channels).trans records).trans (.initTest _)).owed p reset

/-- Every point is in the owed set or has its notice out (R144). -/
theorem answered_notice (rq : Requester) {p : Fin 48} {w : State} (owed : PointOwed p w)
    (ht : t = finish (answer rq .ok [] false w)) :
    t.owed[p] = true ∨ (∃ e ∈ t.ring.ins, e.cls = .alarm p) ∨ ∃ g, t.ring.sending = some (.inserted (.alarm p) g) := by
  rw [ht]
  refine finish_alarmNotice ?_
  rw [answer_rest]
  exact owed

/-- A channel whose scale stands hands nothing (R147). -/
theorem activated_channel_source (ends : OnlyRing (install u) t) {ch : Fin 4}
    (h : ¬ScaleChanged u.act.analog[ch] u.tables.staging.analog[ch]) :
    t.source (16 + ch.val) = u.source (16 + ch.val) := by
  classical
  exact (activated_channel_kept ends h (limit := decide _) (fatigue := decide _) decide_eq_true_iff
    decide_eq_true_iff).2

/-- In PARKED with the new points' sources spared, nothing trips (R144). -/
theorem activated_parked (ends : OnlyRing (install u) t) (none : u.heldTrips = [])
    (spares : Spares u.tables.staging) (parked : u.mode = .parked) :
    t.brakes = u.brakes ∧ t.trip = u.trip ∧ t.ctl = u.ctl ∧ t.tester = u.tester ∧ t.tight = u.tight
      ∧ t.walk = u.walk ∧ t.alarm.list = [] := by
  obtain ⟨brakes, trip, ctl, tester, tight, walk, list, -⟩ := install_parked none spares parked
  generalize install u = w at *
  unfold OnlyRing at ends
  generalize t.ring = r, t.owed = o, t.statusOwed = b at ends
  rw [ends]
  exact ⟨brakes, trip, ctl, tester, tight, walk, list⟩

end Answered

end Sys2Proof.Machine
end

section
/-! ACTIVATE. -/

namespace Sys2Proof.Proofs

open Sys2Proof.Machine

theorem exec_activate {h : Header} {tag : Half} {s u : State} {f : Frame} (hf : f = requestFrame h 5#8 tag [])
    (taken : s.requests f = true) (hu : u = admitted f s) :
    exec (.activate h tag) s = .next (finish (activate (s.asker f) u)) := by
  subst hf
  rw [exec_request (r := .activate) rfl rfl rfl hu taken]
  unfold carryOut
  rfl

/-- Settles O33: the tests are spelled in order, and every step of the installation writes its own records and hands
what a trip may follow, which leaves the rest. -/
theorem activateInstallsStaging : Obligations.ActivateInstallsStaging := by
  unfold Obligations.ActivateInstallsStaging
  refine ⟨activateFailure_first, fun h tag s u f hf taken hu => ⟨_, exec_activate hf taken hu,
    fun init parked => ?_, fun mode busy => ?_, fun mode idle a e fails => ?_, fun mode idle passes => ?_⟩⟩
  · exact answered_onlyRing (by rw [activate_elsewhere _ init parked])
  · exact answered_onlyRing (by rw [activate_busy _ mode busy])
  · exact answered_onlyRing (by rw [activate_checked _ mode idle fails])
  generalize ht : finish (activate (s.asker f) u) = t
  rw [activate_installs _ mode idle passes] at ht
  obtain ⟨answered, ends⟩ := answered_onlyRing ht.symm
  obtain ⟨tables, feedback, log, store, queue, brakes⟩ := activated_stands ends mode
  refine ⟨answered, tables, fun i => ?_, feedback, log, store, queue, brakes, fun e same => ?_, fun e other => ?_,
    fun ch o n r ho hn hr => ⟨fun changed => ?_, fun ref gain offset => ?_⟩, fun i r hr => ?_,
    fun p => answered_notice _ (install_owed p u) ht.symm, fun parked none spares => ?_⟩
  · rw [(activated_record ends i).1]
    rfl
  · rw [activated_station ends, if_pos same]
  · rw [activated_station ends, if_neg other]
    rfl
  · subst ho hn
    exact activated_channel_anew ends changed
  · subst ho hn hr
    have stands : ¬ScaleChanged u.act.analog[ch] u.tables.staging.analog[ch] :=
      fun changed => changed.elim (fun k => k ref) fun rest => rest.elim (fun k => k gain) fun k => k offset
    exact ⟨activated_channel_source ends stands, fun limit fatigue hl hf => (activated_channel_kept ends stands hl hf).1⟩
  · subst hr
    obtain ⟨record, handed⟩ := activated_record ends i
    exact ⟨_, record, normUnder_level _, normUnder_wear _, handed⟩
  · obtain ⟨brakes, trip, ctl, tester, tight, walk, list⟩ := activated_parked ends none spares parked
    exact ⟨brakes, trip, ctl, tester, tight, walk, list, fun p c hc src hs =>
      activated_point ends none spares parked p hc hs⟩

end Sys2Proof.Proofs
end

section
/-!
Lemmas for the obligations on the power-on reset and on RESTART: the first updates are handed in INIT, and while they
raise no trip they change the points that watch their sources alone (R123, R201).
-/

namespace Sys2Proof.Machine

/-! The points that an update evaluates. -/

/-- Points in use alone move, with the marks of the notices and the trips held. -/
structure WatchedMove (s t : State) : Prop where
  frame : t = { s with alarm := { s.alarm with points := t.alarm.points, list := t.alarm.list }, owed := t.owed
                       statusOwed := t.statusOwed, heldTrips := t.heldTrips }
  idle : ∀ q : Fin 48, (s.act.points[q]).enabled = false →
    t.alarm.points[q] = s.alarm.points[q] ∧ (q ∈ t.alarm.list → q ∈ s.alarm.list) ∧ t.owed[q] = s.owed[q]

namespace WatchedMove

theorem refl (s : State) : WatchedMove s s := ⟨rfl, fun _ _ => ⟨rfl, id, rfl⟩⟩

theorem act {s t : State} (h : WatchedMove s t) : t.act = s.act := (congrArg State.act h.frame :)

theorem mode {s t : State} (h : WatchedMove s t) : t.mode = s.mode := (congrArg State.mode h.frame :)

theorem trans {a b c : State} (h : WatchedMove a b) (k : WatchedMove b c) : WatchedMove a c := by
  refine ⟨?_, fun q unused => ?_⟩
  · have first := h.frame
    have next := k.frame
    clear h k
    generalize c.alarm.points = p, c.alarm.list = l, c.owed = o, c.statusOwed = d, c.heldTrips = w at next ⊢
    rw [next, first]
  · obtain ⟨points, list, owed⟩ := h.idle q unused
    obtain ⟨points', list', owed'⟩ := k.idle q (by rw [h.act]; exact unused)
    exact ⟨points'.trans points, fun m => list (list' m), owed'.trans owed⟩

theorem held (s : State) (ts : List TripIn) : WatchedMove s { s with heldTrips := ts } :=
  ⟨rfl, fun _ _ => ⟨rfl, id, rfl⟩⟩

theorem setPoint {p : Fin 48} {s : State} (used : (s.act.points[p]).enabled = true) (st : PState) (m : Bool)
    (timer : Option Nat) : WatchedMove s (setPoint p st m timer s) := by
  unfold Machine.setPoint
  dsimp only
  split
  · exact refl s
  · refine ⟨rfl, fun q unused => ?_⟩
    have ne : q ≠ p := fun e => by rw [e, used] at unused; cases unused
    have apart : p.val ≠ q.val := fun e => ne (Fin.ext e.symm)
    refine ⟨Vector.getElem_set_ne p.isLt q.isLt apart, fun mem => ?_, Vector.getElem_set_ne p.isLt q.isLt apart⟩
    dsimp only at mem
    split at mem
    · split at mem
      · exact mem
      · exact (List.mem_append.mp mem).resolve_right fun one => ne (List.mem_singleton.mp one)
    · exact (List.mem_filter.mp mem).1

theorem evalPoint {p : Fin 48} {s : State} (used : (s.act.points[p]).enabled = true) (trig : Option (List Byte)) :
    WatchedMove s (evalPoint trig p s) := by
  have active : WatchedMove s (activatePoint trig p s) := by
    unfold activatePoint
    dsimp only
    split
    · exact (setPoint used ..).trans (held _ _)
    · exact setPoint used ..
  unfold Machine.evalPoint
  dsimp only
  repeat' split
  all_goals first | exact refl s | exact active | exact setPoint used ..

theorem rearmPoints (s : State) : WatchedMove s (rearmPoints s) := by
  refine keeps_foldl (P := WatchedMove s) (fun u p h => ?_) _ _ (refl s)
  rw [rearmPoint_eq]
  split
  · rename_i st moves
    exact h.trans (setPoint (rearmTo_some moves).1 ..)
  · exact h

end WatchedMove

/-! While the first updates are evaluated. -/

/-- The updates that wait are those of the trip record sources, and none waits before a trip. -/
def EarlyWaits (s : State) : Prop :=
  ∃ us, s.updates = some us ∧ (∀ u ∈ us, (u.code = 54 ∨ u.code = 55) ∧ u.valid = true) ∧ (s.mode = .init → us = [])

/-- The state `s` of a start-up that was `k` before some of the first updates: before a trip the mode record and the trip
unit are as they were, and a trip leaves what no trip record, mode change or point in use writes. -/
structure Begun (k s : State) : Prop where
  mode : s.mode = .init ∨ s.mode = .tripped
  tight : s.tight = k.tight
  walk : s.walk = k.walk
  tester : s.tester = k.tester
  brakes : s.brakes = k.brakes
  tables : s.tables = k.tables
  ring : s.ring = k.ring
  lines : s.trip.field = .deEnergised ∧ s.trip.brake = .deEnergised
  queue : k.trip.queue <+: s.trip.queue
  next : k.trip.next ≤ s.trip.next
  count : k.trip.notStored ≤ s.trip.notStored
  begun : s.mode = .init → s.ctl = k.ctl ∧ s.trip = k.trip
  idle : ∀ q : Fin 48, (k.act.points[q]).enabled = false →
    s.alarm.points[q] = k.alarm.points[q] ∧ (q ∈ s.alarm.list → q ∈ k.alarm.list) ∧ s.owed[q] = k.owed[q]

/-- One of the first updates while it is evaluated, `k` being the state in which its source has taken its value: before
a trip the sources are as they were, and after one the updates it hands wait. -/
structure Early (k s : State) : Prop extends Begun k s where
  source : ∀ c, c ≠ 54 → c ≠ 55 → s.source c = k.source c
  valid : ∀ c, (k.source c).valid = true → (s.source c).valid = true
  still : s.mode = .init → s.alarm.sources = k.alarm.sources
  waits : EarlyWaits s

namespace Early

variable {k s : State}

theorem moves {t : State} (h : Early k s) (m : WatchedMove s t) : Early k t := by
  have act : s.act = k.act := congrArg Tables.active h.tables
  have frame := m.frame
  have idle := m.idle
  clear m
  have source (c : Nat) : t.source c = s.source c := source_congr (by rw [frame]) c
  have ctl : t.ctl = s.ctl := by rw [frame]
  have trip : t.trip = s.trip := by rw [frame]
  have mode : t.mode = s.mode := congrArg ModeCtl.mode ctl
  refine ⟨⟨by rw [mode]; exact h.mode, ?_, ?_, ?_, ?_, ?_, ?_, by rw [trip]; exact h.lines, by rw [trip]; exact h.queue,
    by rw [trip]; exact h.next, by rw [trip]; exact h.count, fun init => ?_, fun q unused => ?_⟩,
    fun c a b => (source c).trans (h.source c a b), fun c v => by rw [source]; exact h.valid c v, fun init => ?_, ?_⟩
  · rw [frame]; exact h.tight
  · rw [frame]; exact h.walk
  · rw [frame]; exact h.tester
  · rw [frame]; exact h.brakes
  · rw [frame]; exact h.tables
  · rw [frame]; exact h.ring
  · rw [mode] at init
    obtain ⟨same, unit⟩ := h.begun init
    exact ⟨ctl.trans same, trip.trans unit⟩
  · obtain ⟨points, list, owed⟩ := idle q (by rw [act]; exact unused)
    obtain ⟨points', list', owed'⟩ := h.idle q unused
    exact ⟨points.trans points', fun mem => list' (list mem), owed.trans owed'⟩
  · rw [mode] at init
    rw [frame]
    exact h.still init
  · have updates : t.updates = s.updates := by rw [frame]
    unfold EarlyWaits
    rw [updates, mode]
    exact h.waits

/-- A trip unit whose lines are de-energised and whose records only grew, in a machine that has tripped. -/
theorem trips (h : Early k s) {t : State} (tripped : t.mode = .tripped) {u : Trip}
    (lines : u.field = .deEnergised ∧ u.brake = .deEnergised) (queue : s.trip.queue <+: u.queue)
    (next : s.trip.next ≤ u.next) (count : s.trip.notStored ≤ u.notStored) {us : List Update}
    (waits : ∀ w, s.updates = some w → ∃ more, us = w ++ more
      ∧ ∀ x ∈ more, (x.code = 54 ∨ x.code = 55) ∧ x.valid = true)
    (frame : t = { s with ctl := t.ctl, trip := u, updates := some us, statusOwed := t.statusOwed }) : Early k t := by
  have source (c : Nat) : t.source c = s.source c := source_congr (by rw [frame]) c
  have trip : t.trip = u := by rw [frame]
  have never (init : t.mode = .init) : False := by
    rw [tripped] at init
    cases init
  refine ⟨⟨.inr tripped, ?_, ?_, ?_, ?_, ?_, ?_, by rw [trip]; exact lines, by rw [trip]; exact h.queue.trans queue,
    by rw [trip]; exact h.next.trans next, by rw [trip]; exact h.count.trans count, fun init => (never init).elim,
    fun q unused => ?_⟩, fun c a b => (source c).trans (h.source c a b), fun c v => by rw [source]; exact h.valid c v,
    fun init => (never init).elim, ?_⟩
  · rw [frame]; exact h.tight
  · rw [frame]; exact h.walk
  · rw [frame]; exact h.tester
  · rw [frame]; exact h.brakes
  · rw [frame]; exact h.tables
  · rw [frame]; exact h.ring
  · rw [frame]; exact h.idle q unused
  · obtain ⟨w, updates, codes, -⟩ := h.waits
    obtain ⟨more, rfl, new⟩ := waits w updates
    refine ⟨w ++ more, by rw [frame], fun x mem => ?_, fun init => (never init).elim⟩
    exact (List.mem_append.mp mem).elim (codes x) (new x)

/-- A trip unit whose lines are de-energised, in a machine that has tripped, with nothing handed. -/
theorem lined (h : Early k s) {t : State} (tripped : t.mode = .tripped) {u : Trip}
    (lines : u.field = .deEnergised ∧ u.brake = .deEnergised) (queue : u.queue = s.trip.queue)
    (next : u.next = s.trip.next) (count : u.notStored = s.trip.notStored)
    (frame : t = { s with ctl := t.ctl, trip := u, statusOwed := t.statusOwed }) : Early k t := by
  obtain ⟨w, updates, -⟩ := h.waits
  refine h.trips tripped lines (by rw [queue]) (Nat.le_of_eq next.symm) (Nat.le_of_eq count.symm) (us := w)
    (fun w' same => ⟨[], ?_, nofun⟩) ?_
  · rw [updates] at same
    rw [List.append_nil, Option.some.inj same]
  · rw [← updates]
    exact frame

/-- The lines of a trip, in a machine that has tripped (R157 step 3). -/
theorem deEnergise (h : Early k s) (tripped : s.mode = .tripped) (a : TripAction) : Early k (deEnergise a s) := by
  have brake : (if a = .both then Line.deEnergised else s.trip.brake) = .deEnergised := by
    split
    · rfl
    · exact h.lines.2
  exact h.lined (u := { s.trip with field := .deEnergised, brake := if a = .both then .deEnergised else s.trip.brake })
    tripped ⟨rfl, brake⟩ rfl rfl rfl rfl

/-- The entry to TRIPPED (R31). -/
theorem modeSteps (h : Early k s) : Early k (modeSteps .tripped s) := by
  have entered : Early k (entered .tripped s) :=
    h.lined (entered_mode .tripped s) h.lines rfl rfl rfl (by rw [entered_eq])
  have rearmed := entered.moves (.rearmPoints _)
  have dig : s.mode ≠ .dig := by rcases h.mode with m | m <;> (rw [m]; nofun)
  have still (u : State) : movedWalk s.mode .tripped u = u.walk := by
    unfold movedWalk
    rcases h.mode with m | m <;> (rw [m]; rfl)
  have tripped := (WatchedMove.rearmPoints (Machine.entered .tripped s)).mode.trans (entered_mode .tripped s)
  rw [modeSteps_eq, if_neg fun c => nomatch c.2]
  unfold reworked
  generalize rearmPoints (Machine.entered .tripped s) = r at rearmed tripped ⊢
  have worked : tightModeChange s.mode (walkModeChange s.mode .tripped r) = r := by
    rw [walkModeChange_eq (new := .tripped) _ nofun, still]
    exact tightModeChange_still fun m => absurd m dig
  rw [worked]
  exact rearmed.lined (t := oweStatus r) tripped rearmed.lines rfl rfl rfl rfl

/-- The trip set-all finds every channel SET, SETTING or in FAULT (R63). -/
theorem tripSetAll (h : Early k s) (rests : AllRest k) : Early k (tripSetAll s) := by
  have set := (tripSetAll_sets s).2
  have brakes : (Machine.tripSetAll s).brakes = s.brakes :=
    perChan_ext fun c => (RestKept.tripSetAll s).kept c (by rw [h.brakes]; exact rests.rests c)
  rw [brakes] at set
  exact h.moves ⟨by rw [set], fun q _ => by rw [set]; exact ⟨rfl, id, rfl⟩⟩

/-- A record appended, or counted as not stored (R163). -/
theorem appendRecord (h : Early k s) (tripped : s.mode = .tripped) (r : TripRecord) : Early k (appendRecord r s) := by
  obtain ⟨w, updates, -⟩ := h.waits
  have lines := h.lines
  have handed (u : Trip) (field : u.field = s.trip.field) (brake : u.brake = s.trip.brake) (queue : s.trip.queue <+: u.queue)
      (next : s.trip.next ≤ u.next) (count : s.trip.notStored ≤ u.notStored) {code : Nat}
      (of : code = 54 ∨ code = 55) (v : Int) :
      Early k (feedHeld code v true none (oweStatus { s with trip := u })) := by
    unfold feedHeld
    rw [show (oweStatus { s with trip := u }).updates = some w from updates]
    refine h.trips (t := { oweStatus { s with trip := u } with
      updates := some (w ++ [{ code := code, value := v, valid := true, trig := none }]) }) tripped
      (by rw [field, brake]; exact lines) queue next count (fun w' same =>
        ⟨[{ code := code, value := v, valid := true, trig := none }], ?_, fun x mem => ?_⟩) rfl
    · rw [updates] at same
      rw [Option.some.inj same]
    · rw [List.mem_singleton.mp mem]
      exact ⟨of, rfl⟩
  have rises : s.trip.next ≤ if s.trip.next < 4294967295 then s.trip.next + 1 else s.trip.next := by
    split <;> omega
  unfold Machine.appendRecord
  dsimp only
  generalize (if s.trip.next < 4294967295 then s.trip.next + 1 else s.trip.next) = n at rises ⊢
  split
  · exact handed { s.trip with queue := s.trip.queue ++ [{ r with number := s.trip.next }], next := n } rfl rfl
      (List.prefix_append ..) rises (Nat.le_refl _) (.inl rfl) _
  · split
    · exact handed { s.trip with notStored := s.trip.notStored + 1, next := n } rfl rfl (List.prefix_refl _) rises
        (Nat.le_succ _) (.inr rfl) _
    · exact h.trips (t := { s with trip := { s.trip with next := n } }) (u := { s.trip with next := n }) tripped lines
        (List.prefix_refl _) rises (Nat.le_refl _) (us := w)
        (fun w' same => ⟨[], by rw [updates] at same; rw [List.append_nil, Option.some.inj same], nofun⟩)
        (by rw [← updates])

theorem takeTrip (h : Early k s) (rests : AllRest k) (t : TripIn) : Early k (takeTrip t s) := by
  unfold Machine.takeTrip
  split
  · rename_i tripped
    exact (h.deEnergise tripped t.action).appendRecord tripped _
  · have steps := h.modeSteps
    have tripped : (Machine.modeSteps .tripped s).mode = .tripped := modeSteps_mode (new := .tripped) nofun s
    have lines := steps.deEnergise tripped t.action
    have set := lines.tripSetAll rests
    have still : s.mode ≠ .testing := by rcases h.mode with m | m <;> (rw [m]; nofun)
    unfold firstTrip
    dsimp only
    rw [if_neg still]
    refine set.appendRecord ?_ _
    rw [(tripSetAll_sets _).2]
    exact tripped

theorem drainTrips (n : Nat) (rests : AllRest k) : ∀ {s}, Early k s → Early k (drainTrips n s) := by
  induction n with
  | zero => exact fun h => h.moves (.held _ _)
  | succ n ih =>
    intro s h
    unfold Machine.drainTrips
    split
    · exact h
    · exact ih ((h.moves (.held _ _)).takeTrip rests _)

theorem evaluated (h : Early k s) (rests : AllRest k) {p : Fin 48} (used : (k.act.points[p]).enabled = true)
    (trig : Option (List Byte)) : Early k (drain (evalPoint trig p s)) := by
  have act : s.act = k.act := congrArg Tables.active h.tables
  exact drainTrips 256 rests (h.moves (.evalPoint (by rw [act]; exact used) trig))

/-- The points of an update evaluated. -/
theorem points (h : Early k s) (rests : AllRest k) (trig : Option (List Byte)) {l : List (Fin 48)}
    (on : ∀ p ∈ l, (k.act.points[p]).enabled = true) :
    Early k (l.foldl (fun s p => drain (evalPoint trig p s)) s) := by
  induction l generalizing s with
  | nil => exact h
  | cons p l ih =>
    exact ih (h.evaluated rests (on p List.mem_cons_self) trig) fun q mem => on q (List.mem_cons_of_mem _ mem)

end Early

end Sys2Proof.Machine
end

section
/-!
Lemmas for the obligations on the power-on reset and on RESTART: what each first update leaves, and the chain of them
(R123, R201).
-/

namespace Sys2Proof.Machine

/-! One update. -/

theorem Early.self {k : State} (mode : k.mode = .init ∨ k.mode = .tripped)
    (lines : k.trip.field = .deEnergised ∧ k.trip.brake = .deEnergised) (updates : k.updates = some []) : Early k k :=
  ⟨⟨mode, rfl, rfl, rfl, rfl, rfl, rfl, lines, List.prefix_refl _, Nat.le_refl _, Nat.le_refl _, fun _ => ⟨rfl, rfl⟩,
    fun _ _ => ⟨rfl, id, rfl⟩⟩, fun _ _ _ => rfl, fun _ => id, fun _ => rfl, [], updates, nofun, fun _ => rfl⟩

/-- The points of an update, evaluated from the state in which its source has taken its value. -/
theorem Early.update {k s : State} (h : Early k s) (rests : AllRest k) (code : Nat) (trig : Option (List Byte)) :
    Early k ((s.updatePoints code).foldl (fun s p => drain (evalPoint trig p s)) s) := by
  have act : s.act = k.act := congrArg Tables.active h.tables
  refine h.points rests trig fun p mem => ?_
  rw [← act]
  exact ((mem_pointsOn code).mp (mem_updatePoints.mp mem).1).1

/-- An update that a trip has handed, evaluated behind the one that raised it. -/
theorem Early.takeUpdate {k s : State} (h : Early k s) (rests : AllRest k) {u : Update} {us : List Update}
    (next : s.updates = some (u :: us)) : Early k (takeUpdate u { s with updates := some us }) := by
  obtain ⟨w, updates, codes, quiet⟩ := h.waits
  obtain rfl : w = u :: us := Option.some.inj (updates.symm.trans next)
  obtain ⟨own, valid⟩ := codes u List.mem_cons_self
  have tripped : s.mode = .tripped := h.mode.resolve_left fun init => nomatch quiet init
  have never (init : s.mode = .init) : False := by
    rw [tripped] at init
    cases init
  have set : Early k (State.setSource { s with updates := some us } u.code u.value u.valid) := by
    refine ⟨⟨h.mode, h.tight, h.walk, h.tester, h.brakes, h.tables, h.ring, h.lines, h.queue, h.next, h.count, h.begun,
      h.idle⟩, fun c a b => ?_, fun c v => ?_, fun init => (never init).elim, us, rfl,
      fun x mem => codes x (List.mem_cons_of_mem _ mem), fun init => (never init).elim⟩
    · refine (setSource_source_ne (by omega) (by omega) ..).trans (h.source c a b)
    · by_cases same : c = u.code
      · rw [same, setSource_source_same (by omega) (by omega)]
        exact valid
      · rw [setSource_source_ne same (by omega)]
        exact h.valid c v
  exact set.update rests u.code u.trig

theorem Early.takeUpdates (n : Nat) {k : State} (rests : AllRest k) : ∀ {s}, Early k s → Early k (takeUpdates n s) := by
  induction n with
  | zero => exact fun h => h
  | succ n ih =>
    intro s h
    unfold Machine.takeUpdates
    split
    · rename_i next
      exact ih (h.takeUpdate rests next)
    · exact h

/-- A first update leaves the start-up begun, hands its own source, and touches no other but those of the trip records
after a trip. -/
structure FirstFed (code : Nat) (v : Int) (ok : Bool) (s t : State) : Prop extends Begun s t where
  source : ∀ c, c ≠ code → c ≠ 54 → c ≠ 55 → t.source c = s.source c
  valid : ∀ c, c ≠ code → (s.source c).valid = true → (t.source c).valid = true
  own : ok = true → (t.source code).valid = true
  still : t.mode = .init → t.alarm.sources = (s.setSource code v ok).alarm.sources

theorem feed_first {code : Nat} (pos : 1 ≤ code) (top : code ≤ 79) (v : Int) (ok : Bool) (trig : Option (List Byte))
    {s : State} (mode : s.mode = .init ∨ s.mode = .tripped)
    (lines : s.trip.field = .deEnergised ∧ s.trip.brake = .deEnergised) (rests : AllRest s) :
    FirstFed code v ok s (feed code v ok trig s) := by
  generalize hk : waiting (some []) (s.setSource code v ok) = k
  have rests' : AllRest k := by
    rw [← hk]
    exact ⟨rests.rests⟩
  have begun : Early k k := by
    rw [← hk]
    exact Early.self mode lines rfl
  have taken : Early k (takeUpdate { code := code, value := v, valid := ok, trig := trig } (waiting (some []) s)) := by
    have run := begun.update rests' code trig
    rw [← hk] at run ⊢
    exact run
  have all := taken.takeUpdates 255 rests'
  rw [feed_eq]
  generalize takeUpdates 255 _ = r at all ⊢
  rw [← hk] at all
  have apart {c : Nat} (h : c ≠ code) : (waiting (some []) (s.setSource code v ok)).source c = s.source c :=
    setSource_source_ne h pos v ok s
  refine ⟨⟨all.mode, all.tight, all.walk, all.tester, all.brakes, all.tables, all.ring, all.lines, all.queue, all.next,
    all.count, all.begun, all.idle⟩, fun c own a b => (all.source c a b).trans (apart own),
    fun c own v => all.valid c (by rw [apart own]; exact v), fun handed => all.valid code ?_, all.still⟩
  rw [show (waiting (some []) (s.setSource code v ok)).source code = (s.setSource code v ok).source code from rfl,
    setSource_source_same pos top]
  exact handed

/-! The chain. -/

namespace Begun

theorem refl {s : State} (mode : s.mode = .init ∨ s.mode = .tripped)
    (lines : s.trip.field = .deEnergised ∧ s.trip.brake = .deEnergised) : Begun s s :=
  ⟨mode, rfl, rfl, rfl, rfl, rfl, rfl, lines, List.prefix_refl _, Nat.le_refl _, Nat.le_refl _, fun _ => ⟨rfl, rfl⟩,
    fun _ _ => ⟨rfl, id, rfl⟩⟩

theorem trans {a b c : State} (h : Begun a b) (k : Begun b c) : Begun a c where
  mode := k.mode
  tight := k.tight.trans h.tight
  walk := k.walk.trans h.walk
  tester := k.tester.trans h.tester
  brakes := k.brakes.trans h.brakes
  tables := k.tables.trans h.tables
  ring := k.ring.trans h.ring
  lines := k.lines
  queue := h.queue.trans k.queue
  next := h.next.trans k.next
  count := h.count.trans k.count
  begun init := by
    obtain ⟨ctl, trip⟩ := k.begun init
    obtain ⟨ctl', trip'⟩ := h.begun (by rw [State.mode, ← ctl]; exact init)
    exact ⟨ctl.trans ctl', trip.trans trip'⟩
  idle q unused := by
    have act : b.act = a.act := congrArg Tables.active h.tables
    obtain ⟨points, list, owed⟩ := h.idle q unused
    obtain ⟨points', list', owed'⟩ := k.idle q (by rw [act]; exact unused)
    exact ⟨points'.trans points, fun m => list (list' m), owed'.trans owed⟩

theorem rests {a b : State} (h : Begun a b) (k : AllRest a) : AllRest b := ⟨fun d => by rw [h.brakes]; exact k.rests d⟩

end Begun

/-- A step of the first updates from a start-up that has begun: the codes it hands are among `codes`. -/
structure FirstHands (codes : Nat → Prop) (s t : State) : Prop extends Begun s t where
  source : ∀ c, ¬codes c → c ≠ 54 → c ≠ 55 → t.source c = s.source c
  valid : ∀ c, ¬codes c → (s.source c).valid = true → (t.source c).valid = true
  still : t.mode = .init → ∀ c, ¬codes c → t.source c = s.source c

namespace FirstHands

theorem of_fed {codes : Nat → Prop} {code : Nat} {v : Int} {ok : Bool} {s t : State} (pos : 1 ≤ code)
    (h : FirstFed code v ok s t) (among : codes code) : FirstHands codes s t where
  toBegun := h.toBegun
  source c free := h.source c fun e => free (e ▸ among)
  valid c free := h.valid c fun e => free (e ▸ among)
  still init c free := by
    have other : c ≠ code := fun e => free (e ▸ among)
    exact (source_congr (h.still init) c).trans (setSource_source_ne other pos ..)

theorem trans {codes : Nat → Prop} {a b c : State} (h : FirstHands codes a b) (k : FirstHands codes b c) :
    FirstHands codes a c where
  toBegun := h.toBegun.trans k.toBegun
  source n free x y := (k.source n free x y).trans (h.source n free x y)
  valid n free v := k.valid n free (h.valid n free v)
  still init n free := by
    obtain ⟨ctl, -⟩ := k.begun init
    exact (k.still init n free).trans (h.still (by rw [State.mode, ← ctl]; exact init) n free)

theorem weaken {p q : Nat → Prop} (sub : ∀ c, p c → q c) {s t : State} (h : FirstHands p s t) : FirstHands q s t where
  toBegun := h.toBegun
  source n free := h.source n fun k => free (sub n k)
  valid n free := h.valid n fun k => free (sub n k)
  still init n free := h.still init n fun k => free (sub n k)

end FirstHands

/-- A state in which first updates are handed. -/
structure Starting (s : State) : Prop where
  mode : s.mode = .init ∨ s.mode = .tripped
  lines : s.trip.field = .deEnergised ∧ s.trip.brake = .deEnergised
  rests : AllRest s

theorem Starting.after {s t : State} (h : Starting s) (k : Begun s t) : Starting t := ⟨k.mode, k.lines, k.rests h.rests⟩

theorem Starting.fed {s : State} (h : Starting s) {code : Nat} (pos : 1 ≤ code) (top : code ≤ 79) (v : Int) (ok : Bool)
    (trig : Option (List Byte)) : FirstFed code v ok s (feed code v ok trig s) :=
  feed_first pos top v ok trig h.mode h.lines h.rests

/-- Steps that each hand among the codes, one after the other. -/
theorem Starting.foldl {codes : Nat → Prop} {β : Type} {f : State → β → State}
    (step : ∀ s b, Starting s → FirstHands codes s (f s b)) (l : List β) :
    ∀ {s}, Starting s → FirstHands codes s (l.foldl f s) := by
  induction l with
  | nil =>
    intro s h
    exact ⟨.refl h.mode h.lines, fun _ _ _ _ => rfl, fun _ _ v => v, fun _ _ _ => rfl⟩
  | cons b l ih =>
    intro s h
    have first := step s b h
    exact first.trans (ih (h.after first.toBegun))

end Sys2Proof.Machine
end

section
/-!
Lemmas for the obligations on the power-on reset and on RESTART: the sources after the first updates (R123).
-/

namespace Sys2Proof.Machine

/-! The steps of the first updates, by the codes they hand. -/

theorem Starting.feed {s : State} (h : Starting s) {codes : Nat → Prop} {code : Nat} (pos : 1 ≤ code) (top : code ≤ 79)
    (among : codes code) (v : Int) (ok : Bool) : FirstHands codes s (feed code v ok none s) :=
  .of_fed pos (h.fed pos top v ok none) among

theorem Starting.feedStations {s : State} (h : Starting s) :
    FirstHands (fun c => 38 ≤ c ∧ c ≤ 53) s ((List.finRange 16).foldl (fun s e => feedStation e s) s) := by
  refine Starting.foldl (fun s e k => ?_) _ h
  have low := e.isLt
  unfold feedStation freshSource
  split <;> exact k.feed (by omega) (by omega) (by omega) _ _

theorem Starting.feedAttrs {s : State} (h : Starting s) :
    FirstHands (fun c => 56 ≤ c ∧ c ≤ 68) s ((List.finRange 13).foldl (fun s i => feedAttr i s) s) := by
  refine Starting.foldl (fun s i k => ?_) _ h
  have low := i.isLt
  exact k.feed (by omega) (by omega) (by omega) _ _

/-- A flag of every channel handed. -/
def handFlags (source : Chan → Nat) (flag : Channel → Bool) (s : State) : State :=
  allChans.foldl (fun s c => feed (source c) (flagInt (flag (s.brakes.get c))) true none s) s

/-- The codes of the channels' flags (R124). -/
def FlagSource (lo : Nat) (source : Chan → Nat) : Prop :=
  (∀ c, lo ≤ source c ∧ source c ≤ lo + 3) ∧ ∀ c d, d ≠ c → source c ≠ source d

theorem proveSource_flags : FlagSource 69 proveSource :=
  ⟨fun c => by cases c <;> decide, fun c d => by cases c <;> cases d <;> decide⟩

theorem timeoutSource_flags : FlagSource 73 timeoutSource :=
  ⟨fun c => by cases c <;> decide, fun c d => by cases c <;> cases d <;> decide⟩

/-- Every channel is as after reset. -/
def ResetChannels (s : State) : Prop := ∀ c, s.brakes.get c = resetChannel

section Flags

variable {lo : Nat} {source : Chan → Nat} (codes : FlagSource lo source) (low : 56 ≤ lo) (high : lo ≤ 73)
  (flag : Channel → Bool) {s : State} (h : Starting s)
include codes low high h

theorem Starting.handFlags : FirstHands (fun c => lo ≤ c ∧ c ≤ lo + 3) s (handFlags source flag s) := by
  obtain ⟨range, -⟩ := codes
  refine Starting.foldl (fun _ c k => ?_) _ h
  have within := range c
  exact k.feed (by omega) (by omega) (by omega) _ _

theorem handFlags_source (unset : flag resetChannel = false) (reset : ResetChannels s) (c : Chan) :
    (Machine.handFlags source flag s).source (source c) = { value := 0, valid := true } := by
  obtain ⟨range, apart⟩ := codes
  have within := range c
  refine foldl_feed_source (P := fun u => Starting u ∧ ResetChannels u) (value := fun _ => { value := 0, valid := true })
    (a := c) (fun u d k => ?_) (fun u k => ?_) (fun u d other => ?_) (by decide) (by cases c <;> decide) s ⟨h, reset⟩
  · obtain ⟨starting, channels⟩ := k
    have within := range d
    have fed := starting.fed (code := source d) (by omega) (by omega) (flagInt (flag (u.brakes.get d))) true none
    exact ⟨starting.after fed.toBegun, fun e => by rw [fed.brakes]; exact channels e⟩
  · obtain ⟨-, channels⟩ := k
    rw [feed_source_same (by omega) (by omega) (by omega) (by omega) (by omega), channels c, unset]
    rfl
  · have within := range d
    exact feed_sources (by omega) (apart c d other) (by omega) (by omega) (by omega)

end Flags

/-! All of them. -/

/-- The first updates up to those of the trip records. -/
def feedRecords (s : State) : State :=
  let s := (List.finRange 16).foldl (fun s e => feedStation e s) s
  feed 54 s.trip.queue.length true none s

/-- The channels' flags handed. -/
def feedChannels (s : State) : State :=
  handFlags timeoutSource Channel.releaseTimeout (handFlags proveSource Channel.proveFailed s)

/-- The first updates after those of the trip records. -/
def feedRest (s : State) : State :=
  let s := feedChannels ((List.finRange 13).foldl (fun s i => feedAttr i s) s)
  let s := feed 77 (flagInt s.walk.camReversal) true none s
  feed 79 (s.counter .removedRefusedRef).toNat true none s

theorem firstUpdates_eq (s : State) :
    firstUpdates s = feedRest (feed 55 (feedRecords s).trip.notStored true none (feedRecords s)) := rfl

/-- A step after those that have been made. -/
theorem FirstHands.step {codes : Nat → Prop} {s a b : State} (h : Starting s) (k : FirstHands codes s a)
    (next : Starting a → FirstHands codes a b) : FirstHands codes s b :=
  k.trans (next (h.after k.toBegun))

theorem Starting.feedChannels {s : State} (h : Starting s) : FirstHands (fun c => 69 ≤ c ∧ c ≤ 76) s (feedChannels s) :=
  .step h ((h.handFlags proveSource_flags (by decide) (by decide) _).weaken fun c k => by omega) fun k =>
    (k.handFlags timeoutSource_flags (by decide) (by decide) _).weaken fun c k => by omega

/-- The codes handed after those of the trip records. -/
def RestCodes (c : Nat) : Prop := (56 ≤ c ∧ c ≤ 77) ∨ c = 79

theorem Starting.feedRest {s : State} (h : Starting s) : FirstHands RestCodes s (feedRest s) := by
  have flags : FirstHands RestCodes s (Machine.feedChannels ((List.finRange 13).foldl (fun s i => feedAttr i s) s)) :=
    .step h (h.feedAttrs.weaken fun c k => .inl (by omega)) fun k => k.feedChannels.weaken fun c k => .inl (by omega)
  unfold Machine.feedRest
  dsimp only
  generalize Machine.feedChannels _ = a at flags ⊢
  have cam := FirstHands.step h flags fun k => k.feed (code := 77) (by decide) (by decide) (.inl (by decide))
    (flagInt a.walk.camReversal) true
  generalize Machine.feed 77 _ true none a = b at cam ⊢
  exact .step h cam fun k => k.feed (by decide) (by decide) (.inr rfl) _ _

/-! The sources after them. -/

theorem exists_proveSource {n : Nat} (low : 69 ≤ n) (high : n ≤ 72) : ∃ c, n = proveSource c := by
  obtain rfl | rfl | rfl | rfl : n = 69 ∨ n = 70 ∨ n = 71 ∨ n = 72 := by omega
  · exact ⟨.hoist, rfl⟩
  · exact ⟨.drag, rfl⟩
  · exact ⟨.swing, rfl⟩
  · exact ⟨.walk, rfl⟩

theorem exists_timeoutSource {n : Nat} (low : 73 ≤ n) (high : n ≤ 76) : ∃ c, n = timeoutSource c := by
  obtain rfl | rfl | rfl | rfl : n = 73 ∨ n = 74 ∨ n = 75 ∨ n = 76 := by omega
  · exact ⟨.hoist, rfl⟩
  · exact ⟨.drag, rfl⟩
  · exact ⟨.swing, rfl⟩
  · exact ⟨.walk, rfl⟩

theorem feedChannels_source {s : State} (h : Starting s) (reset : ResetChannels s) {n : Nat} (low : 69 ≤ n)
    (high : n ≤ 76) : (feedChannels s).source n = { value := 0, valid := true } := by
  have proves := h.handFlags proveSource_flags (by decide) (by decide) Channel.proveFailed
  have starting := h.after proves.toBegun
  unfold feedChannels
  by_cases prove : n ≤ 72
  · obtain ⟨c, rfl⟩ := exists_proveSource low prove
    have timeouts := starting.handFlags timeoutSource_flags (by decide) (by decide) Channel.releaseTimeout
    rw [timeouts.source _ (by omega) (by omega) (by omega)]
    exact handFlags_source proveSource_flags (by decide) (by decide) _ h rfl reset c
  · obtain ⟨c, rfl⟩ := exists_timeoutSource (by omega) high
    exact handFlags_source timeoutSource_flags (by decide) (by decide) _ starting rfl
      (fun e => by rw [proves.brakes]; exact reset e) c

theorem feedRest_flags {s : State} (h : Starting s) (reset : ResetChannels s) (forward : s.walk.camReversal = false)
    {n : Nat} (low : 69 ≤ n) (high : n ≤ 77) : (feedRest s).source n = { value := 0, valid := true } := by
  have attrs := h.feedAttrs
  have starting := h.after attrs.toBegun
  have channels := feedChannels_source starting (fun e => by rw [attrs.brakes]; exact reset e) low
  have walk := (starting.feedChannels.walk.trans attrs.walk)
  unfold feedRest
  dsimp only
  rw [feed_sources (by decide) (by omega) (by omega) (by omega) (by omega)]
  by_cases cam : n = 77
  · rw [cam, feed_source_same (by decide) (by decide) (by decide) (by decide) (by decide), walk, forward]
    rfl
  · rw [feed_sources (by decide) cam (by omega) (by omega) (by omega)]
    exact channels (by omega)

/-- What the first updates leave of a start-up (R123). -/
structure FirstUpdated (s t : State) : Prop extends Begun s t where
  rest : ∀ n, (n ≤ 37 ∨ n = 78) → t.source n = s.source n
  queued : (t.source 54).valid = true
  counted : (t.source 55).valid = true
  records : t.mode = .init → t.source 54 = { value := s.trip.queue.length, valid := true }
    ∧ t.source 55 = { value := s.trip.notStored, valid := true }
  flags : ResetChannels s → s.walk.camReversal = false → ∀ n, 69 ≤ n → n ≤ 77 → t.source n = { value := 0, valid := true }

theorem firstUpdates_first {s : State} (h : Starting s) : FirstUpdated s (firstUpdates s) := by
  rw [firstUpdates_eq]
  unfold feedRecords
  dsimp only
  have stations := h.feedStations
  generalize (List.finRange 16).foldl (fun s e => feedStation e s) s = a at stations ⊢
  have afterStations := h.after stations.toBegun
  have queue := afterStations.fed (code := 54) (by decide) (by decide) a.trip.queue.length true none
  have length := FirstHands.of_fed (codes := fun c => c = 54) (by decide) queue rfl
  generalize feed 54 a.trip.queue.length true none a = b at queue length ⊢
  have afterQueue := afterStations.after queue.toBegun
  have count := afterQueue.fed (code := 55) (by decide) (by decide) b.trip.notStored true none
  have lost := FirstHands.of_fed (codes := fun c => c = 55) (by decide) count rfl
  generalize feed 55 b.trip.notStored true none b = c at count lost ⊢
  have afterCount := afterQueue.after count.toBegun
  have rest := afterCount.feedRest
  have flags := fun reset forward n => feedRest_flags (n := n) afterCount reset forward
  generalize feedRest c = t at rest flags ⊢
  have begun := ((stations.toBegun.trans queue.toBegun).trans count.toBegun)
  have outside {n : Nat} (low : n ≤ 55 ∨ n = 78) : ¬RestCodes n := by unfold RestCodes; omega
  refine ⟨begun.trans rest.toBegun, fun n low => ?_, ?_, ?_, fun init => ?_, fun reset forward n => ?_⟩
  · rw [rest.source n (outside (by omega)) (by omega) (by omega), lost.source n (by omega) (by omega) (by omega),
      length.source n (by omega) (by omega) (by omega), stations.source n (by omega) (by omega) (by omega)]
  · exact rest.valid 54 (outside (by omega)) (lost.valid 54 (by decide) (queue.own rfl))
  · exact rest.valid 55 (outside (by omega)) (count.own rfl)
  · obtain ⟨ctlT, -⟩ := rest.begun init
    have initC : c.mode = .init := by rw [State.mode, ← ctlT]; exact init
    obtain ⟨ctlC, -⟩ := count.begun initC
    have initB : b.mode = .init := by rw [State.mode, ← ctlC]; exact initC
    obtain ⟨ctlB, tripB⟩ := queue.begun initB
    obtain ⟨-, tripA⟩ := stations.begun (by rw [State.mode, ← ctlB]; exact initB)
    rw [rest.still init 54 (outside (by omega)), rest.still init 55 (outside (by omega)),
      lost.still initC 54 (by decide), source_congr (queue.still initB), source_congr (count.still initC),
      setSource_source_same (by decide) (by decide), setSource_source_same (by decide) (by decide), tripB, tripA]
    exact ⟨rfl, rfl⟩
  · exact flags (fun e => by rw [begun.brakes]; exact reset e) (by rw [begun.walk]; exact forward) n

end Sys2Proof.Machine
end

section
/-!
Lemmas for the obligations on the power-on reset and on RESTART: the notices built at the end of start-up, and the end
of start-up with the analog channels settling (R18, R32, R33, R201).
-/

namespace Sys2Proof.Machine

/-! The notices. -/

/-- OUT has forwarded nothing in a row, and nothing waits to be forwarded. -/
def NothingForwarded (s : State) : Prop := s.ring.fwd = [] ∧ s.ring.consec = 0

theorem choose_nothingForwarded {s : State} (h : NothingForwarded s) : NothingForwarded (choose s) := by
  obtain ⟨fwd, consec⟩ := h
  unfold choose
  dsimp only
  rw [fwd]
  split
  · rw [List.isEmpty_nil, Bool.true_or, if_pos rfl]
    exact ⟨rfl, rfl⟩
  · rename_i none
    cases none
  · exact ⟨rfl, consec⟩

theorem joinInsert_nothingForwarded (e : InsEntry) {s : State} (h : NothingForwarded s) :
    NothingForwarded (joinInsert e s) := by
  unfold joinInsert chooseIfIdle
  have joined : NothingForwarded { s with ring := { s.ring with ins := insertEntry e s.ring.ins } } := h
  split
  · exact choose_nothingForwarded joined
  · exact joined

theorem finish_nothingForwarded {s : State} (h : NothingForwarded s) : NothingForwarded (finish s) := by
  have built (n : Nat) : ∀ u, NothingForwarded u → NothingForwarded (buildNotices n u) := by
    induction n with
    | zero => exact fun _ k => k
    | succ n ih =>
      intro u k
      refine ih _ ?_
      unfold buildOne
      repeat' split
      · exact joinInsert_nothingForwarded _ k
      · exact joinInsert_nothingForwarded _ k
      · exact k
      · exact k
  exact built 16 s h

/-- With room and nothing queued the Status Notice that is owed is built (R18). -/
theorem finish_builds_status {s : State} (room : s.noticeRoom = true) (owed : s.statusOwed = true)
    (free : s.ring.ins = []) : Inserted .status 63#8 8#4 (finish s).statusFields (finish s) := by
  have buildable : s.statusBuildable = true := by
    unfold State.statusBuildable
    rw [owed, free]
    rfl
  have first : buildOne s = buildStatus s := by
    unfold buildOne
    rw [if_pos room, if_pos buildable]
  have built : finish s = buildNotices 15 (buildStatus s) := by
    rw [← first]
    rfl
  rw [(finish_kept s).statusFields, built]
  exact buildNotices_inserted 15 _ (joinInsert_self (s := { s with statusOwed := false }) rfl)

/-- No point joins the owed set at the end of a command. -/
theorem finish_unowed {p : Fin 48} {s : State} (h : s.owed[p] = false) : (finish s).owed[p] = false := by
  have step (u : State) (k : ¬PointOwed p u) : ¬PointOwed p (buildOne u) := by
    unfold buildOne
    split
    · split
      · unfold buildStatus joinInsert PointOwed
        rw [chooseIfIdle_rest]
        exact k
      · split
        · rename_i q _
          unfold buildAlarm joinInsert PointOwed
          rw [chooseIfIdle_rest]
          show ¬(u.owed.set q false)[p.val] = true
          rw [Vector.getElem_set]
          split
          · exact Bool.false_ne_true
          · exact k
        · exact k
    · exact k
  have built (n : Nat) : ∀ u, ¬PointOwed p u → ¬PointOwed p (buildNotices n u) := by
    induction n with
    | zero => exact fun _ k => k
    | succ n ih => exact fun u k => ih _ (step u k)
  have unowed := built 16 s (by unfold PointOwed; rw [h]; exact Bool.false_ne_true)
  exact Bool.eq_false_iff.mpr unowed

/-! The end of start-up. -/

/-- The mode record with its reason worked out again in INIT (R32). -/
def reasoned (s : State) : ModeCtl := if s.mode = .init then { s.ctl with reason := s.workedReason } else s.ctl

theorem updateReason_reasoned (s : State) :
    updateReason s = { s with ctl := reasoned s, statusOwed := (updateReason s).statusOwed } := by
  unfold updateReason reasoned
  split <;> rfl

theorem reasoned_mode (s : State) : (reasoned s).mode = s.mode := by
  unfold reasoned
  split <;> rfl

/-- With an analog channel settling no start condition lets the machine park (R33, R149). -/
theorem endStartUp_settling {a m : State} (hm : startMinute (firstUpdates (startPoints a)) = m)
    (settles : AnalogSettles m) : endStartUp a = { m with ctl := reasoned m, statusOwed := true } := by
  have unready (u : State) (same : u.analog = m.analog) : u.startReady = false := by
    rw [Bool.eq_false_iff]
    intro ready
    obtain ⟨-, -, -, -, -, still⟩ := (startReady_iff u).mp ready
    refine still ?_
    unfold AnalogSettles
    rw [same]
    exact settles
  have worked := updateReason_reasoned m
  rw [endStartUp_eq, hm]
  generalize updateReason m = u at worked ⊢
  have mode : u.mode = m.mode := by
    rw [worked]
    exact reasoned_mode m
  have tested : initTest u = updateReason u := by
    by_cases init : u.mode = .init
    · exact initTest_waits init (unready u (by rw [worked]))
    · rw [show initTest u = u from if_neg init, show updateReason u = u from if_neg init]
  have again : reasoned u = reasoned m := by
    have reason : u.workedReason = m.workedReason := by rw [worked]; rfl
    have ctl : u.ctl = reasoned m := by rw [worked]
    unfold reasoned at ctl ⊢
    rw [mode, reason, ctl]
    split <;> rfl
  have twice := updateReason_reasoned u
  rw [tested]
  generalize updateReason u = w at twice ⊢
  rw [again] at twice
  generalize w.statusOwed = o at twice
  generalize u.statusOwed = o' at worked
  rw [twice, worked]
  rfl

end Sys2Proof.Machine
end

section
/-!
Lemmas for the obligations on the power-on reset and on RESTART: the end of start-up from the state that the frames
before it left, part by part (R123, R143, R201).
-/

namespace Sys2Proof.Machine

/-! Start-up with no point on a source that is handed. -/

/-- The sources alone differ. -/
def SourcesMove (s t : State) : Prop := t = { s with alarm := { s.alarm with sources := t.alarm.sources } }

/-- No point in use watches a source handed with VALID at start-up (R123). -/
def StartUnwatched (tables : TableSet) : Prop :=
  ∀ p : Fin 48, (tables.points[p]).enabled = true → (tables.points[p]).source < 38 ∨ (tables.points[p]).source = 78

section Unwatched

variable {b s : State} (free : StartUnwatched b.act)
include free

theorem SourcesMove.feed (h : SourcesMove b s) {code : Nat} (low : 38 ≤ code) (other : code ≠ 78) (v : Int) (ok : Bool) :
    SourcesMove b (feed code v ok none s) := by
  have act : s.act = b.act := (congrArg State.act h :)
  have unwatched : s.pointsOn code = [] := by
    rw [List.eq_nil_iff_forall_not_mem]
    intro p mem
    obtain ⟨enabled, source⟩ := (mem_pointsOn code).mp mem
    rw [act] at enabled source
    have apart := free p enabled
    omega
  rw [feed_unwatched _ _ _ unwatched]
  unfold SourcesMove at h ⊢
  unfold State.setSource
  generalize s.source code = old
  generalize s.alarm.sources = v at h
  rw [h]

theorem firstUpdates_unwatched : SourcesMove b (firstUpdates b) := by
  have stations (s : State) (e : Fin 16) (h : SourcesMove b s) : SourcesMove b (feedStation e s) := by
    unfold feedStation freshSource
    split <;> exact h.feed free (by omega) (by omega) _ _
  have attrs (s : State) (i : Fin 13) (h : SourcesMove b s) : SourcesMove b (feedAttr i s) :=
    h.feed free (by omega) (by omega) _ _
  have flags {lo : Nat} {source : Chan → Nat} (codes : FlagSource lo source) (low : 38 ≤ lo) (high : lo ≤ 74)
      (flag : Channel → Bool) (s : State) (h : SourcesMove b s) : SourcesMove b (handFlags source flag s) := by
    obtain ⟨range, -⟩ := codes
    refine keeps_foldl (fun u c k => ?_) _ _ h
    have within := range c
    exact k.feed free (by omega) (by omega) _ _
  have start : SourcesMove b b := rfl
  have handed : SourcesMove b (feedRecords b) :=
    (keeps_foldl stations _ _ start).feed free (by decide) (by decide) _ _
  have counted := handed.feed free (code := 55) (by decide) (by decide) (feedRecords b).trip.notStored true
  rw [firstUpdates_eq]
  generalize Machine.feed 55 _ true none _ = c at counted ⊢
  have records := keeps_foldl attrs (List.finRange 13) c counted
  unfold feedRest
  dsimp only
  generalize (List.finRange 13).foldl (fun s i => feedAttr i s) c = d at records ⊢
  have channels : SourcesMove b (feedChannels d) :=
    flags timeoutSource_flags (by decide) (by decide) _ _ (flags proveSource_flags (by decide) (by decide) _ _ records)
  generalize feedChannels d = e at channels ⊢
  have cam := channels.feed free (code := 77) (by decide) (by decide) (flagInt e.walk.camReversal) true
  generalize Machine.feed 77 _ true none e = g at cam ⊢
  exact cam.feed free (by decide) (by decide) _ _

end Unwatched

/-! What a start-up leaves. -/

theorem workedReason_congr {s t : State} (own : t.ring.own = s.ring.own) (tables : t.tables = s.tables)
    (trip : t.trip = s.trip) : t.workedReason = s.workedReason := by
  unfold State.workedReason State.tripHold State.ownValid State.act
  rw [own, tables, trip]

/-- The state from which the first updates are handed: INIT, with every record as after reset. -/
structure AtStart (b : State) : Prop where
  mode : b.mode = .init
  ctl : ∃ reason, b.ctl = { resetCtl with reason := reason }
  lines : b.trip.field = .deEnergised ∧ b.trip.brake = .deEnergised
  channels : ResetChannels b
  walk : b.walk = resetWalk
  tight : b.tight = resetTight
  analog : ∀ ch : Fin 4, b.analog[ch] = resetAin
  fwd : b.ring.fwd = []
  ins : b.ring.ins = []
  sending : b.ring.sending = none
  reserved : b.ring.reserved = 0
  consec : b.ring.consec = 0
  insSeq : b.ring.insSeq = 0#8
  points : ∀ p : Fin 48, b.alarm.points[p] = { resetPoint with
    state := if (b.act.points[p]).enabled && armedIn (b.act.points[p]) .init then .normal else .disarmed }
  list : b.alarm.list = []
  owed : ∀ p : Fin 48, b.owed[p] = false
  sources : ∀ n, 1 ≤ n → n ≤ 79 → b.source n = { value := 0, valid := false }

/-- What the end of start-up leaves of the state `b` from which the first updates are handed and of the state `f` that
they leave. -/
structure Ended (b f t : State) : Prop where
  updated : FirstUpdated b f
  frame : t = { f with attrs := t.attrs, ctl := reasoned f, ring := t.ring, owed := t.owed, statusOwed := t.statusOwed }
  ring : { t.ring with ins := [], sending := none, consec := 0, insSeq := 0#8 }
    = { b.ring with ins := [], sending := none, consec := 0, insSeq := 0#8 }
  consec : t.ring.consec = 0
  bad : ¬StationGood t → t.ring = b.ring
  good : StationGood t → Inserted .status 63#8 8#4 t.statusFields t
  owed : ∀ p : Fin 48, f.owed[p] = false → t.owed[p] = false

theorem AtStart.starting {b : State} (h : AtStart b) : Starting b :=
  ⟨.inl h.mode, h.lines, ⟨fun d => by rw [h.channels d]; exact .inl rfl⟩⟩

theorem AtStart.settles {b m : State} (h : AtStart b) (same : m.analog = b.analog) : AnalogSettles m :=
  ⟨0, by rw [same, h.analog 0]; rfl⟩

theorem startMinute_analog (s : State) : (startMinute s).analog = s.analog := rfl

theorem reasoned_startMinute (s : State) : reasoned (startMinute s) = reasoned s := rfl

/-- The end of start-up, from the state that the first updates leave. -/
theorem AtStart.endStartUp {a b : State} (hb : startPoints a = b) (h : AtStart b) :
    endStartUp a = { startMinute (firstUpdates b) with ctl := reasoned (firstUpdates b), statusOwed := true } := by
  have kept := (startMinute_analog (firstUpdates b)).trans (firstUpdates_kept b).analog
  rw [← reasoned_startMinute]
  refine endStartUp_settling ?_ (h.settles kept)
  rw [hb]

section Notices

variable {b f e : State} (h : AtStart b) (updated : FirstUpdated b f)
  (frame : e = { f with attrs := e.attrs, ctl := reasoned f, statusOwed := true })
include h updated frame

theorem AtStart.room : e.noticeRoom = e.ownValid := by
  have ring : e.ring = b.ring := by rw [frame]; exact updated.ring
  unfold State.noticeRoom State.freeCount
  rw [ring, h.ins, h.reserved]
  exact Bool.and_true _

theorem AtStart.finished : Ended b f (finish e) := by
  have ring : e.ring = b.ring := by rw [frame]; exact updated.ring
  have owed : e.owed = f.owed := by rw [frame]
  have status : e.statusOwed = true := by rw [frame]
  have room := h.room updated frame
  have built := finish_kept e
  have consec := finish_nothingForwarded (s := e) ⟨by rw [ring]; exact h.fwd, by rw [ring]; exact h.consec⟩
  have valid : StationGood (finish e) ↔ e.ownValid = true := by
    rw [ownValid_iff]
    unfold StationGood
    rw [finish_own]
  refine ⟨updated, ?_, by rw [built.ring, ring], consec.2, fun bad => ?_, fun good => ?_,
    fun p unowed => finish_unowed (by rw [owed]; exact unowed)⟩
  · have rest := built.rest
    generalize finish e = t at rest ⊢
    have attrs : t.attrs = e.attrs := by rw [rest]
    rw [attrs]
    generalize t.ring = r, t.owed = o, t.statusOwed = d at rest ⊢
    rw [rest]
    generalize e.attrs = y at frame ⊢
    rw [frame]
  · rw [finish_noRoom (by rw [room]; exact Bool.eq_false_iff.mpr fun k => bad (valid.mpr k)), ring]
  · exact finish_builds_status (by rw [room]; exact valid.mp good) status (by rw [ring]; exact h.ins)

end Notices

/-- The end of start-up before its notices, from the state that the first updates leave. -/
def startEnd (f : State) : State := { startMinute f with ctl := reasoned f, statusOwed := true }

theorem startEnd_frame (f : State) :
    startEnd f = { f with attrs := (startEnd f).attrs, ctl := reasoned f, statusOwed := true } := rfl

theorem AtStart.ended {a b : State} (hb : startPoints a = b) (h : AtStart b) :
    Ended b (firstUpdates b) (finish (Machine.endStartUp a)) := by
  have run : Machine.endStartUp a = startEnd (firstUpdates b) := h.endStartUp hb
  rw [run]
  exact h.finished (firstUpdates_first h.starting) (startEnd_frame _)

end Sys2Proof.Machine
end

section
/-!
Lemmas for the obligations on the power-on reset and on RESTART: what a start-up with no frame before it leaves of
everything that a RESTART does not keep (R201).
-/

namespace Sys2Proof.Machine

/-! The state from which the first updates are handed. -/

theorem startPoints_rest (a : State) :
    startPoints a = { a with alarm := { a.alarm with points := (startPoints a).alarm.points, list := [] } } := rfl

theorem startPoints_point (a : State) (p : Fin 48) : (startPoints a).alarm.points[p] = { resetPoint with
    state := if (a.act.points[p]).enabled && armedIn (a.act.points[p]) .init then .normal else .disarmed } :=
  Vector.getElem_map ..

/-- The tables, the records of wear and level and the points stand; all else is as the frames before left it. -/
theorem start_rest {v a b : State} (ha : OnlyAttrs (loadTables v) a) (hb : startPoints a = b) :
    b = { v with tables := b.tables, stations := b.stations, attrs := b.attrs, store := b.store
                 alarm := { v.alarm with points := b.alarm.points, list := [] } } := by
  obtain ⟨attrs, -⟩ := ha
  have tables := loadTables_only v
  have points := startPoints_rest a
  rw [hb] at points
  generalize b.alarm.points = p at points ⊢
  rw [points]
  clear points hb
  generalize loadTables v = w at attrs tables
  generalize a.attrs = x, a.store.attrsLost = y at attrs
  rw [attrs]
  generalize w.tables = t, w.stations = st at tables
  rw [tables]

theorem atStart {s v a b : State} (hv : BeforeTables s v) (ha : OnlyAttrs (loadTables v) a) (hb : startPoints a = b) :
    AtStart b := by
  obtain ⟨-, -, fwd, ins, sending, reserved, consec, insSeq, -, -, -, -, -, -, good, bad, field, brake, -, analog, -,
    channels, tight, walk, sources, points, -⟩ := hv
  have rest := start_rest ha hb
  have act : b.act = a.act := by rw [← hb]; rfl
  have reset (p : Fin 48) := startPoints_point a p
  rw [hb, ← act] at reset
  have ctl : ∃ reason, v.ctl = { resetCtl with reason := reason } := by
    by_cases own : StationGood v
    · exact ⟨_, good own⟩
    · exact ⟨_, bad own⟩
  have same : b.ctl = v.ctl := by rw [rest]
  refine ⟨?_, by rw [same]; exact ctl, ?_, fun c => ?_, ?_, ?_, fun ch => ?_, ?_, ?_, ?_, ?_, ?_, ?_, reset, ?_,
    fun p => ?_, fun n low high => ?_⟩
  · obtain ⟨reason, eq⟩ := ctl
    rw [State.mode, same, eq]
    rfl
  · rw [rest]; exact ⟨field, brake⟩
  · rw [rest]; exact channels c
  · rw [rest]; exact walk
  · rw [rest]; exact tight
  · rw [rest]; exact analog ch
  · rw [rest]; exact fwd
  · rw [rest]; exact ins
  · rw [rest]; exact sending
  · rw [rest]; exact reserved
  · rw [rest]; exact consec
  · rw [rest]; exact insSeq
  · rw [rest]
  · rw [rest]; exact (points p).2
  · rw [source_congr (s := v) (by rw [rest]) n]
    exact sources n low high

/-! What it leaves. -/

section Ended

variable {b f t : State} (h : AtStart b) (k : Ended b f t)
include k

/-- What the end of start-up leaves of the state that the first updates leave. -/
theorem Ended.parts : t.ctl = reasoned f ∧ t.trip = f.trip ∧ t.alarm = f.alarm ∧ t.brakes = f.brakes
    ∧ t.tight = f.tight ∧ t.walk = f.walk ∧ t.tables = f.tables ∧ t.tester = f.tester
    ∧ ∀ n, t.source n = f.source n := by
  have frame := k.frame
  clear k
  generalize t.attrs = x, t.ring = r, t.owed = o, t.statusOwed = d at frame
  rw [frame]
  exact ⟨rfl, rfl, rfl, rfl, rfl, rfl, rfl, rfl, fun n => source_congr rfl n⟩

theorem Ended.mode : t.mode = f.mode := by
  obtain ⟨ctl, -⟩ := k.parts
  rw [State.mode, ctl]
  exact reasoned_mode f

theorem Ended.own : t.ring.own = f.ring.own := by
  rw [k.updated.ring]
  exact (congrArg Ring.own k.ring :)

include h

/-- In INIT the mode record is as at reset with its reason worked out (R32). -/
theorem Ended.reason (init : t.mode = .init) : t.ctl = { resetCtl with reason := t.workedReason } := by
  obtain ⟨ctl, trip, -, -, -, -, tables, -⟩ := k.parts
  have begun : f.mode = .init := k.mode.symm.trans init
  obtain ⟨same, -⟩ := k.updated.begun begun
  obtain ⟨reason, reset⟩ := h.ctl
  rw [ctl, workedReason_congr k.own tables trip]
  unfold reasoned
  rw [if_pos begun, same, reset]

/-- The sources that no first update hands are as after reset. -/
theorem Ended.unhanded {n : Nat} (pos : 1 ≤ n) (low : n ≤ 37 ∨ n = 78) :
    t.source n = { value := 0, valid := false } := by
  obtain ⟨-, -, -, -, -, -, -, -, source⟩ := k.parts
  rw [source, k.updated.rest n low]
  exact h.sources n pos (by omega)

/-- The flags' sources hold 0. -/
theorem Ended.flags {n : Nat} (low : 69 ≤ n) (high : n ≤ 77) : t.source n = { value := 0, valid := true } := by
  obtain ⟨-, -, -, -, -, -, -, -, source⟩ := k.parts
  rw [source]
  exact k.updated.flags h.channels (by rw [h.walk]; rfl) n low high

/-- A point not in use is as after reset (R143). -/
theorem Ended.unused {p : Fin 48} (unused : (t.act.points[p]).enabled = false) :
    t.alarm.points[p] = resetPoint ∧ p ∉ t.alarm.list ∧ t.owed[p] = false := by
  obtain ⟨-, -, alarm, -, -, -, tables, -⟩ := k.parts
  have act : t.act = b.act := congrArg Tables.active (tables.trans k.updated.tables)
  rw [act] at unused
  obtain ⟨points, list, owed⟩ := k.updated.idle p unused
  rw [alarm]
  refine ⟨?_, fun mem => ?_, k.owed p (owed.trans (h.owed p))⟩
  · rw [points, h.points p, unused, Bool.false_and, if_neg Bool.false_ne_true]
    rfl
  · have none := list mem
    rw [h.list] at none
    exact List.not_mem_nil none

end Ended

/-- With no point on a source that is handed every point is as R143 gives. -/
theorem Ended.unwatched {b t : State} (h : AtStart b) (k : Ended b (firstUpdates b) t)
    (free : StartUnwatched t.act) :
    t.mode = .init ∧ t.alarm.list = []
      ∧ ∀ p : Fin 48, t.owed[p] = false ∧ t.alarm.points[p] =
          { state := if (t.act.points[p]).enabled = true ∧ (t.act.points[p]).mask.getLsbD 0 = true then .normal
                     else .disarmed
            mark := false, tDelay := none, tShelf := none, since := none, chValue := 0, chValid := false
            chTime := 0 } := by
  obtain ⟨-, -, alarm, -, -, -, tables, -⟩ := k.parts
  have act : t.act = b.act := congrArg Tables.active (tables.trans k.updated.tables)
  rw [act] at free
  have mode := k.mode
  have unowed := k.owed
  have moved := firstUpdates_unwatched free
  clear k
  generalize firstUpdates b = f at *
  rw [act, alarm]
  have owed : f.owed = b.owed := by rw [moved]
  have points : f.alarm.points = b.alarm.points := by rw [moved]
  have list : f.alarm.list = b.alarm.list := by rw [moved]
  have init : f.mode = b.mode := by rw [moved]
  refine ⟨by rw [mode, init, h.mode], by rw [list, h.list], fun p => ⟨unowed p (by rw [owed]; exact h.owed p), ?_⟩⟩
  rw [points, h.points p, if_congr (Bool.and_eq_true_iff (x := (b.act.points[p]).enabled)) rfl rfl]
  rfl

/-- A start-up with no frame before it leaves all that a RESTART does not keep as after a power-on reset. -/
theorem startedUp {s v a t : State} (hv : BeforeTables s v) (ha : OnlyAttrs (loadTables v) a)
    (ht : t = finish (endStartUp a)) : StartedUp v.store.tablesRegion t := by
  have h := atStart hv ha rfl
  have k := h.ended rfl
  have ends := startEnds ha ht
  rw [← ht] at k
  have unwatched := k.unwatched h
  generalize startPoints a = b at *
  generalize firstUpdates b = f at k unwatched
  clear ha ht
  obtain ⟨vnow, vown, vfwd, -, -, -, -, -, vsilence, vsnapshot, vcounter, -, -, -, -, -, -, -, vfeedback, vanalog,
    vsensors, -, -, -, vsources, -, -, vstate, vpending, -⟩ := hv
  obtain ⟨tables, entries, first, refused, now, pins, own, fwd, silence, snapshot, counter, feedback, sensors, analog,
    minute, store, -⟩ := ends
  obtain ⟨-, trip, alarm, brakes, tight, walk, -⟩ := k.parts
  obtain ⟨-, -, -, -, -, -, -, -, source⟩ := k.parts
  rw [vnow] at entries minute
  have before : (fun e : Fin 16 => (v.source (38 + e.val)).value) = fun _ => 0 := funext fun e => by
    have low := e.isLt
    rw [vsources _ (by omega) (by omega)]
  rw [before] at first
  refine ⟨now.trans vnow, ?_, fwd.trans vfwd, ?_, k.consec, silence.trans vsilence, snapshot.trans vsnapshot,
    fun c => (counter c).trans (vcounter c), fun bad => ?_, k.good, tables, entries, first, fun x => ?_, fun ch => ?_,
    fun ch => ?_, fun c => ?_, ?_, ?_, ?_, ?_, ?_, k.reason h, minute, ?_, ?_, ?_, ?_, fun n low high other => ?_,
    fun n pos low => k.unhanded h pos low, fun p unused => k.unused h unused, unwatched⟩
  · rw [own, vown, pins]
  · exact (congrArg Ring.reserved k.ring :).trans h.reserved
  · rw [k.bad bad]
    exact ⟨h.ins, h.sending, h.insSeq⟩
  · rw [feedback]; exact vfeedback x
  · rw [analog]; exact vanalog ch
  · rw [sensors]; exact vsensors ch
  · rw [brakes, k.updated.brakes]; exact h.channels c
  · rw [tight, k.updated.tight, h.tight]
  · rw [walk, k.updated.walk, h.walk]
  · rw [k.mode]; exact k.updated.mode
  · rw [trip]; exact k.updated.lines.1
  · rw [trip]; exact k.updated.lines.2
  · rw [store]; exact vstate
  · rw [store]; exact vpending
  · rw [source]; exact k.updated.queued
  · rw [source]; exact k.updated.counted
  · by_cases last : n = 79
    · rw [last, refused, vcounter]
      rfl
    · exact k.flags h low (by omega)

end Sys2Proof.Machine
end

section
/-!
Lemmas for the obligations on the power-on reset and on RESTART: the records of wear and level, loaded or kept (R173,
R179), and the trip records and the brake tester after start-up (R156, R190).
-/

namespace Sys2Proof.Machine

/-! The records of wear and level. -/

/-- A record worked out afresh under the tables in force (R179). -/
theorem freshAttr_norm (s : State) (i : Fin 13) (r : AttrRun) :
    (∀ c, marginOf c = i → r.never = true → (freshAttr s i r).norm = 100)
      ∧ (∀ c, marginOf c = i → r.never = false →
          (freshAttr s i r).norm = max 1 (min 100 (100 - quotient (99 * r.raw) (s.act.test.slip.get c))))
      ∧ ((∀ c, marginOf c ≠ i) →
          (freshAttr s i r).norm = max 1 (min 100 (100 - quotient (99 * r.raw) (s.act.attrs[i]).life))) := by
  have norm : (freshAttr s i r).norm = normUnder s.act i { r with norm := 100 } := rfl
  rw [norm]
  refine ⟨fun c level never => ?_, fun c level tested => ?_, fun wear => ?_⟩
  · rw [normUnder_level _ c level, if_pos never]
  · rw [normUnder_level _ c level, if_neg (by rw [tested]; exact Bool.false_ne_true)]
  · rw [normUnder_wear _ wear]
    dsimp only
    omega

/-- A record kept, worked out under the tables in force (R173). -/
theorem keptAttr_norm (s : State) (i : Fin 13) (r : AttrRun) :
    (∀ c, marginOf c = i → r.never = true → (keptAttr s i r).norm = 100)
      ∧ (∀ c, marginOf c = i → r.never = false →
          (keptAttr s i r).norm = max 1 (min 100 (100 - quotient (99 * r.raw) (s.act.test.slip.get c))))
      ∧ ((∀ c, marginOf c ≠ i) → (keptAttr s i r).norm = min r.norm
          (max 1 (min 100 (100 - quotient (99 * r.raw) (s.act.attrs[i]).life)))) := by
  have norm : (keptAttr s i r).norm = normUnder s.act i r := rfl
  rw [norm]
  refine ⟨fun c level never => ?_, fun c level tested => ?_, fun wear => ?_⟩
  · rw [normUnder_level _ c level, if_pos never]
  · rw [normUnder_level _ c level, if_neg (by rw [tested]; exact Bool.false_ne_true)]
  · exact normUnder_wear _ wear

theorem loadAttrs_from (s : State) : AttrsFrom s.store.attrsRegion (loadAttrs s) := by
  unfold AttrsFrom loadAttrs
  cases (regionContents s.store.attrsRegion).bind imageOf with
  | none => exact ⟨rfl, rfl, fun i => Vector.getElem_replicate _⟩
  | some image =>
    obtain ⟨v, minutes⟩ := image
    refine ⟨rfl, rfl, fun i => ?_⟩
    have fresh : (mapAttrs (freshAttr s) v)[i] = freshAttr s i v[i] := mapAttrs_get ..
    dsimp only
    rw [fresh]
    exact ⟨rfl, rfl, rfl, freshAttr_norm s i v[i]⟩

theorem keepAttrs_kept (s : State) : AttrsKept s (keepAttrs s) := by
  refine ⟨rfl, fun i => ?_⟩
  have kept : (keepAttrs s).attrs.recs[i] = keptAttr s i s.attrs.recs[i] := mapAttrs_get ..
  rw [kept]
  exact ⟨rfl, rfl, rfl, keptAttr_norm s i s.attrs.recs[i]⟩

/-- The records and the tables at the end of start-up are those loaded. -/
theorem endStartUp_attrs {a t : State} (ht : t = finish (endStartUp a)) :
    t.attrs.recs = a.attrs.recs ∧ t.attrs.minutes = a.attrs.minutes ∧ t.store = a.store ∧ t.act = a.act := by
  have kept := endStartUp_kept a
  rw [ht, finish_attrs, finish_store, State.act, finish_tables]
  generalize endStartUp a = e at kept ⊢
  exact ⟨(congrArg Attrs.recs kept.attrs :), (congrArg Attrs.minutes kept.attrs :), kept.store,
    congrArg Tables.active kept.tables⟩

theorem powerOn_attrs {w t : State} (ht : t = finish (endStartUp (loadAttrs (loadTables w)))) :
    AttrsFrom w.store.attrsRegion t := by
  obtain ⟨recs, minutes, store, act⟩ := endStartUp_attrs ht
  have region : (loadTables w).store.attrsRegion = w.store.attrsRegion := by rw [loadTables_only]
  have loaded := loadAttrs_from (loadTables w)
  rw [region] at loaded
  generalize loadAttrs (loadTables w) = a at *
  unfold AttrsFrom at loaded ⊢
  rw [minutes, store, recs, act]
  exact loaded

theorem restart_attrs {w t : State} (ht : t = finish (endStartUp (keepAttrs (loadTables w)))) : AttrsKept w t := by
  obtain ⟨recs, minutes, -, act⟩ := endStartUp_attrs ht
  have attrs : (loadTables w).attrs = w.attrs := by rw [loadTables_only]
  have kept := keepAttrs_kept (loadTables w)
  generalize loadTables w = l at *
  generalize keepAttrs l = a at *
  unfold AttrsKept at kept ⊢
  rw [minutes, recs, act, ← attrs]
  exact kept

theorem restart_attrsLost {w t : State} (ht : t = finish (endStartUp (keepAttrs (loadTables w)))) :
    t.store.attrsLost = w.store.attrsLost := by
  obtain ⟨-, -, store, -⟩ := endStartUp_attrs ht
  rw [store]
  show (loadTables w).store.attrsLost = _
  rw [loadTables_only]

/-! The trip records and the brake tester. -/

/-- What a start-up leaves of the trip records and of the brake tester of the state in which its frames were taken. -/
structure RecordsStand (v t : State) : Prop where
  queue : v.trip.queue <+: t.trip.queue
  next : v.trip.next ≤ t.trip.next
  count : v.trip.notStored ≤ t.trip.notStored
  quiet : t.mode = .init → t.trip = v.trip ∧ t.source 54 = { value := v.trip.queue.length, valid := true }
    ∧ t.source 55 = { value := v.trip.notStored, valid := true }
  tester : t.tester = v.tester

theorem recordsStand {s v a t : State} (hv : BeforeTables s v) (ha : OnlyAttrs (loadTables v) a)
    (ht : t = finish (endStartUp a)) : RecordsStand v t := by
  have h := atStart hv ha rfl
  have k := h.ended rfl
  have rest := start_rest ha rfl
  rw [← ht] at k
  clear ht
  generalize startPoints a = b at *
  generalize firstUpdates b = f at k
  have unit : b.trip = v.trip := by rw [rest]
  have record : b.tester = v.tester := by rw [rest]
  obtain ⟨-, trip, -, -, -, -, -, tester, source⟩ := k.parts
  refine ⟨?_, ?_, ?_, fun init => ?_, ?_⟩
  · rw [trip, ← unit]; exact k.updated.queue
  · rw [trip, ← unit]; exact k.updated.next
  · rw [trip, ← unit]; exact k.updated.count
  · have begun : f.mode = .init := k.mode.symm.trans init
    obtain ⟨-, same⟩ := k.updated.begun begun
    obtain ⟨length, lost⟩ := k.updated.records begun
    rw [trip, source, source, length, lost, same, unit]
    exact ⟨rfl, rfl, rfl⟩
  · rw [tester, k.updated.tester, record]

end Sys2Proof.Machine
end

section
/-! The power-on reset. -/

namespace Sys2Proof.Proofs

open Sys2Proof.Machine

/-- Settles O4: no first update touches what a trip does not, in INIT no trip leaves the machine, and the analog
channels that settle keep it from PARKED. -/
theorem powerOnReset : Obligations.PowerOnReset := by
  unfold Obligations.PowerOnReset
  refine ⟨fun straps s => ?_, fun straps early s => ?_⟩
  · have hv := volatileReset_before straps s
    have tables : (volatileReset straps s).store.tablesRegion =
        if s.store.state = .committing then .unfinished else s.store.tablesRegion := rfl
    have attrs : (volatileReset straps s).store.attrsRegion =
        if s.store.state = .saving then .unfinished else s.store.attrsRegion := rfl
    have only := loadAttrs_only (loadTables (volatileReset straps s))
    refine ⟨_, rfl, ?_⟩
    generalize ht : finish (powerOn straps [] s) = t
    have ends : t = finish (endStartUp (loadAttrs (loadTables (volatileReset straps s)))) := ht.symm
    have started := startedUp hv only ends
    have loaded := powerOn_attrs ends
    have records := recordsStand hv only ends
    obtain ⟨-, -, -, -, -, pins, -, -, -, -, -, -, -, -, -, store, -, pending⟩ := startEnds only ends
    rw [← tables, ← attrs]
    clear ht ends only
    refine ⟨started, loaded, pins, fun init => ?_, records.tester, by rw [store]; rfl, pending⟩
    obtain ⟨trip, length, lost⟩ := records.quiet init
    rw [trip]
    exact ⟨rfl, rfl, rfl, length, lost⟩
  · refine ⟨volatileReset straps s, earlyFrames early (volatileReset straps s), _, volatileReset_before straps s, rfl,
      rfl, rfl, rfl, rfl, rfl, earlyFrames_taken early _, rfl, startEnds (loadAttrs_only _) rfl, powerOn_attrs rfl⟩

end Sys2Proof.Proofs
end

section
/-!
Lemmas for the obligation on RESTART: the request, its taking effect, and what is kept over it (R181, R190, R202).
-/

namespace Sys2Proof.Machine

/-! The request. -/

theorem requestRestart_busy (rq : Requester) {u : State}
    (busy : u.store.state ≠ .idle ∨ u.store.restartPending = true) :
    requestRestart rq u = answer rq .busy [] false u := by
  refine if_pos ?_
  rw [Bool.or_eq_true, storeBusy_iff]
  exact busy

theorem requestRestart_idle (rq : Requester) {u : State} (idle : u.store.state = .idle)
    (none : u.store.restartPending = false) :
    requestRestart rq u = answer rq .ok [] true { u with store := { u.store with restartPending := true } } := by
  refine if_neg ?_
  rw [storeBusy_idle idle, none]
  exact Bool.false_ne_true

/-! Its taking effect. -/

/-- Steps 1 and 2 of a restart (R202). -/
def restarting (s : State) : State := keepOver s (volatileReset s.pins.straps s)

theorem restarting_before (s : State) : BeforeTables s (restarting s) := keepOver_before s s (volatileReset_before _ s)

theorem restart_eq (early : List (List Byte)) (s : State) :
    restart early s = endStartUp (keepAttrs (loadTables (earlyFrames early (restarting s)))) := rfl

/-- The counts at the end of the sending are of the ring interface, which a restart resets. -/
theorem restart_countSent (early : List (List Byte)) (s : State) : restart early (countSent s) = restart early s := by
  rw [restart_eq, restart_eq, countSent_rest]
  rfl

theorem sendingDone_restarts (early : List (List Byte)) {s : State} (sends : s.sendsRestart = true) :
    sendingDone early s = restart early s := by
  have busy : s.ring.sending.isSome = true := by
    unfold State.sendsRestart at sends
    cases out : s.ring.sending with
    | none =>
      rw [out] at sends
      cases sends
    | some x => rfl
  unfold sendingDone
  rw [if_pos busy, if_pos sends, restart_countSent]

theorem exec_restartTakesEffect (early : List (List Byte)) {s : State} (sends : s.sendsRestart = true) :
    exec (.restartTakesEffect early) s = .next (finish (restart early s)) := by
  have rule : exec (.restartTakesEffect early) s =
      .next (finish (if s.sendsRestart then sendingDone early s else s)) := rfl
  rw [rule, if_pos sends, sendingDone_restarts early sends]

theorem exec_restartTakesEffect_none (early : List (List Byte)) {s : State} (sends : s.sendsRestart = false) :
    exec (.restartTakesEffect early) s = .next (finish s) := by
  have rule : exec (.restartTakesEffect early) s =
      .next (finish (if s.sendsRestart then sendingDone early s else s)) := rfl
  rw [rule, sends, if_neg Bool.false_ne_true]

/-! What is kept. -/

theorem exists_of_nth1 {α : Type} {k : Nat} {v : Vector α k} {e : Nat} {c : α} (h : nth1 v e = some c) :
    ∃ i : Fin k, e = i.val + 1 ∧ v[i] = c := by
  cases e with
  | zero => exact nomatch h
  | succ n =>
    obtain ⟨inside, entry⟩ := Vector.getElem?_eq_some_iff.mp h
    exact ⟨⟨n, inside⟩, rfl, entry⟩

/-- The status of the last test after a RESTART is that of its descriptor in the log (R181, R190). -/
theorem afterRestart_status (t : Tester) :
    (∀ (i : Fin 12) (d : Descriptor), t.pointer = i.val + 1 → t.log[i] = some d → t.afterRestart.status = d.status)
      ∧ ((∀ (i : Fin 12) (d : Descriptor), t.pointer = i.val + 1 → t.log[i] ≠ some d) →
          t.afterRestart.status = .neverRun) := by
  have status : t.afterRestart.status = match (nth1 t.log t.pointer).join with
    | some d => d.status
    | none => .neverRun := rfl
  refine ⟨fun i d at_ found => ?_, fun none => ?_⟩
  · rw [status, at_, nth1_succ, found]
    rfl
  · rw [status]
    cases found : (nth1 t.log t.pointer).join with
    | none => rfl
    | some d =>
      obtain ⟨i, at_, entry⟩ := exists_of_nth1 (Option.join_eq_some_iff.mp found)
      exact absurd entry (none i d at_)

/-- What a RESTART keeps, from what the start-up leaves of the state of its steps 1 and 2. -/
theorem keptOver {s t : State} (records : RecordsStand (restarting s) t) (attrs : AttrsKept (restarting s) t) :
    KeptOver s t := by
  have tester : t.tester = s.tester.afterRestart := records.tester
  obtain ⟨listed, unlisted⟩ := afterRestart_status s.tester
  refine ⟨records.queue, records.next, records.count, fun init => ?_, ?_, fun i d at_ found => ?_, fun none => ?_, attrs⟩
  · obtain ⟨trip, length, lost⟩ := records.quiet init
    rw [trip]
    exact ⟨rfl, rfl, rfl, length, lost⟩
  · rw [tester]
    rfl
  · rw [tester]
    exact listed i d at_ found
  · rw [tester]
    exact unlisted none

end Sys2Proof.Machine
end

section
/-! RESTART. -/

namespace Sys2Proof.Proofs

open Sys2Proof.Machine

theorem exec_restart {h : Header} {tag : Half} {s u : State} {f : Frame} (hf : f = requestFrame h 18#8 tag [])
    (taken : s.requests f = true) (hu : u = admitted f s) :
    exec (.restart h tag) s = .next (finish (requestRestart (s.asker f) u)) := by
  subst hf
  rw [exec_request (r := .restart) rfl rfl rfl hu taken]
  unfold carryOut
  rfl

theorem restart_requested {h : Header} {tag : Half} {s u : State} {f : Frame} (hf : f = requestFrame h 18#8 tag [])
    (taken : s.requests f = true) (hu : u = admitted f s) :
    ∃ t, exec (.restart h tag) s = .next t
      ∧ ((u.store.state ≠ .idle ∨ u.store.restartPending = true) → Answered (s.asker f) .busy [] t ∧ OnlyRing u t)
      ∧ (u.store.state = .idle → u.store.restartPending = false →
          Answered (s.asker f) .ok [] t ∧ t.store.restartPending = true
            ∧ t = { u with store := { u.store with restartPending := true }, ring := t.ring, owed := t.owed
                           statusOwed := t.statusOwed }) := by
  refine ⟨_, exec_restart hf taken hu, fun busy => ?_, fun idle none => ?_⟩
  · exact answered_onlyRing (by rw [requestRestart_busy _ busy])
  · generalize ht : finish (requestRestart (s.asker f) u) = t
    rw [requestRestart_idle _ idle none] at ht
    obtain ⟨answered, ends⟩ := answered_onlyRing ht.symm
    unfold OnlyRing at ends
    exact ⟨answered, by rw [ends], ends⟩

/-- A restart that takes effect with no frame before its steps 3 to 5. -/
theorem restart_effect {s t : State} (ht : t = finish (restart [] s)) :
    t.now = 0 ∧ (t.mode = .init ∨ t.mode = .tripped)
      ∧ s.trip.queue <+: t.trip.queue
      ∧ t.tester.log = s.tester.log ∧ t.tester.pointer = s.tester.pointer
      ∧ t.tester.nextNumber = s.tester.nextNumber
      ∧ (∀ i : Fin 13, (t.attrs.recs[i]).raw = (s.attrs.recs[i]).raw
          ∧ (t.attrs.recs[i]).never = (s.attrs.recs[i]).never)
      ∧ t.attrs.minutes = s.attrs.minutes
      ∧ t.store.last = s.store.last ∧ t.store.attrsLost = s.store.attrsLost
      ∧ (∀ c, t.brakes.get c = resetChannel) ∧ (∀ c, t.counter c = 0#32) ∧ t.ring.fwd = []
      ∧ StartedUp (if s.store.state = .committing then .unfinished else s.store.tablesRegion) t
      ∧ KeptOver s t ∧ t.pins = s.pins ∧ t.pending = s.pending := by
  have hv := restarting_before s
  have tables : (restarting s).store.tablesRegion =
      if s.store.state = .committing then .unfinished else s.store.tablesRegion := rfl
  have only := keepAttrs_only (loadTables (restarting s))
  have ends : t = finish (endStartUp (keepAttrs (loadTables (restarting s)))) := ht
  have started := startedUp hv only ends
  have records := recordsStand hv only ends
  have attrs := restart_attrs ends
  have lost := restart_attrsLost ends
  obtain ⟨-, -, -, -, -, pins, -, -, -, -, -, -, -, -, -, store, -, pending⟩ := startEnds only ends
  clear ht ends only
  rw [tables] at started
  have kept := keptOver records attrs
  have tester : t.tester = s.tester.afterRestart := records.tester
  obtain ⟨minutes, recs⟩ := attrs
  obtain ⟨now, -, fwd, -, -, -, -, counter, -, -, -, -, -, -, -, -, brakes, -, -, mode, -⟩ := id started
  refine ⟨now, mode, records.queue, by rw [tester]; rfl, by rw [tester]; rfl, by rw [tester]; rfl, fun i => ?_, minutes,
    by rw [store]; rfl, lost, brakes, counter, fwd, started, kept, pins, pending⟩
  obtain ⟨raw, never, -⟩ := recs i
  exact ⟨raw, never⟩

/-- Settles O38: a restart is a start-up from the state that keeps the records, and the ring interface, which the end of
the sending counts in, is reset. -/
theorem restart : Obligations.Restart := by
  unfold Obligations.Restart
  refine ⟨fun h tag s u f hf taken hu => restart_requested hf taken hu, fun s sends => ?_, fun early s sends => ?_,
    fun early s sends => exec_restartTakesEffect_none early sends⟩
  · have complete : exec .sendingComplete s = .next (finish (sendingDone [] s)) := rfl
    rw [sendingDone_restarts [] sends] at complete
    exact ⟨_, exec_restartTakesEffect [] sends, complete, restart_effect rfl⟩
  · refine ⟨restarting s, earlyFrames early (restarting s), _, restarting_before s, rfl, rfl, rfl, rfl, rfl, rfl, rfl, rfl,
      rfl, rfl, rfl, earlyFrames_taken early _, exec_restartTakesEffect early sends, ?_, ?_, ?_⟩
    · exact startEnds (keepAttrs_only _) (by rw [restart_eq])
    · exact restart_attrs (by rw [restart_eq])
    · exact restart_attrsLost (by rw [restart_eq])

end Sys2Proof.Proofs
end
